-- ==== Sys2Proof/Word.lean ====
section
/-! DEFINITION. Words of the Evcon-24 and finite tables keyed by number.
Bit 0 is the least significant bit of every field (R6). -/

namespace Sys2Proof

abbrev Byte := BitVec 8
abbrev Word32 := BitVec 32
abbrev Word64 := BitVec 64

/-- A finite table of numbered things (rings, streams, ports …), keys strictly rising. -/
abbrev Tbl (α : Type) := List (Nat × α)

def Tbl.get? {α : Type} : Tbl α → Nat → Option α
  | [], _ => none
  | (k, v) :: rest, i => if i = k then some v else Tbl.get? rest i

def Tbl.getD {α : Type} (t : Tbl α) (i : Nat) (d : α) : α := (Tbl.get? t i).getD d

/-- Writes entry `i`, keeping the keys in rising order. -/
def Tbl.put {α : Type} : Tbl α → Nat → α → Tbl α
  | [], i, v => [(i, v)]
  | (k, w) :: rest, i, v =>
    if i = k then (i, v) :: rest
    else if i < k then (i, v) :: (k, w) :: rest
    else (k, w) :: Tbl.put rest i v

def Tbl.del {α : Type} : Tbl α → Nat → Tbl α
  | [], _ => []
  | (k, w) :: rest, i => if i = k then rest else (k, w) :: Tbl.del rest i

def Tbl.has {α : Type} (t : Tbl α) (i : Nat) : Bool := (Tbl.get? t i).isSome

/-- Applies `f` to entry `i` where there is one. -/
def Tbl.upd {α : Type} (t : Tbl α) (i : Nat) (f : α → α) : Tbl α :=
  match Tbl.get? t i with
  | some v => Tbl.put t i (f v)
  | none => t

def Tbl.mapV {α β : Type} (t : Tbl α) (f : Nat → α → β) : Tbl β := t.map fun e => (e.1, f e.1 e.2)

def Tbl.filterV {α : Type} (t : Tbl α) (p : Nat → α → Bool) : Tbl α := t.filter fun e => p e.1 e.2

def Tbl.keys {α : Type} (t : Tbl α) : List Nat := t.map Prod.fst

/-- Keys strictly rising: the canonical form of a table. -/
def Tbl.sorted {α : Type} : Tbl α → Bool
  | [] => true
  | [_] => true
  | (a, _) :: (b, v) :: rest => decide (a < b) && Tbl.sorted ((b, v) :: rest)

/-- The lowest number below `bound` that is no key, from `i` upward. -/
def Tbl.firstFree {α : Type} (t : Tbl α) (i : Nat) : (fuel : Nat) → Option Nat
  | 0 => none
  | fuel + 1 => if Tbl.has t i then Tbl.firstFree t (i + 1) fuel else some i

end Sys2Proof
end

