-- ==== Sys2Proof/Wire.lean ====
section
/-! DEFINITION. What reaches the block from outside in one command: the operands that are more than one word.
The complex has no model of its far side (R1); whatever the far side decides arrives in these. -/

namespace Sys2Proof

/-- The functions that can be reset or wedged on their own (glossary "Function", R109). -/
inductive Fn where
  | mover (q : Fin 4)
  | expander (q : Fin 4)
  | quantiser (q : Fin 4)
  | slice (q : Fin 4)
  | causeway (q : Fin 4)
  | translation
  | mere
  | management
deriving DecidableEq, Repr

/-- A bit error that a read meets: `dbl` = two or more bits of the word (uncorrectable), else one (R476).
`bit` is the first flipped bit of the 39, data bits first (R503). -/
structure Flip where
  site : Nat
  unit : Nat
  addr : Nat
  word : Nat
  bit : Nat
  dbl : Bool
deriving DecidableEq, Repr

/-- What the surroundings supply to a step that reads memory: the host's answers for the host aperture (R272),
the host addresses whose access it answers with an error, and the bit errors met. -/
structure Env where
  host : List Host.Cell
  hostErr : List Nat
  flips : List Flip
deriving DecidableEq, Repr

/-- No host answer, no error. -/
def Env.quiet : Env := { host := [], hostErr := [], flips := [] }

/-- What EXTEST captures from the pins, and what is shifted in to be driven (R75). -/
structure ExtestScan where
  captured : List Bool
  drive : List Bool
deriving DecidableEq, Repr

/-- What training finds of a stack: its capacity, and the results at 3.2, 5.0 and 6.4 Gb/s (R97). -/
structure StackFound where
  capGiB : Nat
  results : List Word32
deriving DecidableEq, Repr

/-- A level that DFI_PHYUPD_REQ of a stack takes (R50). -/
structure PhyupdReq where
  stack : Fin 24
  level : Bool
deriving DecidableEq, Repr

/-- The outcome of a Causeway training attempt (R416, R417). -/
structure PortTrain where
  ok : Bool
  farPort : BitVec 5
  farId : BitVec 10
  farValid : Bool
  farEnc : Bool
  tlink : Word32
deriving DecidableEq, Repr

/-- A return beat at the host boundary ("Return lanes"). -/
structure RtnBeat where
  kind : BitVec 3
  core : BitVec 4
  sel : BitVec 8
  addr : BitVec 26
  len : BitVec 10
  be : Word64
  data : BitVec 4096
deriving DecidableEq, Repr

/-- The counted content of a heartbeat (R464). -/
structure Heartbeat where
  seq : Word32
  epoch : Word32
  role : BitVec 2
  sync : BitVec 2
  health : BitVec 8
  device : BitVec 10
  service : BitVec 10
  lag : Word64
  /-- The pair's parameters and the stack capacities of the sender agree with the receiver's (R459). -/
  paramsEqual : Bool
deriving DecidableEq, Repr

/-- A temperature reading of an island (R511), signed °C. -/
structure TempReading where
  island : Nat
  temp : Int
deriving DecidableEq, Repr

/-- A path-delay monitor's delay, or an oscillator's frequency by island code (R514). -/
inductive MonReading where
  | monitor (m : Nat) (delay : Nat)
  | oscillator (island : Nat) (freq : Nat)
deriving DecidableEq, Repr

/-- Hexob's power estimate of one 100 µs interval, in W: the average of the last 1 ms, of the last 10 ms, and
the eight classes (R507, R513). -/
structure PowerReading where
  p1 : Nat
  avg10 : Nat
  classes : List Nat
deriving DecidableEq, Repr

/-- One item of mirror traffic as the mirror receives it (R460). -/
inductive MirrorItem where
  | job (job : Nat) (res : Option (List Nat))
  | ring (ring : Nat) (body : Option (BitVec 128)) (job : Nat)
  | ringStatus (ring : Nat) (w0 w1 : Word64)
  | stream (idx : Nat) (body : Option (BitVec 128)) (job : Nat)
  | context (idx : Nat) (ctx : BitVec 512)
  | range (entry : Nat) (body : Option (BitVec 256))
  | paged (root : BitVec 42) (enable : Bool) (key : BitVec 4)
  | window (w : Nat) (body : Option (BitVec 256)) (job : Nat)
  | mereAlloc (page : Nat) (pages : Nat) (job : Nat) (firstCore coreCount perm : Nat)
  | mereFree (page : Nat)
  | binding (core engine : Nat) (body : Option (BitVec 256))
  | history (core engine row : Nat) (slots : List (Word32 × Bool))
  | stackWrite (pa : Nat) (key : BitVec 4) (data : List Byte)
  | mereWrite (addr : Nat) (data : List Byte)
deriving DecidableEq, Repr

end Sys2Proof
end

