-- ==== Sys2Proof/Syntax.lean ====
section
/-! DEFINITION. The commands of the complex: one constructor for each row of the table of operations and events.
An operand is what the row's event brings with it: the HRP request, the mailbox, the unit, the far side's answer.
`m` is always the mailbox whose command Hexob carries out, `tag` the tag of an HRP request (R61). -/

namespace Sys2Proof

inductive Instr where
  -- power, resets and test access (03_bringup.md, 02_ports.md)
  | coldReset (cool split : BitVec 2) (mods : BitVec 4) (engines : BitVec 32)
  | powerDown
  | warmResetAssert
  | warmResetRelease (cool : BitVec 2) (engines : BitVec 32)
  | tapReset
  | bypass (code : BitVec 8) (tdi : List Bool)
  | idcode
  | samplePreload (captured preload : List Bool)
  | extest (scan : ExtestScan)
  | wrapSel (unit : BitVec 16)
  | wrapWir (tdi : List Bool)
  | wrapWdr (tdi : List Bool)
  | mbistRun (failing : List Nat)
  | mbistResult
  | statusRead
  -- bring-up
  | pllLock
  | pllLockTimeout
  | mgmtSramTestDone (pass peatOk : Bool)
  | ucieTrainDone (u : Fin 6)
  | ucieTrainTimeout (u : Fin 6)
  | imageBegin (m : Fin 8)
  | imageChunk (m : Fin 8)
  | imageEnd (m : Fin 8) (peatOk : Bool)
  | mereSelfTestDone (failing : List (Nat × Nat))
  | stackTrainAttemptDone (k : Fin 24) (ok : Bool) (found : StackFound)
  | stackTrainTimeout (k : Fin 24)
  | portTrainDone (p : Fin 32) (res : PortTrain)
  | portTrainTimeout (p : Fin 32)
  | laserEnable (p : Fin 32)
  | s5Entry
  | profileConfirmTimeout
  | stackPinRateSwitch (k : Fin 24) (pause : Nat)
  | moverRelock (mv : Fin 96) (pause : Nat)
  -- the host register port
  | hrpNotPresent (tag : BitVec 5) (write : Bool)
  | registerWrite (tag : BitVec 5) (addr : BitVec 21) (be : BitVec 8) (data : Word64)
  | mboxCmdAreaWrite (tag : BitVec 5) (m : Fin 8) (w : Fin 32) (be : BitVec 8) (data : Word64)
  | mboxDoneAck (tag : BitVec 5) (m : Fin 8) (be : BitVec 8) (data : Word64)
  | causeClear (tag : BitVec 5) (addr : BitVec 21) (be : BitVec 8) (data : Word64)
  | ringStatusRead (tag : BitVec 5) (r : Fin 4096) (word : Bool)
  | peatWindowRead (tag : BitVec 5) (w : Fin 131072) (env : Env)
  -- mailbox commands
  | nop (m : Fin 8)
  | identify (m : Fin 8)
  | jobAdmit (m : Fin 8)
  | jobRelease (m : Fin 8)
  | jobQuery (m : Fin 8)
  | corePortMap (m : Fin 8)
  | svnCommit (m : Fin 8)
  | functionResetMover (m : Fin 8)
  | functionResetExpander (m : Fin 8)
  | functionResetQuantiser (m : Fin 8)
  | functionResetQueueSlice (m : Fin 8)
  | functionResetCauseway (m : Fin 8)
  | functionResetTranslation (m : Fin 8)
  | functionResetMere (m : Fin 8)
  | functionResetManagement (m : Fin 8)
  | functionResetDone (f : Fn)
  | warmReset (m : Fin 8)
  | joinRetryStack (m : Fin 8)
  | joinRetryPort (m : Fin 8)
  | ringCreate (m : Fin 8)
  | ringDestroy (m : Fin 8)
  | ringQuery (m : Fin 8)
  | streamAlloc (m : Fin 8)
  | streamFree (m : Fin 8)
  | streamResume (m : Fin 8)
  | streamAbort (m : Fin 8)
  | streamDisableSet (m : Fin 8)
  | streamDisableClear (m : Fin 8)
  | streamQuery (m : Fin 8)
  | rangeMap (m : Fin 8)
  | rangeUnmap (m : Fin 8)
  | pageRootSet (m : Fin 8)
  | withdraw (m : Fin 8)
  | xlateQuery (m : Fin 8) (env : Env)
  | baseRegister (m : Fin 8)
  | baseRelease (m : Fin 8)
  | tableLoadNew (m : Fin 8)
  | tableLoadReplace (m : Fin 8)
  | tableLoadFree (m : Fin 8)
  | tableQuery (m : Fin 8)
  | keyLoad (m : Fin 8)
  | keyClear (m : Fin 8)
  | qntConfigBind (m : Fin 8)
  | qntConfigUnbind (m : Fin 8)
  | scaleLoadLoad (m : Fin 8) (env : Env)
  | scaleLoadRelease (m : Fin 8)
  | qntStats (m : Fin 8)
  | qntThreshold (m : Fin 8)
  | mereAlloc (m : Fin 8)
  | mereFree (m : Fin 8)
  | queueCreate (m : Fin 8)
  | queueClose (m : Fin 8)
  | queueResetReader (m : Fin 8)
  | combineCreate (m : Fin 8)
  | queueQuery (m : Fin 8)
  | deviceIdSet (m : Fin 8)
  | routeSetDevice (m : Fin 8)
  | routeSetPort (m : Fin 8)
  | windowOpen (m : Fin 8)
  | windowClose (m : Fin 8)
  | windowQuery (m : Fin 8)
  | linkQuery (m : Fin 8)
  | mirrorPair (m : Fin 8)
  | mirrorUnpair (m : Fin 8)
  | mirrorPromote (m : Fin 8)
  | mirrorQuery (m : Fin 8)
  | coolConfirm (m : Fin 8)
  | powerQuery (m : Fin 8)
  | marginQuery (m : Fin 8)
  | marginReplan (m : Fin 8)
  | injectArm (m : Fin 8)
  | injectDisarm (m : Fin 8)
  | injectQuery (m : Fin 8)
  | counterRead (m : Fin 8)
  | peatStatus (m : Fin 8)
  -- rings, streams and movers
  | doorbell (tag : BitVec 5) (r : Fin 4096) (be : BitVec 8) (data : Word64)
  | ringFetch (r : Fin 4096) (env : Env)
  | entryStart (r : Fin 4096)
  | streamAdmission (idx : BitVec 20)
  | contextReadDone (idx : BitVec 20) (env : Env)
  | slotGrant (q : Fin 4)
  | burstBoundary (mv : Fin 96)
  | tileTranslate (slot : Fin 3072) (env : Env)
  | secondLevelLookup (slot : Fin 3072)
  | pageWalkStart (q : Fin 4)
  | walkTableRead (q : Fin 4) (env : Env) (evict : Option Nat)
  | moverDrainAck (mv : Fin 96)
  | grantRequest (slot : Fin 3072)
  | grantAnswer (p : Fin 64) (buf : Fin 64)
  | fillNotice (mv : Fin 96)
  | expanderCreditRequest (slot : Fin 3072)
  | readResponse (req : Nat) (env : Env)
  | writeResponse (req : Nat) (env : Env)
  | stackRequest (k : Fin 24) (env : Env)
  | stackRefresh (k : Fin 24)
  | dfiPhyupdReq (req : PhyupdReq)
  | stkCattrip (k : Fin 24) (level : Bool)
  | mereBankAccess (b : Fin 2048) (env : Env)
  | patrolScrub (b : Fin 2048) (env : Env)
  | expanderBlock (x : Fin 32) (env : Env)
  | portDelivery (p : Fin 64) (buf : Fin 64)
  | dueTimeCheck (p : Fin 64)
  | entryComplete (r : Fin 4096) (pos : Nat) (env : Env)
  -- core delivery ports and quantisers
  | creditReturn (p : Fin 64) (core : BitVec 4) (sel : BitVec 3) (cnt : BitVec 4)
  | returnBeatArrive (p : Fin 64) (lane : Fin 2) (beat : RtnBeat)
  | activation (p : Fin 64) (lane : Fin 2)
  | mereRead (p : Fin 64) (lane : Fin 2)
  | mereWrite (p : Fin 64) (lane : Fin 2)
  | mereReadData (p : Fin 64) (idx : Nat)
  | qntTile (slot : Fin 3072) (env : Env)
  -- messages and queues
  | message (p : Fin 64) (lane : Fin 2) (env : Env)
  | contribute (p : Fin 64) (lane : Fin 2) (env : Env)
  | rearm (p : Fin 64) (lane : Fin 2)
  | combineComplete (queue : BitVec 16)
  | areaZeroingDone (queue : BitVec 16)
  | messageDelivery (core : Fin 1024) (env : Env)
  | remoteMessage (p : Fin 32) (env : Env)
  -- Causeway
  | cwOeFault (p : Fin 32) (faultN : Bool)
  | lossOfSignal (p : Fin 32)
  | lightWatchExpiry (p : Fin 32)
  | flitReceive (p : Fin 32) (flit : BitVec 2048) (codewordBad : Bool)
  | retry (p : Fin 32) (seq : BitVec 12)
  | retryResendTimer (p : Fin 32)
  | ackTimer (p : Fin 32)
  | replayExhausted (p : Fin 32)
  | tlinkMeasure (p : Fin 32) (tlink : Word32)
  | flitForward (p : Fin 32)
  | ucieRetrain (u : Fin 6) (ended : Option Bool)
  | remoteWrite (p : Fin 32)
  | remoteWriteLanded (p : Fin 32) (env : Env)
  | remoteRead (p : Fin 32) (env : Env)
  | remoteResponse (p : Fin 32)
  | remoteTimeout (p : Fin 32) (reqTag : BitVec 16)
  | windowCloseDrained (w : Fin 4096)
  | linkProbeAnswer (m : Fin 8) (cycles : Word32)
  -- mirroring
  | heartbeatSend
  | heartbeatReceive (withy : Bool) (hb : Heartbeat)
  | pathLoss (withy : Bool)
  | pairEnd
  | mirrorItemApply (item : MirrorItem)
  | mirrorAck
  -- power, ageing and errors
  | powerEstimate (r : PowerReading)
  | thermalSensorRead (temps : List TempReading)
  | monitorRead (readings : List MonReading)
  | operatingHours
  | offsetStep (island : Fin 225)
  | unitWedged (f : Fn)
  | peatWriterTake
  | controlFlit (p : Fin 32) (flit : BitVec 2048) (bad : Bool)
  | cwLosChange (p : Fin 32) (los : BitVec 8)
  | probeTimeout (m : Fin 8)
deriving DecidableEq, Repr

end Sys2Proof
end

