-- ==== Sys2Proof/Config.lean ====
section
/-! DEFINITION. What the manual leaves open and an implementation fixes. Each constant is opaque: no proof can
see its value, so a claim holds whatever it is. Where a value is fresh at every use, the argument is the state's
count of free values taken so far. -/

namespace Sys2Proof.Config

/-- A fresh undefined value of `w` bits (R3). -/
opaque freeBits (w : Nat) : Nat → BitVec w

/-- A byte of a stack that nothing has written since the power-up or warm reset numbered by the first argument
(R78: lost or undefined). -/
opaque stackByte : Nat → Nat → Byte

/-- SHA-384 of the 96 bytes of the header's public key (R87). -/
opaque sha384 : List Byte → BitVec 384

/-- ECDSA P-384 with SHA-384: key, r, s, message (R87). -/
opaque ecdsaOk : List Byte → List Byte → List Byte → List Byte → Bool

/-- AES-256-XTS decryption, under a second key, of a 16-byte block written under a first: the stored ciphertext
read with the wrong key (R303, R309). Arguments: both halves of the key written under, both read under (0 = in the
clear), the address and the plaintext as written. -/
opaque xtsGarble : BitVec 512 → BitVec 512 → Nat → BitVec 128 → BitVec 128

/-- AES-256-GCM keystream of a flit: key, nonce (R424). -/
opaque gcmStream : BitVec 256 → Nat → BitVec 2048

/-- AES-256-GCM tag: key, nonce, authenticated data, ciphertext (R424). -/
opaque gcmTag : BitVec 256 → Nat → Nat → BitVec 2048 → BitVec 128

/-- The hash that chooses one of several ports of a route, by its key (R433, R434). -/
opaque routeHash : List Nat → Nat

/-- SYNDROME of a word of a site with one or two bits flipped: site, first flipped bit, double (R491). -/
opaque syndromeRaw : Nat → Nat → Bool → BitVec 7

/-- The set, of 2,048, in which a quarter's second level holds a mapping, by its pages and its VA over its size (R282). -/
opaque l2Set : Nat → Nat → Nat

/-- B_REMOTE of R256: which of the bases of its first three rows the memory behind a window has at the receiving device, by
device and window. -/
opaque remoteBase : Nat → Nat → Nat

end Sys2Proof.Config
end

