-- ==== Sys2Proof/Machine/Parts.lean ====
section
/-! DEFINITION. The parts of the state that the host sees first: straps, fuses, bring-up, test access, the host
register port, mailboxes, interrupts, Peat, counters, injection and clocks. Each field names its rule. -/

namespace Sys2Proof.Machine

/-- The latched straps (R72, R116, R119). -/
structure Straps where
  cool : BitVec 2
  split : BitVec 2
  mods : BitVec 4
  /-- Causeway ports whose CW_OE_PRESENT_N is low: an optical engine is fitted (R66). -/
  engines : BitVec 32
deriving DecidableEq, Repr

/-- Non-volatile fuses and their shadow (R78, R87, R91, R118, R514). -/
structure Fuses where
  svnMin : Word32
  keyHash : List (BitVec 384)
  revoked : BitVec 4
  /-- Fused monitor baselines D0 by monitor (R514). -/
  d0 : Tbl Nat
  /-- Fused oscillator baselines f0 by island code (R514). -/
  f0 : Tbl Nat
deriving DecidableEq, Repr

/-- Power, reset and bring-up (R78 to R103). -/
structure Bringup where
  pwrOk : Bool
  rstN : Bool
  /-- The complex holds itself as on a low RST_N since a SHUTDOWN (R511). -/
  shutdown : Bool
  /-- EXTEST was applied in service; a warm reset is needed (R76). -/
  extestDirty : Bool
  stage : Nat
  stopCause : Nat
  sramDone : Bool
  /-- Peat's spare copy will pass its test (R92). -/
  peatOk : Bool
  ucieTrained : List Nat
  /-- The boot ROM has opened the control page (R64, R85). -/
  pageOpen : Bool
  hexob : Bool
  /-- This bring-up follows a warm reset (R90, R92). -/
  warm : Bool
  boardwalk : Bool
  blockReady : Bool
  /-- Position i of R96 of the stack in training; 24 once all are done. -/
  trainIdx : Nat
  trainAttempts : Nat
  s4Exited : Bool
  ctxStack : Option Nat
  /-- The image area of the management SRAM (R88, R89); unlisted bytes are zero. -/
  image : List Host.Cell
  /-- TOTAL_LEN of the load in progress. -/
  imageTotal : Option Nat
  svn : Word32
  debug : Bool
  entry : Word32
deriving DecidableEq, Repr

/-- The result of MBIST_RUN (R76). -/
structure MbistResult where
  pass : Bool
  firstFail : Nat
deriving DecidableEq, Repr

/-- The IEEE 1149.1 test access port (R75 to R77). -/
structure Tap where
  ir : BitVec 8
  bypassBit : Bool
  /-- The data register selected, bit 0 first. -/
  dr : List Bool
  /-- Bits shifted out on TDO by the last instruction. -/
  tdo : List Bool
  boundary : List Bool
  driving : Bool
  wrapper : Option (BitVec 16)
  /-- Instruction and data registers of the wrappers, by unit number. -/
  wirs : Tbl (List Bool)
  wdrs : Tbl (List Bool)
  mbist : Option MbistResult
deriving DecidableEq, Repr

/-- A response of the host register port (R61). -/
structure HrpRsp where
  tag : BitVec 5
  rdata : Word64
  status : BitVec 2
deriving DecidableEq, Repr

/-- The host register port (R61, R62): responses presented and not yet taken, oldest first, and requests that the host
holds at the port while HRP_REQ_READY is low, in order. -/
structure Hrp where
  rsp : List HrpRsp
  waiting : List Instr
deriving DecidableEq, Repr

/-- One clamp of a command (R136). -/
structure Clamp where
  field : Nat
  entry : Nat
  requested : Nat
  applied : Nat
deriving DecidableEq, Repr

/-- What a command that is being carried out still waits for. -/
inductive CmdWait where
  | none
  /-- A withdrawal, by its number (R295). -/
  | withdrawal (id : Nat)
  /-- A function reset (R110). -/
  | reset (f : Fn)
  /-- Training of a stack or port (R106, R107). -/
  | joinStack (s : Nat) (attempts : Nat)
  | joinPort (p : Nat) (attempts : Nat)
  /-- Both phases of a window close (R446). -/
  | windowClose (w : Nat)
  /-- The answer of a probe, with the port queried (R449). -/
  | probe (port : Nat) (device : Nat)
  /-- The steps of R151. -/
  | release (job : Nat)
  /-- The release of mirrored jobs by MIRROR_UNPAIR (R472). -/
  | unpair (jobs : List Nat)
  /-- A margin plan whose offsets still rise (R520). -/
  | replan (result : Nat)
deriving DecidableEq, Repr

/-- A mailbox (R122 to R125). `cmd` and `rsp` are its command and response areas of 256 B, byte 0 lowest. -/
structure Mbox where
  cmd : BitVec 2048
  rsp : BitVec 2048
  cmdSeq : Word32
  /-- Management cycle at which the GO in progress was accepted (R299). -/
  goAt : Nat
  tag : BitVec 16
  locked : Nat
  ignored : Nat
  busy : Bool
  done : Bool
  /-- The interrupt cause of vector m (R121). -/
  cause : Bool
  wait : CmdWait
  /-- Clamps of the command in progress, in the order of R130. -/
  clamps : List Clamp
deriving DecidableEq, Repr

/-- The three registers of a cause group (R478). -/
structure CauseGroup where
  cause : Word64
  enable : Word64
  vector : BitVec 6
deriving DecidableEq, Repr

/-- Interrupts (R120, R477 to R479). -/
structure Irq where
  mask : Word64
  /-- RING_DONE[i] and RING_ERR[i] by i; absent = 0. -/
  ringDone : Tbl Word64
  ringErr : Tbl Word64
  /-- Groups 0 to 9. -/
  groups : List CauseGroup
deriving DecidableEq, Repr

/-- A Peat record (R481, R483). `key` holds its key fields (R485); `cycles` the stamp. -/
structure PeatRec where
  typ : Nat
  level : Nat
  island : Nat
  body : List Word64
  key : List Nat
  rep : Nat
  seq : Nat
  cycles : Word32
deriving DecidableEq, Repr

/-- A record waiting for the Peat writer; `needs` is the pending record of a lower level that goes first (R31). -/
structure PeatPend where
  id : Nat
  needs : Option Nat
  record : PeatRec
deriving DecidableEq, Repr

/-- The Peat recorder (R480 to R489, R496). -/
structure Peat where
  online : Bool
  /-- Records appended, oldest first, PEAT_FULL excluded. -/
  records : List PeatRec
  /-- Records waiting at their units, in the order they were offered (R484). -/
  pend : List PeatPend
  nextId : Nat
  /-- The island served last in round-robin order. -/
  rr : Nat
  nextSeq : Nat
  /-- PEAT_FULL's sequence number once written, and its REPEAT. -/
  full : Option Nat
  fullRep : Nat
  appended : Nat
  folds : Nat
  refused : Nat
  lostBacklog : Nat
  spareUsed : Bool
deriving DecidableEq, Repr

/-- An armed injection point (R499 to R502). `times = 0` means until disarmed. -/
structure Arming where
  point : Nat
  unit : Nat
  arg : Word32
  skip : Nat
  times : Nat
  forever : Bool
  fired : Nat
  cmdSeq : Word32
deriving DecidableEq, Repr

/-- A round-robin arbiter (R22, R23): the requester served last, and how often in a row each waiting one was passed over. -/
structure Arb where
  last : Nat
  passed : Tbl Nat
deriving DecidableEq, Repr

/-- Island clocks (R32): per island code (R482) the cycle count in units of 1 ÷ 64,000 cycle. -/
structure Clk where
  acc : List Nat
deriving DecidableEq, Repr

/-- A function reset in progress (R109 to R112, R177). -/
structure ResetRun where
  fn : Fn
  /-- Mailboxes to answer at completion. -/
  mboxes : List Nat
  /-- Rings to abandon with the tails accepted when the reset began. -/
  rings : List (Nat × Nat)
deriving DecidableEq, Repr

end Sys2Proof.Machine
end

