-- ==== Sys2Proof/Machine/Parts2.lean ====
section
/-! DEFINITION. The parts of the state that move data: jobs, rings, descriptors, streams, movers, translation,
memory, core delivery ports and expanders. Each field names its rule. -/

namespace Sys2Proof.Machine

/-- An admitted job: its reservation STREAMS … CW_SHARE in the order of R146. -/
structure Job where
  res : List Nat
  releasing : Bool
deriving DecidableEq, Repr

/-- An entry of the core-to-port map (R59). -/
structure CoreEntry where
  present : Bool
  port : Nat
  slot : Nat
  opbuf : Nat
  inbox : Nat
deriving DecidableEq, Repr

/-- A dimension granule (R187). -/
structure Dim where
  extent : Nat
  start : Int
  srcStride : Int
  dstStride : Int
  padBefore : Nat
  padAfter : Nat
  /-- 0 stands for 2³². -/
  srcLimit : Nat
  dstLimit : Nat
  reserved : Nat
deriving DecidableEq, Repr

/-- The gather granule (R189). `block` is B. -/
structure GatherG where
  block : Nat
  space : Nat
  typ : Nat
  scatter : Bool
  dim : Nat
  addr : Nat
  reserved : Nat
deriving DecidableEq, Repr

/-- A tensor descriptor as decoded from its granules (R181, R182). -/
structure Desc where
  op : Nat
  fill : Nat
  slack : Nat
  cast : Nat
  dstSpace : Nat
  srcSpace : Nat
  gather : Bool
  mode : Nat
  padSkip : Bool
  transpose : Bool
  ndims : Nat
  dstType : Nat
  srcType : Nat
  dstAddr : Nat
  srcAddr : Nat
  dims : List Dim
  g : GatherG
  /-- The extension granule of MOVE_EXPAND and QUANT_OUT (R324, R349). -/
  ext : BitVec 256
  reserved : Nat
  /-- Runs ORDERED after the alias check (R207). -/
  ordered : Bool
deriving DecidableEq, Repr

/-- The completion words of an entry (R157). -/
structure Completion where
  status : Nat
  mover : Nat
  faultValid : Bool
  faultDir : Bool
  crc : Word32
  bytes : Word64
  faultAddr : Nat
deriving DecidableEq, Repr

/-- A failed access of a tile: status, latched address, direction, its place in the order of R287, and DETAIL of the
STREAM_HALT record (R492). -/
structure Failure where
  status : Nat
  addr : Nat
  write : Bool
  seq : Nat
  detail : Nat
  /-- Pending record that the record of the halt follows (R31). -/
  needs : Option Nat
deriving DecidableEq, Repr

/-- Where a fetched entry stands. -/
inductive EntState where
  | fetched
  /-- Validated and passed to stream admission. -/
  | started
  /-- Its completion is decided; it waits to be written, under SYNC for the mirror too (R463). -/
  | held (c : Completion)
  /-- The write of the completion failed (R179). -/
  | unwritten
  | done
deriving DecidableEq, Repr

/-- A fetched ring entry between the retire point and the fetch head (R153, R165, R166). -/
structure RingEntry where
  /-- Extended index of its header. -/
  pos : Nat
  granules : Nat
  w0 : Word64
  body : List (BitVec 256)
  st : EntState
  /-- Decoding-table generation and base it holds a reference on (R316, R323). -/
  tableRef : Option (Nat × Nat)
  baseRef : Option Nat
  /-- Its context and histories have been queued for the mirror (R463). -/
  shared : Bool
deriving DecidableEq, Repr

/-- A descriptor ring (R161 to R179). Pointers are extended indices. -/
structure Ring where
  job : Nat
  sizeLog2 : Nat
  place : Bool
  mask : BitVec 16
  vector : BitVec 6
  quarter : Nat
  base : Nat
  retire : Nat
  head : Nat
  tail : Nat
  state : Nat
  fenceWait : Bool
  ownWait : Bool
  /-- An accepted doorbell has not yet made the mover read again (R165). -/
  reread : Bool
  /-- A fetch or a completion write has failed: the ring is in STATE ERROR, or was when it began to reset or to be released
  (R179, R180). -/
  broken : Bool
  lastError : Nat
  badBells : Nat
  resetGen : Nat
  failAddr : Nat
  entries : List RingEntry
  /-- Doorbells that wait for a reset (R164), oldest first. -/
  bells : List Word32
deriving DecidableEq, Repr

/-- Rows of a write, in the order they are to land: a row's address, the bytes put there, or the codes added to its
elements by bit offset (R208), and the codes that the completion counts once it has landed; a sum is counted as it lands. -/
structure RowOut where
  addr : Nat
  data : BitVec 512
  mask : BitVec 512
  adds : List (Nat × Nat)
  codes : List Nat
deriving DecidableEq, Repr

/-- Where a tile starts: its first canonical element and, within a band of R197's transposed tiles, the rows of the
band; 0 rows before the band's first tile and wherever tiles follow canonical order. -/
structure Cursor where
  elem : Nat
  rows : Nat
deriving DecidableEq, Repr

/-- The counted bytes of a run of canonical elements. -/
structure CanonPiece where
  first : Nat
  count : Nat
  bytes : List Byte
deriving DecidableEq, Repr

/-- A stream: its context (R219) and what the complex keeps beside it. -/
structure Stream where
  job : Nat
  prio : Nat
  weight : Nat
  paceKind : Nat
  paceQueue : Nat
  high : Nat
  low : Nat
  gen : Nat
  state : Nat
  disable : Bool
  mover : Nat
  ring : Nat
  entryPos : Nat
  /-- ENTRY_POS and ENTRY_WRAP of the context (R219). -/
  placePos : Nat
  placeWrap : Nat
  /-- The entry in progress has been in a slot (R157). -/
  ran : Bool
  /-- Bursts of the entry in progress that a halt has given up; their remote writes may still be acknowledged (R158). -/
  owed : List Nat
  tile : Nat
  /-- Where tile `tile` starts. -/
  cursor : Cursor
  bytes : Nat
  crc : Word32
  dropped : Nat
  promoted : Nat
  faultAddr : Nat
  faultDir : Bool
  part : Bool
  haltStatus : Nat
  /-- Slot held, as mover × 32 + s. -/
  slot : Option Nat
  /-- Quarter chosen by placement (R36 to R38). -/
  quarter : Nat
  /-- Descriptor of the entry in progress. -/
  desc : Option Desc
  /-- Entries waiting at admission, in order of arrival: ring and position (R222). -/
  waiting : List (Nat × Nat)
  paced : Bool
  /-- The feed of the entry in progress has been started (R363). -/
  fed : Bool
  /-- Row pieces of out-of-order tiles, until the CRC can take them (R238), and the next element it takes. -/
  canon : List CanonPiece
  crcElem : Nat
deriving DecidableEq, Repr

/-- A mapping as the look-aside buffers hold it (R281 to R283): `pages` 4 KiB pages from VA page `va`. -/
structure LabEntry where
  va : Nat
  pages : Nat
  pa : Nat
  domain : Nat
  key : Nat
  read : Bool
  write : Bool
  /-- Range entry it copies. -/
  range : Option Nat
  level : Nat
  run : Bool
  /-- Physical address of the table entry it came from (R292). -/
  entryPa : Nat
deriving DecidableEq, Repr

/-- A failed translation (R290, R292). -/
structure XFault where
  status : Nat
  reason : Nat
  found : Nat
  domain : Nat
  entryPa : Nat
  /-- DETAIL of STREAM_HALT for a failed table read (R492), and the pending record of that failure (R31). -/
  detail : Nat
  needs : Option Nat
deriving DecidableEq, Repr

/-- A read that failed while a tile was formed: status, lowest failing byte, DETAIL of STREAM_HALT (R492), and the
pending record of the failure (R31). -/
structure MemFail where
  status : Nat
  addr : Nat
  detail : Nat
  needs : Option Nat
deriving DecidableEq, Repr

/-- The mapping a tile holds for one page (R288): the entry, where it was found (R292) and the table entry read. -/
structure PageXl where
  page : Nat
  src : LabEntry
  found : Nat
  entryPa : Nat
deriving DecidableEq, Repr

/-- A tile of a slot (R197, R286). -/
structure Tile where
  num : Nat
  /-- Its row segments: first canonical element and number of elements. -/
  segs : List (Nat × Nat)
  /-- Where it starts, and where the next tile starts. -/
  start : Cursor
  next : Cursor
  /-- Gather or scatter indices read for it (R203), by block. -/
  idx : Tbl Nat
  /-- Escape-map bits read for it, by block number k of R325. -/
  esc : Tbl Bool
  xl : List PageXl
  /-- Pages whose translation failed. -/
  bad : List (Nat × XFault)
  /-- Pages that missed at the first level and wait for the second. -/
  misses : List Nat
  /-- Pages that wait for a walk. -/
  walking : List Nat
  translated : Bool
  /-- A read that failed the tile as it was formed (R203, R329). -/
  indexFail : Option MemFail
  /-- Translation cycles to charge to its first burst, and their cause bits (R258). -/
  charge : Nat
  cause : Nat
  /-- Elements issued so far, and bursts issued. -/
  issued : Nat
  bursts : Nat
  landedAny : Bool
  /-- It failed its translation while the tile before it was in work (R291). -/
  faulted : Bool
deriving DecidableEq, Repr

/-- A grant held by a slot for its next burst, by its delivery's number (R234). -/
structure Grant where
  port : Nat
  id : Nat
deriving DecidableEq, Repr

/-- A stream slot (R223 to R232). -/
structure Slot where
  stream : Nat
  ring : Nat
  pos : Nat
  desc : Desc
  cur : Option Tile
  nxt : Option Tile
  /-- Where the next tile to form starts, and its number. -/
  cursor : Cursor
  nextNum : Nat
  grant : Option Grant
  grantAsked : Bool
  creditHeld : Option Nat
  creditAsked : Bool
  /-- Base-cache entry pinned with the credit: BASE_ID and block number. -/
  pin : Option (Nat × Nat)
  /-- Released at the next burst boundary (R226). -/
  release : Bool
  /-- Every tile of the entry has been formed. -/
  allFormed : Bool
  /-- Failure that will halt the stream at the end of the burst in flight (R244). -/
  failing : Option Failure
deriving DecidableEq, Repr

/-- A mover (R229, R281). -/
structure Mover where
  rr : List Nat
  /-- Bursts left of a slot's visit (R229), by slot. -/
  left : Tbl Nat
  last : Option Nat
  /-- First-level look-aside buffer, most recently used first. -/
  lab : List LabEntry
  relocking : Bool
deriving DecidableEq, Repr

/-- Who a memory request belongs to. -/
inductive Who where
  | burst (id : Nat)
  | core (port : Nat) (rd : Nat)
  /-- A row of a message that a slice writes to a slot of a queue (R394). -/
  | slot (queue i : Nat)
  /-- A row of a contribution, accepted under a generation of the queue (R404). -/
  | area (queue gen : Nat)
deriving DecidableEq, Repr

/-- The storage a request goes to (R270, R376, R272). -/
inductive Target where
  | stack (s : Nat)
  | mere (bank : Nat)
  | host
deriving DecidableEq, Repr

/-- An access of one aligned 64-byte row (R526, R376). -/
structure MemReq where
  id : Nat
  target : Target
  /-- Row address in the target: physical, Mere or host address. -/
  addr : Nat
  /-- The same row's address in the descriptor's space, for the latch (R239, R244). -/
  latch : Nat
  write : Bool
  /-- A read of the destination made for a merge (R250). -/
  merge : Bool
  /-- A write that a merge read has preceded, so that it needs none of its own. -/
  merged : Bool
  key : Nat
  /-- The material its key slot held when the request reached the controller, where the slot has changed since (R309). -/
  oldKey : Option (BitVec 256 × BitVec 256)
  data : BitVec 512
  mask : BitVec 512
  /-- Codes that the target adds to elements of the row, by bit offset, with their type and CAST_MODE (R208, R250), and the
  sums once served. -/
  adds : List (Nat × Nat)
  addTyp : Nat
  addCast : Nat
  sums : List Nat
  who : Who
  /-- The unit that asks (R22): mover number, 128 + port, or 192 + slice. -/
  unit : Nat
  /-- Crossbar segment it came through: the requester's quarter (R384). -/
  segment : Nat
  /-- Set once served: status and, for a read, the row. -/
  res : Option (Nat × BitVec 512)
  charge : Nat
  cause : Nat
  /-- Pending record that a record of the failure follows (R31). -/
  needs : Option Nat
deriving DecidableEq, Repr

/-- A burst in flight (R227). -/
structure Burst where
  slot : Nat
  mover : Nat
  stream : Nat
  ring : Nat
  pos : Nat
  tile : Nat
  num : Nat
  segs : List (Nat × Nat)
  /-- Last burst of its tile. -/
  last : Bool
  reads : List Nat
  got : List (Nat × BitVec 512)
  writes : List Nat
  /-- Outstanding remote packets (R443). -/
  packets : List Nat
  /-- Deliveries of the burst not yet ended (R253). -/
  deliveries : Nat
  /-- Block VA of a MOVE_EXPAND burst while it holds an expander's credit, its expander, and the entry it pins. -/
  block : Option Nat
  expander : Nat
  pin : Option (Nat × Nat)
  charge : Nat
  cause : Nat
  grant : Option Grant
  /-- Data has left the mover. -/
  issuedWrites : Bool
  /-- Its elements' written values, once its data is there. -/
  vals : Option (List Nat)
  /-- The reads of the destination that the mover itself makes have been asked for (R250). -/
  merging : Bool
  /-- Rows still to be written, one after another, by a descriptor whose writes apply in order (R207, R208). -/
  todo : List RowOut
  /-- Rows of the Mere that a tile of QUANT_OUT writes beside its own, with its last burst (R366). -/
  side : List RowOut
  fail : Option Failure
  /-- Codes written, until the tile counts them. -/
  bytes : List Byte
deriving DecidableEq, Repr

/-- A page walk (R279, R284) for VA page `page`, by the slots that wait on it and their pages. -/
structure Walk where
  page : Nat
  slots : List (Nat × Nat)
  level : Nat
  /-- Physical address of the table to read next. -/
  table : Nat
  /-- Mover cycles of its table reads so far, and the cause bits of errors corrected in them (R258, R285). -/
  cost : Nat
  cause : Nat
deriving DecidableEq, Repr

/-- A walk-cache entry: a table pointer of `level` for the VA span that starts at `va` (R284). -/
structure PtrEntry where
  level : Nat
  /-- VA of the span divided by its size. -/
  va : Nat
  pa : Nat
deriving DecidableEq, Repr

/-- A quarter's second level and walker (R282, R284). -/
structure QXlate where
  lab2 : List LabEntry
  ptrs : List PtrEntry
  walks : List Walk
  /-- Misses that wait for a walk: slot and VA page, in order of arrival. -/
  missQ : List (Nat × Nat)
  /-- Turns of the movers whose look-ups wait (R22). -/
  arb : Arb
deriving DecidableEq, Repr

/-- A range entry (R273). Addresses in bytes. -/
structure RangeEntry where
  domain : Nat
  key : Nat
  read : Bool
  write : Bool
  length : Nat
  pa : Nat
  va : Nat
  /-- Marked as withdrawing (R295 step 1). -/
  withdrawing : Bool
  mbody : BitVec 256
deriving DecidableEq, Repr

/-- What a withdrawal does once it is done (R275, R276, R280, R383). -/
inductive WdKind where
  | paged
  | unmap (entry : Nat)
  | map (entry : Nat) (r : RangeEntry)
  | root (enable : Bool) (pa : Nat) (key : Nat)
  | mere (page : Nat)
deriving DecidableEq, Repr

/-- A withdrawal in progress (R295). -/
structure Wd where
  id : Nat
  mbox : Option Nat
  job : Option Nat
  opcode : Nat
  cmdSeq : Word32
  kind : WdKind
  va : Nat
  pages : Nat
  /-- Domain acted on; none = every domain. -/
  domain : Option Nat
  /-- Drained tiles: slot and tile number. -/
  drained : List (Nat × Nat)
  tiles : Nat
  dropped : Nat
  /-- Movers that have not acknowledged. -/
  acks : List Nat
  start : Nat
deriving DecidableEq, Repr

/-- Translation (R268 to R301). -/
structure Xlate where
  ranges : Tbl RangeEntry
  enable : Bool
  root : Nat
  tableKey : Nat
  q : Tbl QXlate
  wds : List Wd
  nextWd : Nat
deriving DecidableEq, Repr

/-- A stack and its controller (R21, R48 to R51, R97, R271). -/
structure Stack where
  /-- 0 not joined, 1 in service, 2 out of service, 3 failed (R300). -/
  state : Nat
  capGiB : Nat
  /-- Pin rate code of COOL_STATUS. -/
  rate : Nat
  cattrip : Bool
  /-- STK_CATTRIP has risen since the training attempt in progress began (R51). -/
  tripped : Bool
  /-- Results of training at 3.2, 5.0 and 6.4 Gb/s (R97). -/
  training : List Word32
  /-- The write queue is being drained (R21). -/
  draining : Bool
  refreshes : Nat
  /-- A PHY update is acknowledged: the stack is held idle (R50). -/
  updating : Bool
  /-- Turns of the movers of its quarter and the links to it (R22): mover number, or 200 + quarter. -/
  arb : Arb
  /-- A pin-rate switch is asked for: requests numbered below this one complete first (R102). -/
  switching : Option Nat
deriving DecidableEq, Repr

/-- Memory and the requests in its queues. -/
structure MemSys where
  /-- Stack memory by local physical address, plaintext bytes; only written bytes are listed. -/
  stack : List Host.Cell
  /-- Key material each 16-byte block was last written under (R303, R309). -/
  tags : Tbl (BitVec 256 × BitVec 256)
  /-- Epoch of stack power-on contents. -/
  stackEpoch : Nat
  /-- Mere bytes; unlisted bytes are zero (R94, R382). -/
  mere : List Host.Cell
  /-- Mere words that are uncorrectable until written whole (R385). -/
  mereBad : List Nat
  /-- Bytes the complex has written through the host aperture, by host address (R272). -/
  hostOut : List Host.Cell
  reqs : List MemReq
  nextReq : Nat
  /-- Round-robin pointer of each Mere bank (R18), by bank: segment served last. -/
  bankRr : Tbl Nat
  /-- Turns of the requesters of each link between quarters (R23), by quarter of origin × 4 + quarter reached. -/
  links : Tbl Arb
  /-- Next row each bank scrubs (R387). -/
  scrub : Tbl Nat
deriving DecidableEq, Repr

/-- A beat on a delivery lane ("Delivery lanes"). -/
structure DlvBeat where
  lane : Nat
  kind : Nat
  core : Nat
  sel : Nat
  len : Nat
  data : List Byte
  token : Bool
  tseq : Nat
deriving DecidableEq, Repr

/-- A delivery cut from a burst: its bytes, its nominal latency N, and whether it is timed (R253, R256). -/
structure Cut where
  bytes : Nat
  nominal : Nat
  timed : Bool
deriving DecidableEq, Repr

/-- A grant request waiting at a port (R234). -/
structure GrantReq where
  slot : Nat
  /-- The unit that asks (R22): mover number, or 96 + quantiser. -/
  unit : Nat
  stream : Nat
  gen : Nat
  buf : Nat
  lines : Nat
  slack : Nat
  cuts : List Cut
  /-- The bytes of a feed (R363), which are there from the start; none for a burst. -/
  feed : Option (List Byte)
deriving DecidableEq, Repr

/-- The deliveries of one granted burst, in progress (R253 to R265). -/
structure Delivery where
  id : Nat
  slot : Nat
  buf : Nat
  stream : Nat
  gen : Nat
  /-- Bytes at the port and not yet presented; `ready` once the whole burst is there. -/
  data : List Byte
  ready : Bool
  /-- Deliveries still to end, and the bytes presented of the first of them. -/
  cuts : List Cut
  sent : Nat
  /-- Lines granted and not yet presented. -/
  lines : Nat
  start : Nat
  slack : Nat
  timed : Bool
  events : Nat
  cause : Nat
  /-- Clock pulses withheld from its mover while it is in progress, in eightieths of a mover cycle (R510, R517). -/
  throttle : Nat
  heldBack : Bool
  /-- OPND_NRDY has been raised for the delivery in progress (R261). -/
  overdue : Bool
  /-- Cycle until which point 0x0026 holds the token (R503). -/
  hold : Option Nat
deriving DecidableEq, Repr

/-- What an OPND_NRDY bit of a failed delivery waits for (R263): its halt's record in Peat, the completion of its entry, or
the end of the reset of a function, by the code of R109 with QUARTER × 0x100. -/
inductive NrdyHold where
  | record (id : Nat)
  | completion (ring pos : Nat)
  | reset (fn : Nat)
deriving DecidableEq, Repr

/-- A core's Mere request on its way through the crossbar (R379, R380). -/
structure CoreReq where
  id : Nat
  slot : Nat
  tag : Nat
  addr : Nat
  len : Nat
  write : Bool
  /-- Requests of its rows. -/
  reqs : List Nat
  rows : List (Nat × BitVec 512)
  failed : Bool
deriving DecidableEq, Repr

/-- A core delivery port (R52 to R57, R234). Buffers are numbered slot × 4 + engine. -/
structure Port where
  credit : Tbl Nat
  inbox : Tbl Nat
  fill : Tbl Nat
  tseq : Tbl Nat
  nrdy : Word64
  /-- Bits held for a failed delivery, by buffer. -/
  nrdyHeld : List (Nat × NrdyHold)
  /-- Beats in the input FIFO of each lane, by their number of arrival at the port. -/
  lane0 : List (Nat × RtnBeat)
  lane1 : List (Nat × RtnBeat)
  arrivals : Nat
  /-- Return credits pulsed in the last step, per lane. -/
  rtnCredit : List Nat
  greqs : List GrantReq
  dlvs : List Delivery
  /-- The last delivery to each buffer was late (PREDECESSOR, R265). -/
  lateLast : Tbl Bool
  /-- Beats presented on the delivery lanes in the last step that presented any. -/
  out : List DlvBeat
  /-- Port cycle in which they were presented. -/
  outAt : Nat
  reads : List CoreReq
  nextRead : Nat
  nextDlv : Nat
  rrBuf : Nat
  /-- Turns of the movers, quantisers and links whose grant requests wait (R22): mover number, 96 + quantiser, or
  200 + quarter. -/
  grantArb : Arb
deriving DecidableEq, Repr

/-- A fill notice on its way to a mover (R235). -/
structure Notice where
  mover : Nat
  port : Option Nat
  target : Nat
  fill : Nat
deriving DecidableEq, Repr

/-- A base-cache entry (R333). -/
structure BaseLine where
  base : Nat
  block : Nat
  /-- The block's bytes, once read. -/
  data : List Byte
  pins : Nat
deriving DecidableEq, Repr

/-- An expander (R333 to R340). -/
structure Expander where
  used : Nat
  cache : List BaseLine
  /-- Credit requests that wait, by slot (R333), and the turns of their movers (R22). -/
  waiting : List Nat
  arb : Arb
  /-- Bursts whose blocks have arrived, in order (R21). -/
  input : List Nat
  lag : Nat
  winBlocks : Nat
  winEsc : Nat
  winMiss : Nat
deriving DecidableEq, Repr

/-- A key slot (R304): state 0 FREE, 1 MEMORY, 2 LINK. -/
structure KeySlot where
  state : Nat
  job : Nat
  lo : BitVec 256
  hi : BitVec 256
deriving DecidableEq, Repr

/-- A retiring decoding table (R316, R318). -/
structure Retiring where
  gen : Nat
  table : BitVec 512
  refs : Nat
  cmdSeq : Word32
deriving DecidableEq, Repr

/-- A decoding-table slot in use (R313 to R319). -/
structure TblSlot where
  job : Nat
  gen : Nat
  table : BitVec 512
  refs : Nat
  retiring : Option Retiring
deriving DecidableEq, Repr

/-- A registered base model (R320 to R323). -/
structure Base where
  job : Nat
  va : Nat
  blocks : Nat
  typ : Nat
  refs : Nat
  released : Bool
deriving DecidableEq, Repr

end Sys2Proof.Machine
end

