-- ==== Sys2Proof/Machine/Parts3.lean ====
section
/-! DEFINITION. The parts of the state for quantisers, the Mere, hardware queues, Causeway, mirroring and power.
Each field names its rule. -/

namespace Sys2Proof.Machine

/-- A replay buffer of a quantiser in use (R367): its tile, how many of the tile's elements it holds, and the scale
registers read for the tile (R362). -/
structure Replay where
  stream : Nat
  tile : Nat
  done : Nat
  regs : List Nat
  /-- Codes of the written elements by canonical element, side bytes and row-scale bytes by Mere address. -/
  main : List (Nat × Nat)
  side : List Host.Cell
deriving DecidableEq, Repr

/-- A quantiser (R342 to R374). Scale registers and their blocks: absent = zero, free (R360). -/
structure Quantiser where
  scales : Tbl Word32
  blocks : Tbl Nat
  replay : List Replay
  /-- Beats taken so far: the order of arrival (R21). -/
  arrivals : Nat
deriving DecidableEq, Repr

/-- The row of a QUANT_OUT entry that is being quantised (R356). -/
structure RowAcc where
  row : Nat
  elems : Nat
  absmax : Word32
  any : Bool
  neg : Bool
  sat : Bool
  a : Word32
  nonneg : Bool
  seeded : Bool
  /-- What the binding's statistics take at the row's last element (R367, R370). -/
  saturated : Nat
  nonfinite : Nat
  chan : Tbl Word32
  /-- The row's side-tensor bytes so far (R366). -/
  side : List Host.Cell
deriving DecidableEq, Repr

/-- A quantiser binding (R343 to R346, R356, R370, R372). -/
structure Binding where
  stream : Nat
  gen : Nat
  job : Nat
  minAbs : Word32
  initAbs : Word32
  chanStats : Nat
  maxRows : Nat
  feedCount : Nat
  feedBase : Nat
  feedEngine : Nat
  regBase : Nat
  history : Nat
  scaleMode : Nat
  ties : Bool
  /-- Filled history slots of each row, oldest first. -/
  hist : Tbl (List (Word32 × Bool))
  rows : Nat
  elements : Nat
  saturated : Nat
  nonfinite : Nat
  sideBytes : Nat
  scaleEntries : Nat
  lastAbs : Word32
  chan : Tbl Word32
  window : Nat
  threshold : Nat
  /-- Bytes of the activation stream held (R348), at most 4 KiB. -/
  held : List Byte
  /-- Each held beat's place in the order of arrival and its bytes still held, oldest first. -/
  heldBeats : List (Nat × Nat)
  acc : Option RowAcc
  mbody : BitVec 256
deriving DecidableEq, Repr

/-- A Mere allocation, by first page (R381, R382). -/
structure MereAlloc where
  pages : Nat
  job : Nat
  firstCore : Nat
  coreCount : Nat
  perm : Nat
  withdrawing : Bool
deriving DecidableEq, Repr

/-- An active message (R390). -/
structure Msg where
  hdr : BitVec 256
  payload : List Byte
deriving DecidableEq, Repr

/-- A hardware queue (R389, R397 to R412). States as R411. -/
structure Queue where
  state : Nat
  combining : Bool
  remote : Bool
  freePending : Bool
  job : Nat
  reader : Nat
  typ : Nat
  handler : Nat
  base : Nat
  size : Nat
  depth : Nat
  storm : Nat
  consec : Nat
  /-- Slot used next for writing, and the slots that hold messages, oldest first. -/
  tailSlot : Nat
  slots : List Nat
  /-- Contributions of the round (combining). -/
  count : Nat
  round : Nat
  /-- Status of the round once an addition was lost (R405); 0 = none. -/
  roundErr : Nat
  /-- The COMBINED message of a complete round, not yet delivered. -/
  combined : Option Msg
deriving DecidableEq, Repr

/-- A device route entry (R431). -/
structure Route where
  valid : Bool
  hops : Nat
  timeout : Nat
  ports : Word32
deriving DecidableEq, Repr

/-- A port entry (R432). -/
structure PEntry where
  enc : Bool
  dateline : Bool
  txPhase : Bool
  slot1 : Nat
  slot0 : Nat
deriving DecidableEq, Repr

/-- A packet of the fabric (R440): its header fields and data. -/
structure Packet where
  src : Nat
  dst : Nat
  hops : Nat
  vc : Nat
  hdr : BitVec 128
  data : List Byte
  /-- Job whose CW_SHARE it is charged to (R436); forwarded packets carry none. -/
  job : Option Nat
deriving DecidableEq, Repr

/-- Where a message came from: a slot of a port, or another device by a packet that arrived at a Causeway port. -/
inductive Origin where
  | core (port slot : Nat)
  | remote (port : Nat) (k : Packet)
deriving DecidableEq, Repr

/-- A queue-service slice: contributions that wait in it for an area to be zeroed (R406), and by reader the queue served
last (R394). -/
structure Slice where
  waiting : List (Nat × Msg × Origin)
  rr : Tbl Nat
deriving DecidableEq, Repr

/-- A request whose response is outstanding (R443, R444). -/
inductive Owner where
  | burst (id : Nat)
  | msg (m : Msg) (core : Nat)
  | heartbeat
deriving DecidableEq, Repr

structure TagUse where
  owner : Owner
  write : Bool
  offset : Nat
  dst : Nat
deriving DecidableEq, Repr

/-- An accepted remote write that has not landed (R442, R446). -/
structure InWrite where
  window : Nat
  pkt : Packet
  addr : Nat
deriving DecidableEq, Repr

/-- A flit waiting to be sent: its class in the order of R21 and R436 (0 NACK, 1 RSP level 1, 2 RSP level 0, 3 REQ
level 1, 4 REQ level 0), whether it is forwarded, and the job that originated it or four times the port that it arrived on plus its VC there. -/
structure TxFlit where
  cls : Nat
  fwd : Bool
  job : Nat
  flit : BitVec 2048
deriving DecidableEq, Repr

/-- A Causeway port (R66, R414 to R427). -/
structure CPort where
  state : Nat
  oeEn : Bool
  laserEn : Bool
  /-- The port's island is clocked: it has trained since the reset (R32). -/
  clocked : Bool
  faultN : Bool
  los : BitVec 8
  /-- The one training attempt of R427 is still to be made. -/
  armed : Bool
  attempts : Nat
  farPort : Nat
  farId : Option Nat
  farValid : Bool
  farEnc : Bool
  tlink : Word32
  txSeq : BitVec 12
  rxSeq : BitVec 12
  /-- Unacknowledged DATA flits, oldest first, as sent (R420). -/
  replay : List (BitVec 2048)
  /-- SEQ the receiver asks for, and RETRYs sent for it. -/
  wanted : Option (BitVec 12)
  retries : Nat
  ackDue : Bool
  authFails : Nat
  /-- Credits held per VC for sending (R422). -/
  credits : List Nat
  /-- Flits received for other devices, in order (R434). -/
  fwd : List (BitVec 2048)
  /-- Flits of the packet being assembled, per VC. -/
  asm : List (List (BitVec 2048))
  /-- Whole packets received for this device, in order. -/
  inq : List Packet
  /-- Flits waiting for a credit or the replay buffer (R436). -/
  txq : List TxFlit
  /-- Receive-buffer flits still to be returned, per VC (R422). -/
  owed : List Nat
  /-- Deficit round robin: the share whose turn it is, 1 to 15 by job and 16 for the unreserved remainder; deficits in
  flits; the sender of the remainder served last; and whether a forwarded packet went last (R436). -/
  turn : Nat
  deficit : Tbl Nat
  remTurn : Nat
  fwdLast : Bool
  /-- The port that carries on a packet being forwarded, per VC (R434). -/
  via : List (Option Nat)
  tags : Tbl TagUse
  nextTag : Nat
  inWrites : List InWrite
  /-- DATA flits encrypted under each phase's slot since it was bound (R424). -/
  encCount : List Nat
  /-- Encrypted DATA flits accepted under each phase's slot since it was bound: the count of the next IV. -/
  decCount : List Nat
  /-- The packet that a VC is in the middle of sending, by the names of its flits (R422). -/
  lock : List (Option (Bool × Nat))
  /-- Flits sent in the last step that sent any. -/
  out : List (BitVec 2048)
  /-- Discarding the rest of a packet that cannot be forwarded, per VC (R435). -/
  dropping : List Bool
deriving DecidableEq, Repr

/-- A receiving window (R437 to R450): state 1 OPEN, 2 CLOSING, 3 CLOSED; absent = FREE. -/
structure Window where
  state : Nat
  job : Nat
  space : Nat
  perm : Nat
  srcFirst : Nat
  srcCount : Nat
  length4k : Nat
  base : Nat
  body : BitVec 256
  freeAfter : Bool
  writesAccepted : Nat
  bytesWritten : Nat
  readsAccepted : Nat
  nacksClosed : Nat
  nacksNoWindow : Nat
  /-- Accepted packets not yet done. -/
  inFlight : Nat
  landedClosing : Nat
  refusedClosing : Nat
deriving DecidableEq, Repr

/-- The Causeway as a whole (R116, R429 to R432). -/
structure Causeway where
  idValid : Bool
  deviceId : Nat
  routes : Tbl Route
  entries : Tbl PEntry
  ports : Tbl CPort
  windows : Tbl Window
  /-- Last measured probe round trip to each device (R449). -/
  paths : Tbl Nat
  /-- UCIe interfaces that retrain, and those that have failed in service (R71). -/
  ucieRetraining : List Nat
  ucieDown : List Nat
deriving DecidableEq, Repr

/-- The mirror pair (R454 to R474). Roles as R454, SYNC_STATE as R465. -/
structure Mirror where
  role : Nat
  epoch : Word32
  paired : Bool
  service : Nat
  partner : Nat
  hbPeriod : Nat
  missCount : Nat
  lagMib : Nat
  portA : Nat
  portB : Nat
  dataMirror : Bool
  sync : Bool
  syncState : Nat
  withy : Bool
  fabric : Bool
  /-- Both paths have been lost since they last were heard (R470). -/
  split : Bool
  hbSeq : Word32
  /-- Periods left in which point 0x0035 keeps a path's heartbeats from counting (R503). -/
  muteWithy : Nat
  muteFabric : Nat
  /-- Items queued or sent and not acknowledged, oldest first, with their payload bytes (R462). -/
  queue : List (MirrorItem × Nat)
  /-- Items of a full copy still to be acknowledged (R471). -/
  copyLeft : Nat
  /-- The lag limit was reached; clears at three quarters (R462). -/
  lagStop : Bool
  partnerEpoch : Word32
  partnerRole : Nat
  partnerHealth : BitVec 8
  waited : Nat
  resyncs : Nat
  /-- Stacks in service at pairing (HEALTH bit 2). -/
  stacksAtPair : List Nat
  /-- Objects held for the primary (role MIRROR), by kind and number. -/
  mirrored : List (Nat × Nat)
deriving DecidableEq, Repr

/-- A fraction; the denominator is positive. -/
structure Frac where
  num : Int
  den : Nat
deriving DecidableEq, Repr

/-- An island's margin plan (R516, R517). -/
structure IslandPlan where
  offset : Nat
  target : Nat
  bin : Nat
  binTarget : Nat
  locked : Nat
  ceiling : Bool
  stackDown : Bool
  /-- `stackDown` as the last bring-up found it (R517). -/
  downLocked : Bool
  /-- Drift at the last plan. -/
  drift : Frac
deriving DecidableEq, Repr

/-- Cooling, power and ageing (R504 to R521). -/
structure Power where
  profile : Nat
  confirmed : Bool
  capW : Nat
  /-- Pin rate in force, as COOL_STATUS codes it. -/
  pinRate : Nat
  powerW : Nat
  p1 : Nat
  p1Max : Nat
  tP : Nat
  tT : Nat
  t : Nat
  tMax : Nat
  temps : Tbl Int
  hot : Nat
  hotTemp : Int
  tempMax : Int
  throttleUs : Nat
  episodes : Nat
  fullUs : Nat
  classes : List Nat
  plan : Nat
  /-- RAISED, BINNED, AT_CEILING and STACKS_DOWN of the last plan (R520). -/
  planCounts : List Nat
  hours : Nat
  plans : Tbl IslandPlan
  mons : Tbl Nat
  oscs : Tbl Nat
  /-- Each monitor's drift as the last plan took it (R515). -/
  monPlan : Tbl Frac
  /-- Monitors that read drifted for the next plan (injection 0x0041). -/
  driftInj : List Nat
  /-- Islands whose sensor reads over the limit, with reads left (injection 0x0042). -/
  tempInj : Tbl Nat
deriving DecidableEq, Repr

end Sys2Proof.Machine
end

