-- ==== Sys2Proof/Machine/State.lean ====
section
/-! DEFINITION. The state of the complex as plain data, the reasons a step can stop, and the state after reset:
the complex right after a cold reset with every strap low (R78, R85). -/

namespace Sys2Proof.Machine

/-- The state of the complex. Tables hold what differs from the reset value of the thing they number. -/
structure State where
  /-- Commands waiting, first in, first out (the model's own). -/
  pending : List Instr
  straps : Straps
  fuses : Fuses
  bring : Bringup
  tap : Tap
  hrp : Hrp
  mbox : List Mbox
  /-- CMD_SEQ assigned next (R126). -/
  cmdSeq : Word32
  irq : Irq
  peat : Peat
  /-- Statistics counters by group × 65,536 + unit × 256 + index (R498); absent = 0. -/
  counters : Tbl Word64
  inject : List Arming
  clk : Clk
  wedged : List Fn
  resets : List ResetRun
  jobs : Tbl Job
  cores : Tbl CoreEntry
  rings : Tbl Ring
  streams : Tbl Stream
  /-- Generation of each stream index (R214); absent = 0. -/
  streamGen : Tbl Nat
  /-- Context cache: indices per set, most recently used first (R220). -/
  ctxCache : Tbl (List Nat)
  /-- Streams whose context is being read from the store. -/
  ctxReads : List Nat
  /-- Streams waiting for a slot per quarter, in order of arrival (R225). -/
  admission : Tbl (List Nat)
  slots : Tbl Slot
  movers : Tbl Mover
  bursts : Tbl Burst
  nextBurst : Nat
  notices : List Notice
  xlate : Xlate
  mem : MemSys
  stackTbl : Tbl Stack
  ports : Tbl Port
  expanders : Tbl Expander
  keys : Tbl KeySlot
  tables : Tbl TblSlot
  /-- Last generation of each decoding-table slot (R318). -/
  tableGen : Tbl Nat
  bases : Tbl Base
  quants : Tbl Quantiser
  /-- Bindings by core × 4 + engine. -/
  bindings : Tbl Binding
  allocs : Tbl MereAlloc
  queues : Tbl Queue
  queueGen : Tbl Nat
  /-- The six counters of each queue number (R412). -/
  queueCnt : Tbl (List Word64)
  slices : Tbl Slice
  cw : Causeway
  mirror : Mirror
  power : Power
  /-- Free values taken so far (the model's own; see the assumption log). -/
  freeTick : Nat
deriving DecidableEq, Repr

/-- Why a step can stop with a fault. -/
inductive Fault where
  /-- Raised by no command: the spec gives every command an effect in every state. Safe. -/
  | none
deriving DecidableEq, Repr

/-- Why a step can be refused. -/
inductive Refusal where
  /-- Raised by an arm of `exec` whose command has no meaning yet. Safe. -/
  | notModelled (mnemonic : String)
deriving DecidableEq, Repr

/-- The first turn is the lowest number's. -/
def Arb.reset : Arb := { last := 255, passed := [] }

def Mbox.reset : Mbox :=
  { cmd := 0, rsp := 0, cmdSeq := 0, goAt := 0, tag := 0, locked := 0, ignored := 0, busy := false, done := false,
    cause := false, wait := .none, clamps := [] }

/-- The reset VECTOR of group g (R479). -/
def CauseGroup.reset (g : Nat) : CauseGroup :=
  { cause := 0, enable := BitVec.allOnes 64, vector := BitVec.ofNat 6 (63 - g) }

def Irq.reset : Irq :=
  { mask := BitVec.allOnes 64, ringDone := [], ringErr := [],
    groups := [.reset 0, .reset 1, .reset 2, .reset 3, .reset 4, .reset 5, .reset 6, .reset 7, .reset 8, .reset 9] }

def Peat.reset : Peat :=
  { online := false, records := [], pend := [], nextId := 0, rr := 0, nextSeq := 1, full := none, fullRep := 0,
    appended := 0, folds := 0, refused := 0, lostBacklog := 0, spareUsed := false }

def Tap.reset : Tap :=
  { ir := 0x01, bypassBit := false, dr := [], tdo := [], boundary := [], driving := false, wrapper := none,
    wirs := [], wdrs := [], mbist := none }

def Fuses.reset : Fuses := { svnMin := 0, keyHash := [0, 0, 0, 0], revoked := 0, d0 := [], f0 := [] }

def Bringup.reset : Bringup :=
  { pwrOk := true, rstN := true, shutdown := false, extestDirty := false, stage := 0, stopCause := 0,
    sramDone := false, peatOk := false, ucieTrained := [], pageOpen := false, hexob := false, warm := false, boardwalk := false,
    blockReady := false, trainIdx := 0, trainAttempts := 0, s4Exited := false, ctxStack := none, image := [],
    imageTotal := none, svn := 0, debug := false, entry := 0 }

def QXlate.reset : QXlate := { lab2 := [], ptrs := [], walks := [], missQ := [], arb := .reset }

def Xlate.reset : Xlate :=
  { ranges := [], enable := false, root := 0, tableKey := 0, q := [], wds := [], nextWd := 0 }

def MemSys.reset : MemSys :=
  { stack := [], tags := [], stackEpoch := 0, mere := [], mereBad := [], hostOut := [], reqs := [], nextReq := 0,
    bankRr := [], links := [], scrub := [] }

def Stack.reset : Stack :=
  { state := 0, capGiB := 0, rate := 0, cattrip := false, tripped := false, training := [], draining := false, refreshes := 0,
    updating := false, arb := .reset, switching := none }

/-- rr[level] is slot 31 of every level (R229). -/
def Mover.reset : Mover := { rr := [31, 31, 31, 31, 31, 31, 31, 31], left := [], last := none, lab := [], relocking := false }

def Port.reset : Port :=
  { credit := [], inbox := [], fill := [], tseq := [], nrdy := 0, nrdyHeld := [], lane0 := [], lane1 := [], arrivals := 0, rtnCredit := [],
    greqs := [], dlvs := [], lateLast := [], out := [], outAt := 0, reads := [], nextRead := 0, nextDlv := 0, rrBuf := 63, grantArb := .reset }

def Expander.reset : Expander :=
  { used := 0, cache := [], waiting := [], arb := .reset, input := [], lag := 0, winBlocks := 0, winEsc := 0, winMiss := 0 }

/-- Slot 0 is the system's MEMORY key from reset; Hexob fills it in S2 (R304). -/
def KeySlot.system : KeySlot := { state := 1, job := 0, lo := 0, hi := 0 }

def Quantiser.reset : Quantiser := { scales := [], blocks := [], replay := [], arrivals := 0 }

def Slice.reset : Slice := { waiting := [], rr := [] }

/-- KEY_SLOT fields reset to 0xFF (R432). -/
def PEntry.reset : PEntry := { enc := false, dateline := false, txPhase := false, slot1 := 0xFF, slot0 := 0xFF }

def CPort.reset : CPort :=
  { state := 0, oeEn := false, laserEn := false, clocked := false, faultN := true, los := 0xFF, armed := true,
    attempts := 0, farPort := 0, farId := none, farValid := false, farEnc := false, tlink := 0, txSeq := 0,
    rxSeq := 0, replay := [], wanted := none, retries := 0, ackDue := false, authFails := 0,
    credits := [128, 128, 128, 128], fwd := [], asm := [[], [], [], []], inq := [], txq := [], owed := [0, 0, 0, 0], turn := 1,
    deficit := [], remTurn := 15, fwdLast := false, via := [none, none, none, none], tags := [],
    nextTag := 0, inWrites := [], encCount := [0, 0], decCount := [0, 0],
    lock := [none, none, none, none], out := [], dropping := [false, false, false, false] }

def Causeway.reset : Causeway :=
  { idValid := false, deviceId := 0, routes := [], entries := [], ports := [], windows := [], paths := [], ucieRetraining := [], ucieDown := [] }

def Mirror.reset : Mirror :=
  { role := 0, epoch := 0, paired := false, service := 0, partner := 0, hbPeriod := 0, missCount := 0, lagMib := 0,
    portA := 0, portB := 0, dataMirror := false, sync := false, syncState := 0, withy := false, fabric := false,
    split := false, hbSeq := 0, muteWithy := 0, muteFabric := 0, queue := [], copyLeft := 0,
    lagStop := false, partnerEpoch := 0, partnerRole := 0, partnerHealth := 0, waited := 0, resyncs := 0,
    stacksAtPair := [], mirrored := [] }

def IslandPlan.reset : IslandPlan :=
  { offset := 0, target := 0, bin := 0, binTarget := 0, locked := 0, ceiling := false, stackDown := false,
    downLocked := false, drift := { num := 0, den := 1 } }

/-- The AIR profile and its cap until confirmation (R73, R119, R504). -/
def Power.reset : Power :=
  { profile := 0, confirmed := false, capW := 170, pinRate := 0, powerW := 0, p1 := 0, p1Max := 0, tP := 0, tT := 0,
    t := 0, tMax := 0, temps := [], hot := 0, hotTemp := 0, tempMax := 0, throttleUs := 0, episodes := 0, fullUs := 0,
    classes := [], plan := 0, planCounts := [], hours := 0, plans := [], mons := [], oscs := [], monPlan := [], driftInj := [], tempInj := [] }

/-- The machine right after a cold reset, straps low (R78). -/
def State.reset : State :=
  { pending := [], straps := { cool := 0, split := 0, mods := 0, engines := 0 }, fuses := .reset, bring := .reset, tap := .reset,
    hrp := { rsp := [], waiting := [] },
    mbox := [.reset, .reset, .reset, .reset, .reset, .reset, .reset, .reset],
    cmdSeq := 1, irq := .reset, peat := .reset, counters := [], inject := [], clk := { acc := List.replicate 225 0 },
    wedged := [], resets := [], jobs := [], cores := [], rings := [], streams := [], streamGen := [], ctxCache := [],
    ctxReads := [], admission := [], slots := [], movers := [], bursts := [], nextBurst := 0, notices := [],
    xlate := .reset, mem := .reset, stackTbl := [], ports := [], expanders := [], keys := [(0, .system)], tables := [],
    tableGen := [], bases := [], quants := [], bindings := [], allocs := [], queues := [], queueGen := [],
    queueCnt := [], slices := [], cw := .reset, mirror := .reset, power := .reset, freeTick := 0 }

end Sys2Proof.Machine
end

