-- ==== Sys2Proof/Machine/Ops.lean ====
section
/-! DEFINITION. The named operations that the meanings share: bit fields, byte memory, free values, island clocks,
counters, interrupt causes, the Peat recorder and injection. Every operation on a part of the state is a record
update outermost, so that what it leaves unchanged holds by `rfl`. -/

namespace Sys2Proof.Machine

/-! Bit fields (R6, R7). -/

/-- Field of `w` bits at bit `lo`. -/
def fld (x lo w : Nat) : Nat := (x >>> lo) % 2 ^ w

/-- `x` with the field of `w` bits at bit `lo` set to `v`. -/
def setFld (x lo w v : Nat) : Nat := x - (fld x lo w <<< lo) + ((v % 2 ^ w) <<< lo)

/-- Fields given from the lowest bit upward as (width, value). -/
def pack : List (Nat × Nat) → Nat
  | [] => 0
  | (w, v) :: rest => v % 2 ^ w + (pack rest <<< w)

def b2n (b : Bool) : Nat := if b then 1 else 0

/-- Two's complement reading of the low `w` bits. -/
def toSigned (w x : Nat) : Int := if x % 2 ^ w < 2 ^ (w - 1) then (x % 2 ^ w : Nat) else ((x % 2 ^ w : Nat) : Int) - 2 ^ w

/-- Low `w` bits of a signed number. -/
def ofSigned (w : Nat) (i : Int) : Nat := (i % (2 ^ w : Nat)).toNat

/-- The `n` bytes of `x`, lowest first (R7). -/
def natToBytes : Nat → Nat → List Byte
  | 0, _ => []
  | n + 1, x => BitVec.ofNat 8 x :: natToBytes n (x >>> 8)

/-- The number whose bytes are `bs`, lowest first (R7). -/
def bytesToNat : List Byte → Nat
  | [] => 0
  | b :: bs => b.toNat + (bytesToNat bs <<< 8)

/-- A count that saturates at `2 ^ w - 1`. -/
def satAdd (w x n : Nat) : Nat := if x + n < 2 ^ w then x + n else 2 ^ w - 1

def ceilDiv (a b : Nat) : Nat := (a + b - 1) / b

/-- The last element of a list that satisfies `p`. -/
def findLast {α : Type} (p : α → Bool) (l : List α) : Option α := l.reverse.find? p

def updAt {α : Type} (l : List α) (i : Nat) (f : α → α) : List α :=
  match l[i]? with
  | some v => l.set i (f v)
  | none => l

/-! Byte memory in canonical form: addresses strictly rising. -/

def cellGet : List Host.Cell → Nat → Option Byte
  | [], _ => none
  | (k, v) :: rest, a => if a = k then some v else if a < k then none else cellGet rest a

def cellPut : List Host.Cell → Nat → Byte → List Host.Cell
  | [], a, b => [(a, b)]
  | (k, v) :: rest, a, b =>
    if a = k then (a, b) :: rest
    else if a < k then (a, b) :: (k, v) :: rest
    else (k, v) :: cellPut rest a b

def cellDel : List Host.Cell → Nat → List Host.Cell
  | [], _ => []
  | (k, v) :: rest, a => if a = k then rest else if a < k then (k, v) :: rest else (k, v) :: cellDel rest a

/-- Memory whose unlisted bytes read as zero: writing zero removes the entry. -/
def zeroPut (m : List Host.Cell) (a : Nat) (b : Byte) : List Host.Cell := if b = 0 then cellDel m a else cellPut m a b

def zeroGet (m : List Host.Cell) (a : Nat) : Byte := (cellGet m a).getD 0

def cellPutAll (m : List Host.Cell) (a : Nat) : List Byte → List Host.Cell
  | [] => m
  | b :: bs => cellPutAll (cellPut m a b) (a + 1) bs

def zeroPutAll (m : List Host.Cell) (a : Nat) : List Byte → List Host.Cell
  | [] => m
  | b :: bs => zeroPutAll (zeroPut m a b) (a + 1) bs

/-- `n` bytes from address `a` of a memory whose unlisted bytes read as zero. -/
def zeroBytes (m : List Host.Cell) (a : Nat) : Nat → List Byte
  | 0 => []
  | n + 1 => zeroGet m a :: zeroBytes m (a + 1) n

/-- No cell in `[a, a + n)` stays listed. -/
def cellErase (m : List Host.Cell) (a n : Nat) : List Host.Cell := m.filter fun c => !(a ≤ c.1 && c.1 < a + n)

def cellsRising : List Host.Cell → Bool
  | [] => true
  | [_] => true
  | (a, _) :: (b, v) :: rest => decide (a < b) && cellsRising ((b, v) :: rest)

/-- The canonical form of a memory whose unlisted bytes read as zero. -/
def zeroForm (m : List Host.Cell) : Bool := cellsRising m && m.all fun c => c.2 != 0

/-- The canonical form of every byte memory of the complex. Stack memory and the host's own memory have no value
that an unlisted byte reads as, so they only keep their addresses rising. -/
def Memory.wf (s : State) : Bool :=
  cellsRising s.mem.stack && cellsRising s.mem.hostOut && zeroForm s.mem.mere && zeroForm s.bring.image

/-! Free values. -/

def freeVal (w : Nat) (s : State) : BitVec w := Config.freeBits w s.freeTick

def freeNext (s : State) : State := { s with freeTick := s.freeTick + 1 }

/-! Round-robin arbiters (R22, R23). -/

/-- How far a requester stands behind the one served last. -/
def Arb.behind (a : Arb) (n : Nat) : Nat := (n + 255 - a.last % 256) % 256

/-- The nearest behind the one served last. -/
def Arb.nearest (a : Arb) : List Nat → Option Nat
  | [] => none
  | n :: l =>
    match a.nearest l with
    | some k => if a.behind k < a.behind n then some k else some n
    | none => some n

/-- The requester served next: in round-robin order, one that was passed over 16 times in a row first. -/
def Arb.turn (a : Arb) (l : List Nat) : Option Nat :=
  (a.nearest (l.filter fun n => decide (16 ≤ Tbl.getD a.passed n 0))).orElse fun _ => a.nearest l

/-- The arbiter once `n`, of the requesters `l`, is served. -/
def Arb.grant (l : List Nat) (n : Nat) (a : Arb) : Arb :=
  { last := n
    passed := (l.filter fun k => k != n).foldl (fun t k => Tbl.put t k (Tbl.getD a.passed k 0 + 1)) [] }

/-- The input by which unit `u` of quarter `q` reaches a unit of quarter `r`: its own, or the link between the quarters. -/
def inputOf (q r u : Nat) : Nat := if q = r then u else 200 + q

/-- Whose turn it is at a unit of quarter `r`, of the requesters given as quarter and unit: the unit's arbiter chooses an
input, and a link its own requester (R22, R23). -/
def turnOf (a : Arb) (links : Tbl Arb) (r : Nat) (l : List (Nat × Nat)) : Option (Nat × Nat) :=
  match a.turn (l.map fun x => inputOf x.1 r x.2) with
  | none => none
  | some i =>
    if 200 ≤ i then ((Tbl.getD links ((i - 200) * 4 + r) .reset).turn ((l.filter fun x => x.1 == i - 200).map Prod.snd)).map fun u => (i - 200, u)
    else some (r, i)

/-- The unit's arbiter once that requester is served. -/
def Arb.serve (r : Nat) (l : List (Nat × Nat)) (x : Nat × Nat) (a : Arb) : Arb :=
  a.grant (l.map fun y => inputOf y.1 r y.2) (inputOf x.1 r x.2)

/-- The links once that requester is served: its own link has moved on. -/
def serveLinks (r : Nat) (l : List (Nat × Nat)) (x : Nat × Nat) (links : Tbl Arb) : Tbl Arb :=
  if x.1 = r then links
  else Tbl.put links (x.1 * 4 + r)
    ((Tbl.getD links (x.1 * 4 + r) .reset).grant ((l.filter fun y => y.1 == x.1).map Prod.snd) x.2)

/-! Island clocks (R32, R482, R508, R516). -/

def islMover (m : Nat) : Nat := m
def islExpander (x : Nat) : Nat := 0x60 + x
def islQuantiser (k : Nat) : Nat := 0x80 + k
def islStack (k : Nat) : Nat := 0xA0 + k
def islQuarter (q : Nat) : Nat := 0xB8 + q
def islMere (q : Nat) : Nat := 0xBC + q
def islPort (p : Nat) : Nat := 0xC0 + p
def islMgmt : Nat := 0xE0

/-- T of R509. -/
def throttleOf (s : State) : Nat := max s.power.tP s.power.tT

def planOf (s : State) (i : Nat) : IslandPlan := Tbl.getD s.power.plans i .reset

/-- Clock of an island before throttling, in units of 0.5 MHz, at bin 0 (R32). -/
def nominalClock (s : State) (i : Nat) : Nat :=
  let full := decide (5 ≤ s.bring.stage)
  if i < 0x60 then
    if full && !(Tbl.getD s.movers i .reset).relocking then 4000 else if i % 24 < 2 then 2000 else 0
  else if i < 0x80 then (if full then 4000 else 0)
  else if i < 0xA0 then (if full then 4000 else 2000)
  else if i < 0xB8 then
    match (Tbl.getD s.stackTbl (i - 0xA0) .reset).rate with
    | 0 => 1600
    | 1 => 2500
    | _ => 3200
  else if i < 0xBC then (if full then 4000 else 2000)
  else if i < 0xC0 then 2000
  else if i < 0xE0 then (if full || (Tbl.getD s.cw.ports (i - 0xC0) .reset).clocked then 3125 else 0)
  else 2000

/-- Islands with bins (R516). -/
def hasBins (i : Nat) : Bool := i < 0xA0 || (0xB8 ≤ i && i < 0xC0) || i == 0xE0

/-- Islands whose clock throttling reduces (R508). -/
def throttled (i : Nat) : Bool := i < 0xA0 || (0xB8 ≤ i && i < 0xBC)

/-- Sixteenths of the planned clock that throttle level T leaves (R508). -/
def throttleSixteenths (s : State) (i : Nat) : Nat :=
  if throttled i then (if throttleOf s ≤ 8 then 16 - throttleOf s else 8) else 16

/-- Full-service clock of the islands that Boardwalk halves or stops; the clock in force of the others. -/
def fullClock (s : State) (i : Nat) : Nat := if throttled i then 4000 else nominalClock s i

/-- Fortieths of its clock that an island's bin leaves; the islands that Boardwalk does not slow lock to their binned clocks
at S5 entry (R516, R517). -/
def binFortieths (s : State) (i : Nat) : Nat :=
  if hasBins i && (throttled i || decide (5 ≤ s.bring.stage)) then 40 - (planOf s i).bin else 40

/-- The island has left its Boardwalk clock (R103, R517). -/
def leftBoardwalk (s : State) (i : Nat) : Bool := decide (5 ≤ s.bring.stage) && !(decide (i < 0x60) && (Tbl.getD s.movers i .reset).relocking)

/-- The clock of the plan in force, or the island's lower one. -/
def plannedClock (s : State) (i : Nat) : Nat :=
  if leftBoardwalk s i then fullClock s i * binFortieths s i / 40 else min (nominalClock s i) (fullClock s i * binFortieths s i / 40)

/-- Advance of an island's cycle count in one tick of 0.5 ns, in units of 1 ÷ 64,000 cycle. No island is clocked
before its PLL has locked (R85). -/
def clockRate (s : State) (i : Nat) : Nat :=
  if s.bring.stage = 0 then 0
  else
    let left := fullClock s i * binFortieths s i / 40 * throttleSixteenths s i
    if leftBoardwalk s i then left else min (nominalClock s i * 16) left

/-- An island's own cycle count (R8). -/
def cyclesOf (s : State) (i : Nat) : Nat := (s.clk.acc[i]?).getD 0 / 64000

/-- Adds one tick to every island. -/
def advanceClocks (s : State) : Clk :=
  { acc := s.clk.acc.mapIdx fun i a => a + clockRate s i }

/-! Statistics counters (R498). -/

def ctrKey (group unit idx : Nat) : Nat := group * 65536 + unit * 256 + idx

def bumpCtr (c : Tbl Word64) (k n : Nat) : Tbl Word64 := Tbl.put c k (Tbl.getD c k 0 + BitVec.ofNat 64 n)

def bump (group unit idx n : Nat) (s : State) : State :=
  { s with counters := bumpCtr s.counters (ctrKey group unit idx) n }

def counterOf (s : State) (group unit idx : Nat) : Word64 := Tbl.getD s.counters (ctrKey group unit idx) 0

/-! Interrupt causes (R477 to R479). -/

def Irq.setGroup (q : Irq) (g b : Nat) : Irq :=
  { q with groups := updAt q.groups g fun c => { c with cause := c.cause ||| (1#64 <<< b) } }

def Irq.clearGroup (q : Irq) (g b : Nat) : Irq :=
  { q with groups := updAt q.groups g fun c => { c with cause := c.cause &&& ~~~(1#64 <<< b) } }

def Irq.setGroupIf (q : Irq) (c : Bool) (g b : Nat) : Irq := if c then q.setGroup g b else q

/-- Sets cause bit `b` of group `g`, whether or not it is enabled (R478). -/
def setCause (g b : Nat) (s : State) : State := { s with irq := s.irq.setGroup g b }

def Irq.setRingDone (q : Irq) (r : Nat) : Irq :=
  { q with ringDone := Tbl.put q.ringDone (r / 64) (Tbl.getD q.ringDone (r / 64) 0 ||| (1#64 <<< (r % 64))) }

def Irq.setRingErr (q : Irq) (r : Nat) : Irq :=
  { q with ringErr := Tbl.put q.ringErr (r / 64) (Tbl.getD q.ringErr (r / 64) 0 ||| (1#64 <<< (r % 64))) }

/-- The causes of a destroyed ring are cleared (R477). -/
def Irq.clearRing (q : Irq) (r : Nat) : Irq :=
  { q with
    ringDone := Tbl.put q.ringDone (r / 64) (Tbl.getD q.ringDone (r / 64) 0 &&& ~~~(1#64 <<< (r % 64)))
    ringErr := Tbl.put q.ringErr (r / 64) (Tbl.getD q.ringErr (r / 64) 0 &&& ~~~(1#64 <<< (r % 64))) }

/-! The Peat recorder (R480 to R489). -/

/-- Bytes of a record: header, stamp and body (R483). -/
def PeatRec.size (r : PeatRec) : Nat := 8 * (2 + r.body.length)

/-- Offset of the next record (R496). PEAT_FULL lies in the last 8 bytes and does not move it. -/
def Peat.fill (p : Peat) : Nat := (p.records.map PeatRec.size).sum

def sameKind (a b : PeatRec) : Bool := a.typ == b.typ && a.island == b.island

def PeatRec.fold (r : PeatRec) : PeatRec := { r with rep := satAdd 16 r.rep 1 }

/-- What an offered record met (R484, R485): the pending record it is now in, if any, and whether it was lost. -/
structure PeatOffer where
  peat : Peat
  inPend : Option Nat
  lost : Bool
deriving DecidableEq, Repr

/-- Queues a record at its unit, unless four wait there (R484). -/
def Peat.queue (p : Peat) (needs : Option Nat) (r : PeatRec) : PeatOffer :=
  if 4 ≤ (p.pend.filter fun e => e.record.island == r.island).length then
    { peat := { p with lostBacklog := p.lostBacklog + 1 }, inPend := none, lost := true }
  else
    { peat := { p with pend := p.pend ++ [{ id := p.nextId, needs := needs, record := r }], nextId := p.nextId + 1 },
      inPend := some p.nextId, lost := false }

/-- Offers a record to the writer: folds it where R485 says, else queues it. -/
def Peat.offer (p : Peat) (needs : Option Nat) (r : PeatRec) : PeatOffer :=
  match findLast (fun e => sameKind e.record r) p.pend with
  | some e =>
    if e.record.key == r.key then
      { peat := { p with
          pend := p.pend.map fun x => if x.id == e.id then { x with record := x.record.fold } else x
          folds := p.folds + 1 },
        inPend := some e.id, lost := false }
    else p.queue needs r
  | none =>
    match findLast (fun x => sameKind x r) p.records with
    | some x =>
      if x.key == r.key then
        { peat := { p with
            records := p.records.map fun y => if y.seq == x.seq then y.fold else y
            folds := p.folds + 1 },
          inPend := none, lost := false }
      else p.queue needs r
    | none => p.queue needs r

/-- The space before PEAT_FULL (R487). -/
def peatLimit : Nat := 0x100000 - 8

/-- Appends a record, or writes PEAT_FULL, or counts the refusal (R487). -/
def Peat.append (p : Peat) (r : PeatRec) : Peat :=
  match p.full with
  | some _ => { p with fullRep := satAdd 16 p.fullRep 1, refused := p.refused + 1 }
  | none =>
    if p.fill + r.size ≤ peatLimit then
      { p with records := p.records ++ [{ r with seq := p.nextSeq }], nextSeq := p.nextSeq + 1,
               appended := p.appended + 1 }
    else
      { p with full := some p.nextSeq, nextSeq := p.nextSeq + 1, appended := p.appended + 1, fullRep := 1,
               refused := p.refused + 1 }

/-- The first pending record of an island whose predecessor in R31's order has been taken. -/
def Peat.head? (p : Peat) (isl : Nat) : Option PeatPend :=
  match p.pend.find? fun e => e.record.island == isl with
  | some e =>
    match e.needs with
    | some n => if p.pend.any fun x => x.id == n then none else some e
    | none => some e
  | none => none

/-- Round-robin choice from the island after the one served last (R484). -/
def Peat.pick (p : Peat) : Option PeatPend :=
  ((List.range 225).map fun k => (p.rr + 1 + k) % 225).findSome? p.head?

/-- The pending record leaves its unit. -/
def Peat.drop (p : Peat) (e : PeatPend) : Peat :=
  { p with pend := p.pend.filter (fun x => x.id != e.id), rr := e.record.island }

/-- PEAT cause bits that an append sets (R479). -/
def peatCauses (before after : Peat) (q : Irq) : Irq :=
  (q.setGroupIf (before.full.isNone && after.full.isSome) 8 0).setGroupIf
    (before.fill < 917504 && 917504 ≤ after.fill) 8 1

def mkRec (s : State) (typ level island : Nat) (key : List Nat) (body : List Nat) : PeatRec :=
  { typ := typ, level := level, island := island, body := body.map (BitVec.ofNat 64), key := key, rep := 0, seq := 0,
    cycles := BitVec.ofNat 32 (cyclesOf s island) }

def offer (needs : Option Nat) (r : PeatRec) (s : State) : State :=
  { s with
    peat := (s.peat.offer needs r).peat
    irq := s.irq.setGroupIf (s.peat.offer needs r).lost 8 5 }

/-- The pending record that an offered record is in, for the `needs` of the next. -/
def offeredIn (needs : Option Nat) (r : PeatRec) (s : State) : Option Nat := (s.peat.offer needs r).inPend

/-! Injection (R499 to R503). -/

/-- The armed point of `points` that takes an event of `unit`: the first listed; callers list the higher number
first (R501). -/
def injTaker (l : List Arming) (points : List Nat) (unit : Nat) : Option Arming :=
  points.findSome? fun p => l.find? fun a => a.point == p && a.unit == unit

/-- The armings after the event: SKIP spent, or one firing spent. -/
def injSpend (l : List Arming) (a : Arming) : List Arming :=
  let same := fun (x : Arming) => x.point == a.point && x.unit == a.unit
  if 0 < a.skip then l.map fun x => if same x then { x with skip := x.skip - 1 } else x
  else if !a.forever && a.times ≤ 1 then l.filter fun x => !same x
  else l.map fun x => if same x then { x with times := x.times - 1, fired := x.fired + 1 } else x

/-- The point that fires on an event, if one does. -/
def injFires (s : State) (points : List Nat) (unit : Nat) : Option Arming :=
  match injTaker s.inject points unit with
  | some a => if a.skip = 0 then some a else none
  | none => none

/-- INJECTION_FIRED (R495). -/
def injRec (s : State) (a : Arming) (level island : Nat) : PeatRec :=
  mkRec s 0x0B0 level island [a.point, a.unit, a.cmdSeq.toNat]
    [pack [(32, 0), (16, a.unit), (16, a.point)], pack [(32, a.cmdSeq.toNat), (32, a.arg.toNat)]]

/-- An event that the points watch: spends SKIP, or fires with its record, count and cause (R501). -/
def injEvent (points : List Nat) (unit level island : Nat) (s : State) : State :=
  match injTaker s.inject points unit with
  | none => s
  | some a =>
    let s1 := { s with inject := injSpend s.inject a }
    if a.skip = 0 then setCause 8 2 (bump 0 0 3 1 (offer none (injRec s a level island) s1)) else s1

/-- The pending INJECTION_FIRED record that the records of the firing follow (R501, R31). -/
def injNeeds (points : List Nat) (unit level island : Nat) (s : State) : Option Nat :=
  match injFires s points unit with
  | some a => offeredIn none (injRec s a level island) s
  | none => none

/-- SYNDROME: implementation-defined and non-zero (R491). -/
def syndrome (site bit : Nat) (dbl : Bool) : Nat :=
  if Config.syndromeRaw site bit dbl = 0 then 1 else (Config.syndromeRaw site bit dbl).toNat

/-- The writer appends one record it has taken; injection point 0x0037 refuses the next append other than its own
record (R484, R487, R503). -/
def peatWrite (r : PeatRec) (s : State) : State :=
  let own := r.typ == 0x0B0 && r.key.head? == some 0x0037
  match (if own || s.peat.full.isSome then none else injFires s [0x0037] 0) with
  | some _ =>
    let s1 := injEvent [0x0037] 0 3 islMgmt s
    { s1 with
      peat := { s1.peat with refused := s1.peat.refused + 1 }
      irq := s1.irq.setGroup 8 0 }
  | none =>
    let s1 := if own || s.peat.full.isSome then s else injEvent [0x0037] 0 3 islMgmt s
    { s1 with
      peat := s1.peat.append r
      irq := peatCauses s1.peat (s1.peat.append r) s1.irq }

/-- Takes one pending record, if one can be taken. -/
def peatTake (s : State) : State :=
  match s.peat.pick with
  | some e => peatWrite e.record { s with peat := s.peat.drop e }
  | none => s

/-- Hexob writes a record and waits until it is in Peat: what its island still holds goes first. -/
def peatFlush (isl : Nat) : Nat → State → State
  | 0, s => s
  | n + 1, s =>
    match s.peat.head? isl with
    | some e => peatFlush isl n (peatWrite e.record { s with peat := s.peat.drop e })
    | none => s

/-- A record that management writes before the response of a command (R137, R299). -/
def peatNow (r : PeatRec) (s : State) : State :=
  if s.peat.online then
    match findLast (fun e => sameKind e.record r && e.record.key == r.key) s.peat.pend with
    | some _ => peatFlush islMgmt 8 (offer none r s)
    | none =>
      let s1 := peatFlush islMgmt 8 s
      match findLast (fun x => sameKind x r) s1.peat.records with
      | some x => if x.key == r.key then offer none r s1 else peatWrite r s1
      | none => peatWrite r s1
  else offer none r s

end Sys2Proof.Machine
end

