-- ==== Sys2Proof/Machine/Flags.lean ====
section
/-! DEFINITION. The status words: what a read of the control page, a mailbox or a ring status page returns, and
the level of the interrupt lines. A read changes nothing but the RC fields, which have commands of their own. -/

namespace Sys2Proof.Machine

/-- The HRP is served: powered, out of reset, and the control page is open (R64). -/
def hrpOpen (s : State) : Bool := s.bring.pwrOk && s.bring.rstN && !s.bring.shutdown && s.bring.pageOpen

/-- The block is powered and out of reset (R46). -/
def blockUp (s : State) : Bool := s.bring.pwrOk && s.bring.rstN && !s.bring.shutdown

/-- Boardwalk or full service is on offer. -/
def inService (s : State) : Bool := blockUp s && s.bring.blockReady

/-! Die crossings (R69, R71). -/

/-- Die of a quarter under the SPLIT strap. -/
def dieOf (s : State) (q : Nat) : Nat := if s.straps.split = 0 then 0 else if s.straps.split = 1 then q / 2 else q

/-- Number of a quarter pair, and of its UCIe interface (R69). -/
def pairNo (q r : Nat) : Nat :=
  if min q r = 0 then max q r - 1 else if min q r = 1 then max q r + 1 else 5

/-- Traffic passes between two quarters: they share a die, or their interface neither retrains nor has failed (R71). -/
def crossOpen (s : State) (q r : Nat) : Bool :=
  dieOf s q == dieOf s r || !(s.cw.ucieRetraining.contains (pairNo q r) || s.cw.ucieDown.contains (pairNo q r))

/-- BLOCK_READY (R78, R94). -/
def blockReadyPin (s : State) : Bool := inService s

/-- The bit of WEDGED_Q, WEDGED_XLATE, WEDGED_MERE and WEDGED_MGMT, counted from GLOBAL_STATUS bit 20; also the
CAUSE bit of group 0 (R117, R479). -/
def fnBit : Fn → Nat
  | .mover q => 5 * q.val
  | .expander q => 5 * q.val + 1
  | .quantiser q => 5 * q.val + 2
  | .slice q => 5 * q.val + 3
  | .causeway q => 5 * q.val + 4
  | .translation => 20
  | .mere => 21
  | .management => 22

def isWedged (s : State) (f : Fn) : Bool := s.wedged.contains f

def isResetting (s : State) (f : Fn) : Bool := s.resets.any fun r => r.fn == f

/-- A function that takes new work: neither wedged nor resetting (R27, R110). -/
def fnTakes (s : State) (f : Fn) : Bool := !isWedged s f && !isResetting s f

/-- The boot ROM or Hexob carries out commands: management is neither wedged nor resetting (R110, R144). -/
def mgmtRuns (s : State) : Bool := blockUp s && s.bring.pageOpen && fnTakes s .management

def wedgedBits (l : List Fn) : Nat := l.foldl (fun n f => n ||| (1 <<< fnBit f)) 0

/-- IDENT (R115). -/
def identWord : Nat := pack [(8, 0x08), (20, 0), (4, 0x1), (16, 0xE024), (16, 0x02B7)]

/-- CONFIG_STATUS (R116). -/
def configStatus (s : State) : Nat :=
  pack [(2, s.straps.split.toNat), (2, 0), (4, s.straps.mods.toNat), (5, s.bring.ctxStack.getD 0x1F), (3, 0),
    (10, s.cw.deviceId), (1, b2n s.cw.idValid)]

/-- GLOBAL_STATUS (R117). -/
def globalStatus (s : State) : Nat :=
  pack [(3, s.bring.stage), (1, 0), (1, b2n s.bring.boardwalk), (7, 0), (4, s.bring.stopCause),
    (1, b2n (!s.resets.isEmpty)), (3, 0), (23, wedgedBits s.wedged)]

/-- GLOBAL_STATUS as the TAP captures it: only STAGE and STOP_CAUSE before the control page opens (R77). -/
def tapStatus (s : State) : Nat :=
  if s.bring.pageOpen then globalStatus s
  else pack [(3, s.bring.stage), (9, 0), (4, s.bring.stopCause)]

/-- FW_VERSION (R118). -/
def fwVersion (s : State) : Nat := pack [(32, if s.bring.hexob then s.bring.svn.toNat else 0), (32, s.fuses.svnMin.toNat)]

/-- COOL_STATUS (R119). -/
def coolStatus (s : State) : Nat :=
  pack [(2, s.straps.cool.toNat), (2, s.power.profile), (1, b2n s.power.confirmed), (2, s.power.pinRate),
    (1, b2n (decide (0 < throttleOf s))), (8, 0), (16, s.power.powerW), (16, s.power.capW)]

/-- MBOX_STATUS (R124). -/
def mboxStatus (b : Mbox) : Nat :=
  pack [(1, b2n b.done), (1, b2n b.busy), (2, 0), (4, b.ignored), (8, b.locked), (16, b.tag.toNat),
    (32, b.cmdSeq.toNat)]

/-- S of a ring (R153). -/
def ringSize (r : Ring) : Nat := 2 ^ r.sizeLog2

def posOf (r : Ring) (e : Nat) : Nat := e % ringSize r
def wrapOf (r : Ring) (e : Nat) : Nat := e / ringSize r % 2

/-- Status word 0 of a ring (R169). -/
def ringWord0 (r : Ring) : Nat :=
  pack [(8, r.lastError), (1, b2n r.ownWait), (1, b2n r.fenceWait), (3, r.state), (1, wrapOf r r.tail),
    (1, wrapOf r r.head), (1, wrapOf r r.retire), (16, posOf r r.tail), (16, posOf r r.head), (16, posOf r r.retire)]

/-- Status word 1 of a ring (R170). -/
def ringWord1 (r : Ring) : Nat :=
  pack [(6, 0), (1, b2n r.place), (5, r.sizeLog2), (4, r.job), (16, r.mask.toNat), (16, r.badBells),
    (16, r.resetGen)]

/-- Both words of a ring that is not created read as zero (R171). -/
def ringWord (s : State) (r : Nat) (w1 : Bool) : Nat :=
  match Tbl.get? s.rings r with
  | some x => if w1 then ringWord1 x else ringWord0 x
  | none => 0

/-- A ring completion or error cause mapped to vector `v` is set (R477). -/
def ringCauseOn (s : State) (v : Nat) : Bool :=
  s.rings.any fun e => e.2.vector.toNat == v &&
    ((Tbl.getD s.irq.ringDone (e.1 / 64) 0).getLsbD (e.1 % 64) ||
      (Tbl.getD s.irq.ringErr (e.1 / 64) 0).getLsbD (e.1 % 64))

/-- A cause mapped to vector `v` is set and, for a group, enabled (R478). -/
def causeOn (s : State) (v : Nat) : Bool :=
  ((s.mbox[v]?).map Mbox.cause).getD false || ringCauseOn s v ||
    s.irq.groups.any fun g => g.vector.toNat == v && g.cause &&& g.enable != 0

/-- Level of IRQ_OUT[v] and PENDING bit v (R65, R120); clamped to 0 under isolation (R46). -/
def irqOut (s : State) (v : Nat) : Bool := hrpOpen s && causeOn s v && !s.irq.mask.getLsbD v

def irqPending (s : State) : Nat := (List.range 64).foldl (fun n v => n ||| (b2n (irqOut s v) <<< v)) 0

end Sys2Proof.Machine
end

