-- ==== Sys2Proof/Machine/MirrorBase.lean ====
section
/-! DEFINITION. What other units need of mirroring: roles, and the queue of items for the partner (14_mirroring.md,
R454 to R463). -/

namespace Sys2Proof.Machine

def roleSolo : Nat := 0
def rolePrimary : Nat := 1
def roleMirror : Nat := 2
def roleFenced : Nat := 3

def syncJoining : Nat := 0
def syncResync : Nat := 1
def syncInSync : Nat := 2
def syncDetached : Nat := 3

/-- In roles MIRROR and FENCED the device takes no work for what it mirrors (R456). -/
def standsBy (s : State) : Bool := decide (2 ≤ s.mirror.role)

/-- The device sends mirror traffic: a PRIMARY that copies or mirrors (R460, R466, R471). -/
def mirrors (s : State) : Bool :=
  s.mirror.role == rolePrimary && (s.mirror.syncState == syncResync || s.mirror.syncState == syncInSync)

/-- Payload of an item: the data of a write, else 64 bytes. DESIGN CHOICE (log entry 32). -/
def itemSize (i : MirrorItem) : Nat :=
  match i with
  | .stackWrite _ _ data => data.length
  | .mereWrite _ data => data.length
  | _ => 64

/-- Lag in bytes (R462). -/
def lagOf (m : Mirror) : Nat := (m.queue.map Prod.snd).sum

/-- The lag limit holds from LAG_MIB until the lag has fallen to three quarters of it (R462). -/
def Mirror.weigh (m : Mirror) : Mirror :=
  { m with lagStop :=
      if m.lagMib * 2 ^ 20 ≤ lagOf m then true else if lagOf m ≤ m.lagMib * 2 ^ 20 / 4 * 3 then false else m.lagStop }

/-- Queues an item for the partner (R460). -/
def mirrorSend (i : MirrorItem) (s : State) : State :=
  if mirrors s then
    { s with mirror := Mirror.weigh { s.mirror with
        queue := s.mirror.queue ++ [(i, itemSize i)]
        copyLeft := if s.mirror.syncState = syncResync then s.mirror.copyLeft + 1 else s.mirror.copyLeft } }
  else s

/-- Queues the item of a landed write, where the pair mirrors data. -/
def mirrorWrite (i : MirrorItem) (s : State) : State := if s.mirror.dataMirror then mirrorSend i s else s

/-- Entries complete under COMMIT = SYNC only while IN_SYNC (R463). -/
def syncCommit (s : State) : Bool := s.mirror.role == rolePrimary && s.mirror.sync && s.mirror.syncState == syncInSync

/-- A PRIMARY answers to the SERVICE_ID as to its own ID; in another role traffic for it is refused (R455). -/
def ownId (s : State) (dst : Nat) : Bool :=
  (s.cw.idValid && dst == s.cw.deviceId) || (s.mirror.paired && dst == s.mirror.service)

/-- Requests that reach this device for `dst` are answered as by a FENCED device (R441, R455). -/
def answersFenced (s : State) (dst : Nat) : Bool :=
  s.mirror.role == roleFenced || (s.mirror.paired && dst == s.mirror.service && s.mirror.role != rolePrimary)

/-- Commands that create, change or destroy objects of a mirrored kind (R456). -/
def mirroredOps : List Nat :=
  [0x0102, 0x0103, 0x0201, 0x0202, 0x0210, 0x0211, 0x0212, 0x0213, 0x0214, 0x0301, 0x0302, 0x0303, 0x0501, 0x0601, 0x0602]

/-- An object the device mirrors, by kind (1 ring, 2 stream, 3 range, 4 window, 5 Mere allocation, 6 binding) and number. -/
def isMirrored (s : State) (kind n : Nat) : Bool := s.mirror.mirrored.contains (kind, n)

end Sys2Proof.Machine
end

