-- ==== Sys2Proof/Machine/Mailbox.lean ====
section
/-! DEFINITION. Mailbox commands as every command goes: the opcode index, the header, checking and clamping, order
between conflicting commands, the response (04_mailboxes.md). A command is carried out in its own row; the row waits,
leaving the state as it is, while its mailbox holds no such command, while the command is held or conflicts with an
older one, and while management does not run. -/

namespace Sys2Proof.Machine

/-! Status codes (R475). -/

def stOk : Nat := 0x00
def stOkClamped : Nat := 0x01
def stRefused : Nat := 0x02
def stUnmapped : Nat := 0x10
def stProtection : Nat := 0x11
def stOverlap : Nat := 0x12
def stBusRead : Nat := 0x20
def stBusWrite : Nat := 0x21
def stStackUnc : Nat := 0x22
def stMereUnc : Nat := 0x23
def stMalformed : Nat := 0x30
def stLength : Nat := 0x31
def stTypeUnsup : Nat := 0x32
def stStale : Nat := 0x33
def stCmpCheck : Nat := 0x40
def stTableRetired : Nat := 0x41
def stBaseMismatch : Nat := 0x42
def stScaleInvalid : Nat := 0x51
def stNackFull : Nat := 0x60
def stNackClosed : Nat := 0x61
def stNackStale : Nat := 0x62
def stNackNoQueue : Nat := 0x63
def stNackFenced : Nat := 0x64
def stWindowClosed : Nat := 0x70
def stNoWindow : Nat := 0x71
def stUnreachable : Nat := 0x72
def stRemoteTimeout : Nat := 0x73
def stDisabled : Nat := 0x80
def stFunctionReset : Nat := 0x81
def stAdmitRefused : Nat := 0x90
def stExhausted : Nat := 0x91

/-! The opcode index (R145). -/

/-- Stages in which an opcode is accepted, and whether it is system-only. -/
structure OpInfo where
  op : Nat
  s1 : Bool
  bw : Bool
  s5 : Bool
  sys : Bool
deriving DecidableEq, Repr

/-- An opcode of Boardwalk and S5 for any job. -/
def opJob (op : Nat) : OpInfo := { op := op, s1 := false, bw := true, s5 := true, sys := false }
/-- A system-only opcode of Boardwalk and S5. -/
def opSys (op : Nat) : OpInfo := { op := op, s1 := false, bw := true, s5 := true, sys := true }
def opLoader (op : Nat) : OpInfo := { op := op, s1 := true, bw := false, s5 := false, sys := true }
def opMirror (op : Nat) (sys : Bool) : OpInfo := { op := op, s1 := false, bw := false, s5 := true, sys := sys }

def opIndex : List OpInfo :=
  [0x0100, 0x0101, 0x0104].map opJob ++ [0x0102, 0x0103, 0x0108, 0x0113, 0x0120, 0x0121, 0x0130].map opSys ++
  [0x0110, 0x0111, 0x0112].map opLoader ++
  [0x0201, 0x0202, 0x0203, 0x0210, 0x0211, 0x0212, 0x0213, 0x0214, 0x0215].map opJob ++
  [0x0301, 0x0302, 0x0304, 0x0305].map opJob ++ [opSys 0x0303] ++
  [0x0401, 0x0402, 0x0403, 0x0404, 0x0410, 0x0411, 0x0501, 0x0502, 0x0503, 0x0504].map opJob ++
  [0x0601, 0x0602, 0x0610, 0x0611, 0x0612, 0x0613, 0x0614].map opJob ++
  [0x0701, 0x0702].map opSys ++ [0x0710, 0x0711, 0x0712, 0x0720].map opJob ++
  [opMirror 0x0801 true, opMirror 0x0802 true, opMirror 0x0803 true, opMirror 0x0804 false] ++
  [0x0901, 0x0904, 0x0A01, 0x0A02].map opSys ++ [0x0902, 0x0903, 0x0A03, 0x0A10, 0x0A11].map opJob

def opFind (op : Nat) : Option OpInfo := opIndex.find? fun o => o.op == op

/-- The current stage and role accept the opcode (R130 step 1, R95, R104, R456). -/
def opAccepted (s : State) (op : Nat) : Bool :=
  match opFind op with
  | none => false
  | some o =>
    if s.bring.stage = 1 then o.s1
    else if s.bring.blockReady then (if s.bring.boardwalk then o.bw else o.s5) && !(standsBy s && mirroredOps.contains op)
    else false

/-! The command in a mailbox (R122, R128). -/

def cmdHdr (b : Mbox) : Nat := b.cmd.toNat % 2 ^ 256
def cmdOp (b : Mbox) : Nat := fld (cmdHdr b) 0 16
def cmdTag (b : Mbox) : Nat := fld (cmdHdr b) 16 16
def cmdLen (b : Mbox) : Nat := fld (cmdHdr b) 32 16
def cmdNoIrq (b : Mbox) : Bool := fld (cmdHdr b) 48 1 == 1
def cmdStrict (b : Mbox) : Bool := fld (cmdHdr b) 49 1 == 1
def cmdJob (b : Mbox) : Nat := fld (cmdHdr b) 64 8

/-- The body: bytes at or beyond BODY_LEN are taken as zero (R131). -/
def cmdBody (b : Mbox) : Nat := fld b.cmd.toNat 256 (8 * min (cmdLen b) 224)

/-- The command held in mailbox `m` while it is BUSY. -/
def busyBox (s : State) (m : Nat) : Option Mbox :=
  match s.mbox[m]? with
  | some b => if b.busy then some b else none
  | none => none

/-! Checking and clamping (R130 to R134). -/

/-- What a check says of a value: it stands, it is clamped, or it refuses the command. -/
inductive Rule where
  | ok
  | setTo (v : Nat)
  | no
  /-- The command ends with a status of its own at this field (R274). -/
  | ends (status : Nat)
deriving DecidableEq, Repr

/-- A field to check: its index, its place in the body, its entry number, and its rule, given the body with the
clamps made so far. -/
structure Fld where
  idx : Nat
  lo : Nat
  w : Nat
  ent : Nat
  sgn : Bool
  rule : Nat → Nat → Rule

def noEntry : Nat := 0xFFFF

/-- A reserved field: clamped to zero (R14). -/
def rsvd (idx lo w : Nat) : Fld := { idx := idx, lo := lo, w := w, ent := noEntry, sgn := false, rule := fun _ _ => .setTo 0 }

/-- A field with a rule on its value alone. -/
def chk (idx lo w : Nat) (r : Nat → Rule) : Fld :=
  { idx := idx, lo := lo, w := w, ent := noEntry, sgn := false, rule := fun _ v => r v }

/-- A field whose rule reads the body. -/
def chkB (idx lo w : Nat) (r : Nat → Nat → Rule) : Fld :=
  { idx := idx, lo := lo, w := w, ent := noEntry, sgn := false, rule := r }

/-- The field refuses the command unless `p` holds. -/
def refuseUnless (p : Bool) : Rule := if p then .ok else .no

/-- Clamps a value into `[lo, hi]`. -/
def clampIn (lo hi v : Nat) : Rule := .setTo (max lo (min v hi))

def inEntry (e : Nat) (f : Fld) : Fld := { f with ent := e }

/-- REQUESTED and APPLIED as a clamp entry lists them (R136). -/
def listed (f : Fld) (v : Nat) : Nat :=
  if f.sgn then ofSigned 64 (toSigned f.w v) else if v < 2 ^ 64 then v else 2 ^ 64 - 1

/-- Where the checks of a command end it: the status, and the index and entry of the field that it names. -/
structure Refused where
  status : Nat
  field : Nat
  entry : Nat
deriving DecidableEq, Repr

def refusedAt (idx ent : Nat) : Refused := { status := stRefused, field := idx, entry := ent }

/-- Checks fields in order. -/
def runFlds (strict : Bool) : List Fld → Nat → List Clamp → Except Refused (Nat × List Clamp)
  | [], body, cl => .ok (body, cl)
  | f :: fs, body, cl =>
    let v := fld body f.lo f.w
    match f.rule body v with
    | .ok => runFlds strict fs body cl
    | .no => .error (refusedAt f.idx f.ent)
    | .ends st => .error { status := st, field := 0, entry := 0 }
    | .setTo x =>
      if x = v then runFlds strict fs body cl
      else if strict then .error (refusedAt f.idx f.ent)
      else runFlds strict fs (setFld body f.lo f.w x)
        (cl ++ [{ field := f.idx, entry := f.ent, requested := listed f v, applied := listed f x }])

/-- Groups of checks, each made from the body as clamped by the groups before it. -/
def runGroups (strict : Bool) : List (Nat → List Fld) → Nat → List Clamp → Except Refused (Nat × List Clamp)
  | [], body, cl => .ok (body, cl)
  | g :: gs, body, cl =>
    match runFlds strict (g body) body cl with
    | .ok (b, c) => runGroups strict gs b c
    | .error e => .error e

/-- A job that may act: admitted and not being released (R132). -/
def jobActs (s : State) (j : Nat) : Bool :=
  match Tbl.get? s.jobs j with
  | some x => !x.releasing
  | none => false

def clampHdr (idx v x : Nat) : Clamp := { field := idx, entry := noEntry, requested := if v < 2 ^ 64 then v else 2 ^ 64 - 1, applied := x }

/-- Steps 2 to 4 of R130: reserved header fields, BODY_LEN, JOB_ID. -/
def checkHeader (s : State) (b : Mbox) : Except Refused (List Clamp) :=
  let r1 := fld (cmdHdr b) 50 14
  let r2 := fld (cmdHdr b) 72 184
  let c1 := (if r1 = 0 then [] else [clampHdr 0xF5 r1 0]) ++ (if r2 = 0 then [] else [clampHdr 0xF5 r2 0])
  let c2 := if cmdLen b ≤ 224 then [] else [clampHdr 0xF2 (cmdLen b) 224]
  let sys := ((opFind (cmdOp b)).map OpInfo.sys).getD false
  if cmdStrict b && !c1.isEmpty then .error (refusedAt 0xF5 noEntry)
  else if cmdStrict b && !c2.isEmpty then .error (refusedAt 0xF2 noEntry)
  else if cmdJob b = 0 || (decide (cmdJob b ≤ 15) && !sys && jobActs s (cmdJob b)) then .ok (c1 ++ c2)
  else .error (refusedAt 0xF4 noEntry)

/-- A command that passed the header checks: its mailbox, header fields and body as applied. -/
structure Cmd where
  m : Nat
  op : Nat
  tag : Nat
  seq : Word32
  job : Nat
  body : Nat
deriving DecidableEq, Repr

/-- How a command ends: with a response, waiting for something, or with no response. -/
inductive Reply where
  | done (status field entry len bits : Nat)
  | wait (w : CmdWait)
  | silent
deriving DecidableEq, Repr

/-- OK with a result of `len` bytes. -/
def okWith (len bits : Nat) : Reply := .done stOk 0 0 len bits
def okEmpty : Reply := okWith 0 0
/-- A status that names no field. -/
def endWith (status : Nat) : Reply := .done status 0 0 0 0
def refuse (idx ent : Nat) : Reply := .done stRefused idx ent 0 0

/-! The response (R125, R129, R136, R137). -/

/-- Bytes 0 to 23 of a clamp entry (R136, R493). -/
def clampBits (c : Clamp) : Nat :=
  pack [(8, c.field), (8, 0), (16, c.entry), (32, 0), (64, c.requested), (64, c.applied)]

def packClamps : List Clamp → Nat
  | [] => 0
  | c :: cs => clampBits c + (packClamps cs <<< 192)

/-- The CLAMP_REPORT records of a command: nine clamps each (R493). -/
def clampRecs (s : State) (m : Nat) (b : Mbox) (total : Nat) : Nat → Nat → List Clamp → List PeatRec
  | 0, _, _ => []
  | fuel + 1, part, cl =>
    if cl.isEmpty then []
    else
      let now := cl.take 9
      mkRec s 0x090 3 islMgmt [b.cmdSeq.toNat, part]
        ([pack [(16, 0), (8, now.length), (16, cmdTag b), (16, cmdOp b), (5, part), (3, m)],
          pack [(16, 0), (16, total), (32, b.cmdSeq.toNat)]] ++
          now.flatMap fun c => [pack [(8, c.field), (8, 0), (16, c.entry)], c.requested, c.applied])
        :: clampRecs s m b total fuel (part + 1) (cl.drop 9)

def peatAll : List PeatRec → State → State
  | [], s => s
  | r :: rs, s => peatAll rs (peatNow r s)

/-- Sequence number of PART 0 of the command's CLAMP_REPORT, or 0: the record is not among those that Peat held before (R137). -/
def clampSeq (before after : Peat) (b : Mbox) : Nat :=
  match findLast (fun r => r.typ == 0x090 && r.key == [b.cmdSeq.toNat, 0]) after.records with
  | some r => if before.records.contains r then 0 else r.seq % 2 ^ 32
  | none => 0

/-- The record of a clamped command that was carried out (R137), with PEAT cause bit 3. -/
def reportClamps (m : Nat) (b : Mbox) (cl : List Clamp) (s : State) : State :=
  if cl.isEmpty then s else setCause 8 3 (peatAll (clampRecs s m b cl.length 32 0 cl) s)

/-- Response body: the result, the clamps from CLAMP_OFFSET on, and undefined bytes elsewhere. -/
def rspBody (len bits : Nat) (cl : List Clamp) (free : BitVec 1792) : Nat :=
  let off := ceilDiv len 8 * 8
  let used := if cl.isEmpty then len else off + 24 * cl.length
  let gap := if cl.isEmpty then 0 else (fld free.toNat (8 * len) (8 * (off - len)) <<< (8 * len))
  bits % 2 ^ (8 * len) + gap + (packClamps cl <<< (8 * off)) + (free.toNat >>> (8 * used) <<< (8 * used))

/-- Response header (R129). -/
def rspHdr (b : Mbox) (status field entry len count : Nat) (excess : Bool) (peatSeq : Nat) : Nat :=
  pack [(16, cmdOp b), (16, cmdTag b), (8, status), (8, count), (8, field), (1, b2n excess), (7, 0), (16, entry),
    (16, len), (16, ceilDiv len 8 * 8), (16, 0), (32, b.cmdSeq.toNat), (32, peatSeq), (64, 0)]

/-- The command area once its command has completed: KEY_LOAD leaves no MATERIAL (R304). -/
def spentCmd (b : Mbox) : BitVec 2048 :=
  if cmdOp b = 0x0410 then b.cmd &&& ~~~(BitVec.ofNat 2048 ((2 ^ 512 - 1) <<< 320)) else b.cmd

/-- Writes the response of mailbox `m`, then DONE, clears BUSY and sets the cause unless NO_IRQ (R125). -/
def writeRsp (b : Mbox) (status field entry len bits : Nat) (cl : List Clamp) (peatSeq : Nat) (free : BitVec 1792) : Mbox :=
  let off := ceilDiv len 8 * 8
  let shown := cl.take ((224 - off) / 24)
  { b with
    cmd := spentCmd b
    rsp := BitVec.ofNat 2048 (rspHdr b status field entry len shown.length (shown.length < cl.length) peatSeq +
      (rspBody len bits shown free <<< 256))
    busy := false
    done := true
    cause := !cmdNoIrq b
    wait := .none
    clamps := [] }

/-- Ends the command of mailbox `m` (R125, R135 to R137). Only a command carried out lists its clamps. -/
def respond (m status field entry len bits : Nat) (s : State) : State :=
  match s.mbox[m]? with
  | none => s
  | some b =>
    let cl := if status = stOk then b.clamps else []
    let s1 := reportClamps m b cl s
    { s1 with
      mbox := updAt s1.mbox m fun x =>
        writeRsp x (if cl.isEmpty then status else stOkClamped) field entry len bits cl
          (if cl.isEmpty then 0 else clampSeq s.peat s1.peat b) (freeVal 1792 s1)
      freeTick := s1.freeTick + 1 }

/-- Ends or suspends the command. -/
def applyReply (m : Nat) (r : Reply) (s : State) : State :=
  match r with
  | .done st f e len bits => respond m st f e len bits s
  | .wait w => { s with mbox := updAt s.mbox m fun b => { b with wait := w } }
  | .silent => s

/-- The clamps made are kept with the mailbox until the response. -/
def keepClamps (m : Nat) (cl : List Clamp) (s : State) : State :=
  { s with mbox := updAt s.mbox m fun b => if b.busy then { b with clamps := cl } else b }

/-! Order between commands (R139, R140, R525). -/

/-- Object classes by which commands conflict (R139, R247, R298), and admission (R140). `.span` is VA space in 4 KiB pages,
`.group` the function, by FUNCTION and QUARTER, whose reset a command on one of its objects meets. -/
inductive Cls where
  | job | ring | stream | queue | window | range | table | key | base | stack | port | function | mere | binding
  | scale | image | coreMap | route | mirror | cool | plan | inject | span | group | admission
deriving DecidableEq, Repr

/-- What a command names: the objects of a class from number `lo` up to, not including, `hi`. -/
structure Names where
  cls : Cls
  lo : Nat
  hi : Nat
deriving DecidableEq, Repr

def one (c : Cls) (n : Nat) : Names := { cls := c, lo := n, hi := n + 1 }
def whole (c : Cls) : Names := { cls := c, lo := 0, hi := 2 ^ 64 }
def among (c : Cls) (a n : Nat) : Names := { cls := c, lo := a, hi := a + n }

/-- A reset names its function; commands on the function's objects meet the reset, not each other (R139, R247). -/
def sameClass (a b : Names) : Bool :=
  (a.cls == b.cls && a.cls != .group) || (a.cls == .group && b.cls == .function) || (a.cls == .function && b.cls == .group)

/-- Two mentions of one class meet when they share an object. -/
def meet (a b : Names) : Bool := sameClass a b && decide (a.lo < b.hi ∧ b.lo < a.hi)

/-- A stream and the mover group it is with. -/
def namesStream (s : State) (i : Nat) : List Names :=
  match Tbl.get? s.streams i with
  | some x =>
    let q := if x.state = 2 then some x.quarter else if x.mover = 0x7F then none else some (x.mover / 24)
    [one .stream i] ++ (q.map fun k => one .group (256 * k)).toList
  | none => [one .stream i]

/-- The number a creator asks for; none where the complex chooses. -/
def namesNew (c : Cls) (free : Bool) (n : Nat) : List Names := if free then [] else [one c n]

/-- The span of a range entry. -/
def namesEntry (s : State) (n : Nat) : List Names :=
  match Tbl.get? s.xlate.ranges n with
  | some r => [one .range n, among .span (r.va / 4096) (r.length * 16)]
  | none => [one .range n]

/-- A queue, and the slice that serves it (R389). -/
def namesQueue (n : Nat) : List Names := [one .queue n, one .group (256 * (n / 16384) + 3)]

/-- The slice of a reader's quarter (R389). -/
def namesReader (s : State) (core : Nat) : List Names :=
  ((Tbl.get? s.cores core).map fun c => one .group (256 * (c.port / 16) + 3)).toList

/-- The Mere pages of a span of bytes: a creator names the allocation that it uses (R174, R383, R397, R437). -/
def namesBytes (a n : Nat) : Names := among .mere (a / 4096) (ceilDiv (a % 4096 + n) 4096)

/-- The pages of a Mere allocation (R383). -/
def namesAlloc (s : State) (p : Nat) : Names := among .mere p (((Tbl.get? s.allocs p).map MereAlloc.pages).getD 1)

/-- A binding, and the quantiser and its group that hold it (R37, R342). -/
def namesBinding (s : State) (body : Nat) : List Names :=
  one .binding (fld body 0 10 * 4 + fld body 10 2) ::
    ((Tbl.get? s.cores (fld body 0 10)).map fun c => [one .scale (c.port / 2), one .group (256 * (c.port / 16) + 2)]).getD []

/-- A Causeway port, and its group. -/
def namesPort (p : Nat) : List Names := [one .port p, one .group (256 * (p / 8) + 4)]

/-- The LINK slots of an entry of ROUTE_SET with KIND 1; 0xFF names none. -/
def namesLinkKeys (body i : Nat) : List Names :=
  ([fld body (64 + 64 * i + 48) 8, fld body (64 + 64 * i + 40) 8].filter fun k => k != 0xFF).map (one .key)

/-- Jobs, the map, images, functions, units, rings and streams. -/
def namesLow (s : State) (op body : Nat) : List Names :=
  if op = 0x0102 then [whole .job, whole .admission]
  else if op = 0x0103 then [one .job (fld body 0 8), whole .admission]
  else if op = 0x0104 then [one .job (fld body 0 8)]
  else if op = 0x0108 then [whole .coreMap]
  else if op = 0x0110 || op = 0x0111 || op = 0x0112 || op = 0x0113 then [whole .image]
  else if op = 0x0120 then [one .function (if fld body 0 8 < 8 then fld body 8 2 * 256 + fld body 0 8 else fld body 0 8)]
  else if op = 0x0130 then (if fld body 0 8 = 0 then [one .stack (fld body 8 8)] else namesPort (fld body 8 8))
  else if op = 0x0201 then
    namesNew .ring (fld body 112 16 == 0xFFFF) (fld body 112 16) ++
      [if fld body 96 1 = 1 then namesBytes (fld body 0 64) (32 * 2 ^ fld body 104 5)
       else among .span (fld body 0 64 / 4096) (ceilDiv (32 * 2 ^ fld body 104 5) 4096)]
  else if op = 0x0202 || op = 0x0203 then [one .ring (fld body 0 16)]
  else if op = 0x0210 then
    namesNew .stream (fld body 96 32 == 0xFFFFFFFF) (fld body 96 32) ++
      (if fld body 88 8 = 2 then [one .queue (fld body 64 16)] else [])
  else if 0x0211 ≤ op ∧ op ≤ 0x0215 then namesStream s (fld body 0 20)
  else []

/-- Translation, compression and keys. -/
def namesXlate (s : State) (op body : Nat) : List Names :=
  if op = 0x0301 then
    namesNew .range (fld body 240 16 == 0xFFFF) (fld body 240 16) ++
      [one .key (fld body 224 4), among .span (fld body 0 48 / 4096) (fld body 160 32 * 16)]
  else if op = 0x0302 then namesEntry s (fld body 0 16)
  else if op = 0x0303 then [whole .span, one .key (fld body 68 4)]
  else if op = 0x0304 then [among .span (fld body 0 48 / 4096) (fld body 64 36)]
  else if op = 0x0401 then [one .base (fld body 64 8)]
  else if op = 0x0402 then [one .base (fld body 0 8)]
  else if op = 0x0403 || op = 0x0404 then [one .table (fld body 0 8)]
  else if op = 0x0410 || op = 0x0411 then [one .key (fld body 0 8)]
  else []

/-- Quantisers, the Mere and queues. -/
def namesMere (s : State) (op body : Nat) : List Names :=
  if op = 0x0501 then namesBinding s body ++ [one .stream (fld body 64 20)]
  else if op = 0x0502 then
    [one .scale (fld body 32 5), one .group (256 * (fld body 32 5 / 8) + 2), namesBytes (fld body 72 28) (4 * fld body 59 13)]
  else if op = 0x0503 || op = 0x0504 then namesBinding s body
  else if op = 0x0601 then
    one .group 9 :: (if fld body 100 28 = 0xFFFFFFF then [] else [among .mere (fld body 100 28 / 4096) (fld body 80 17)])
  else if op = 0x0602 then [one .group 9, namesAlloc s (fld body 0 28 / 4096)]
  else if op = 0x0610 then
    namesNew .queue (fld body 32 1 == 1) (fld body 48 16) ++ namesReader s (fld body 0 10) ++
      [namesBytes (fld body 100 28) (320 * fld body 84 16)]
  else if op = 0x0613 then
    namesNew .queue (fld body 32 1 == 1) (fld body 48 16) ++ namesReader s (fld body 0 10) ++
      [namesBytes (fld body 164 28) (fld body 147 17)]
  else if op = 0x0611 || op = 0x0612 || op = 0x0614 then namesQueue (fld body 0 16)
  else []

/-- Causeway, the pair, cooling, margin and injection. -/
def namesHigh (op body : Nat) : List Names :=
  if op = 0x0701 then [whole .route]
  else if op = 0x0702 then [among .route (if fld body 32 8 = 1 then 65536 + fld body 0 16 else fld body 0 16) (fld body 16 16)] ++
    (if fld body 32 8 = 1 then (List.range (min (fld body 16 16) 27)).flatMap (namesLinkKeys body) else [])
  else if op = 0x0710 then
    namesNew .window (fld body 240 16 == 0xFFFF) (fld body 240 16) ++
      [if fld body 232 1 = 1 then namesBytes (fld body 0 48) (4096 * fld body 164 28)
       else among .span (fld body 0 48 / 4096) (fld body 164 28)]
  else if op = 0x0711 || op = 0x0712 then [one .window (fld body 0 12)]
  else if op = 0x0720 then namesPort (fld body 0 5)
  else if 0x0801 ≤ op ∧ op ≤ 0x0804 then [whole .mirror]
  else if op = 0x0901 then [whole .cool]
  else if op = 0x0903 || op = 0x0904 then [whole .plan]
  else if op = 0x0A01 then [one .inject (fld body 0 16 * 65536 + fld body 32 16)]
  else if op = 0x0A02 then [one .inject (fld body 0 16 * 65536 + fld body 32 16)]
  else if op = 0x0A03 then [whole .inject]
  else []

/-- Commands that create or destroy an object counted by admission (R140, R146): a slice reset frees the queues whose FREE is
pending (R401), as a reader reset does, and MIRROR_UNPAIR the streams and rings mirrored. -/
def countedOp (op body : Nat) : Bool :=
  [0x0201, 0x0202, 0x0210, 0x0211, 0x0301, 0x0302, 0x0403, 0x0410, 0x0411, 0x0601, 0x0602, 0x0610, 0x0611, 0x0612, 0x0613,
    0x0710, 0x0711, 0x0802].contains op || (op == 0x0120 && fld body 0 8 == 3)

/-- The objects a command names. `m` tells creators apart, which do not conflict with each other (R140). -/
def namesOf (s : State) (op body m : Nat) : List Names :=
  (if countedOp op body then [one .admission m] else []) ++ namesLow s op body ++ namesXlate s op body ++ namesMere s op body ++ namesHigh op body

/-- Pairs that the manual merges rather than orders (R112, R150, R446). -/
def merges (opA bodyA opB bodyB : Nat) : Bool :=
  opA == opB && (opA == 0x0120 || (opA == 0x0103 && fld bodyA 0 8 == fld bodyB 0 8) || (opA == 0x0711 && fld bodyA 0 12 == fld bodyB 0 12))

def conflicts (s : State) (opA bodyA mA opB bodyB mB : Nat) : Bool :=
  !merges opA bodyA opB bodyB &&
    (namesOf s opA bodyA mA).any fun a => (namesOf s opB bodyB mB).any fun b => meet a b

/-- A command that has taken its effect and only waits holds up no reset of the function it uses: the reset may be what ends
the wait (R144, R298). DESIGN CHOICE (log entry 86). -/
def holdsUp (s : State) (x : Mbox) (k : Nat) (b : Mbox) (m : Nat) : Bool :=
  !(x.wait != .none && cmdOp b == 0x0120) && conflicts s (cmdOp x) (cmdBody x) k (cmdOp b) (cmdBody b) m

/-- Command `a` was accepted before `b`, counting modulo 2³² back from the CMD_SEQ assigned next (R525). -/
def olderSeq (next a b : Word32) : Bool := decide ((next - b).toNat < (next - a).toNat)

/-- Mailbox `m` waits for a conflicting command of lower CMD_SEQ that is still in progress (R139). -/
def blocked (s : State) (m : Nat) (b : Mbox) : Bool :=
  (List.range 8).any fun k =>
    match s.mbox[k]? with
    | some x => k != m && x.busy && olderSeq s.cmdSeq x.cmdSeq b.cmdSeq && holdsUp s x k b m
    | none => false

/-! Carrying out a command. -/

/-- What is particular to a command: its opcode, the bodies that belong to its row, its field checks in order, and
its effect. -/
structure CmdSpec where
  op : Nat
  /-- Carried out by the mailbox hardware, so also while management is wedged (R142). -/
  hw : Bool
  sel : Nat → Bool
  flds : State → Nat → List (Nat → List Fld)
  act : Cmd → State → State × Reply

/-- A command held under R95: Hexob runs, Boardwalk has not opened. -/
def held (s : State) : Bool := 2 ≤ s.bring.stage && !s.bring.blockReady && s.bring.stopCause == 0

/-- The row can carry out the command in mailbox `m` now. -/
def cmdReady (c : CmdSpec) (s : State) (m : Nat) : Bool :=
  match busyBox s m with
  | some b => decide (cmdOp b = c.op) && b.wait == .none && c.sel (cmdBody b) && !held s &&
      (if c.hw then blockUp s else mgmtRuns s && !blocked s m b)
  | none => false

def cmdOf (m : Nat) (b : Mbox) (body : Nat) : Cmd :=
  { m := m, op := cmdOp b, tag := cmdTag b, seq := b.cmdSeq, job := cmdJob b, body := body }

/-- All checks of R130 after the opcode. -/
def checkAll (c : CmdSpec) (s : State) (b : Mbox) : Except Refused (Nat × List Clamp) :=
  match checkHeader s b with
  | .error e => .error e
  | .ok cl => runGroups (cmdStrict b) (c.flds s (cmdJob b)) (cmdBody b) cl

/-- ECC_CORRECTED of a read of the management SRAM by Hexob (R476, R491). -/
def sramRec (s : State) (bit : Nat) : PeatRec :=
  mkRec s 0x010 0 islMgmt [0x11, 0, 0] [pack [(25, 0), (4, 0xC), (7, syndrome 0x11 bit false), (8, 0), (12, 0), (8, 0x11)], 0]

/-- Hexob reads its SRAM as it carries out a command: the event of point 0x0015 (R503). -/
def hexobReads (s : State) : State :=
  match injFires s [0x15] 0 with
  | some a =>
    setCause 1 0 (offer (injNeeds [0x15] 0 0 islMgmt s) (sramRec s (fld a.arg.toNat 0 6)) (injEvent [0x15] 0 0 islMgmt s))
  | none => injEvent [0x15] 0 0 islMgmt s

/-- Checks the command and carries it out (R130, R135). -/
def carryOut (c : CmdSpec) (m : Nat) (b : Mbox) (s0 : State) : State :=
  let s := if c.hw then s0 else hexobReads s0
  if opAccepted s (cmdOp b) then
    match checkAll c s b with
    | .error e => respond m e.status e.field e.entry 0 0 s
    | .ok (body, cl) =>
      applyReply m (c.act (cmdOf m b body) s).2 (keepClamps m cl (c.act (cmdOf m b body) s).1)
  else respond m stRefused 0xF0 noEntry 0 0 s

/-- The meaning of a mailbox row. -/
def runCmd (c : CmdSpec) (m : Nat) (s : State) : State :=
  if cmdReady c s m then
    match busyBox s m with
    | some b => carryOut c m b s
    | none => s
  else s

/-- Ends a command that waited, in its own mailbox, if it still waits for that (R79, R112). -/
def finishWait (w : CmdWait) (status len bits : Nat) (s : State) : State :=
  (List.range 8).foldl (fun t m =>
    match busyBox t m with
    | some b => if b.wait == w then respond m status 0 0 len bits t else t
    | none => t) s

/-- Ends with OK every waiting command for which `f` gives the length and the bits of a result. -/
def finishWhere (f : CmdWait → Option (Nat × Nat)) (s : State) : State :=
  (List.range 8).foldl (fun t m =>
    match (busyBox t m).bind fun b => f b.wait with
    | some r => respond m stOk 0 0 r.1 r.2 t
    | none => t) s

/-! GO (R123 to R126). -/

def nextSeq (x : Word32) : Word32 := if x = 0xFFFFFFFF then 1 else x + 1

def goBox (b : Mbox) (seq : Word32) (now : Nat) : Mbox :=
  { b with busy := true, done := false, cause := false, locked := 0, ignored := 0, cmdSeq := seq, goAt := now,
           tag := BitVec.ofNat 16 (cmdTag b), wait := .none, clamps := [] }

/-- An opcode that no row carries out: unlisted, or not accepted in the current stage (R130 step 1, R145). -/
def refuseUnlisted (m : Nat) (s : State) : State :=
  match busyBox s m with
  | some b =>
    if (mgmtRuns s && !held s && !opAccepted s (cmdOp b)) then respond m stRefused 0xF0 noEntry 0 0 s else s
  | none => s

/-- A write of MBOX_DOORBELL[m]. -/
def goWrite (m : Nat) (go : Bool) (s : State) : State :=
  if go then
    match s.mbox[m]? with
    | none => s
    | some b =>
      if b.busy then { s with mbox := updAt s.mbox m fun x => { x with ignored := satAdd 4 x.ignored 1 } }
      else
        refuseUnlisted m
          { s with mbox := updAt s.mbox m fun x => goBox x s.cmdSeq (cyclesOf s islMgmt), cmdSeq := nextSeq s.cmdSeq }
  else s

/-- A write to the command area: the enabled bytes change, or it is ignored and counted (R122, R125). -/
def byteMask (be : BitVec 8) : Nat :=
  (List.range 8).foldl (fun n i => if be.getLsbD i then n + (0xFF <<< (8 * i)) else n) 0

def writeCmdWord (b : Mbox) (w : Nat) (be : BitVec 8) (data : Word64) : Mbox :=
  if b.busy then { b with locked := satAdd 8 b.locked 1 }
  else
    let mask := BitVec.ofNat 2048 (byteMask be <<< (64 * w))
    { b with cmd := (b.cmd &&& ~~~mask) ||| (BitVec.ofNat 2048 (data.toNat <<< (64 * w)) &&& mask) }

/-- A write of MBOX_STATUS[m] with DONE = 1 acknowledges the response (R124, R125). -/
def ackDone (b : Mbox) (data : Word64) : Mbox :=
  if data.getLsbD 0 && b.done then { b with done := false, cause := false } else b

end Sys2Proof.Machine
end

