-- ==== Sys2Proof/Machine/Memory.lean ====
section
/-! DEFINITION. Memory: check bits and their records, the physical map, stack memory with its encryption, the Mere
with its ownership, and the service of one 64-byte row (02_ports.md, 09_translation.md, 10_compression.md,
12_mere_and_queues.md, 15_errors_peat.md). -/

namespace Sys2Proof.Machine

/-- Keeps of a pipeline only what reporting changes: Peat, causes, armings, counters. -/
def reportBy (f : State → State) (s : State) : State :=
  { s with peat := (f s).peat, irq := (f s).irq, inject := (f s).inject, counters := (f s).counters }

/-! SECDED (R385, R476, R491). -/

/-- Words of a row found in error: word and first flipped bit. -/
structure EccOut where
  corr : List (Nat × Nat)
  unc : List (Nat × Nat)
deriving DecidableEq, Repr

def EccOut.clean : EccOut := { corr := [], unc := [] }

/-- Flips that a firing makes in a word: one bit, or two at a DBE point (R503). -/
def firedFlip (a : Option Arming) (dbe : Nat) (words : Nat) : List (Nat × Nat × Nat) :=
  match a with
  | some x => [(min (fld x.arg.toNat 8 8) (words - 1), fld x.arg.toNat 0 6, if x.point == dbe then 2 else 1)]
  | none => []

def envFlips (env : Env) (site unit addr : Nat) : List (Nat × Nat × Nat) :=
  (env.flips.filter fun f => f.site == site && f.unit == unit && f.addr == addr).map
    fun f => (f.word, f.bit, if f.dbl then 2 else 1)

/-- One flipped bit of a word is corrected; two or more are not (R476). -/
def judge (words : Nat) (fl : List (Nat × Nat × Nat)) : EccOut :=
  let tally := (List.range words).filterMap fun w =>
    match fl.find? fun f => f.1 == w with
    | some f => some (w, f.2.1, ((fl.filter fun g => g.1 == w).map fun g => g.2.2).sum)
    | none => none
  { corr := tally.filterMap fun t => if t.2.2 = 1 then some (t.1, t.2.1) else none,
    unc := tally.filterMap fun t => if 2 ≤ t.2.2 then some (t.1, t.2.1) else none }

/-- A protected row that is read: where it is, who reads it, and which injection points watch the read. -/
structure EccSite where
  site : Nat
  unit : Nat
  addr : Nat
  words : Nat
  island : Nat
  level : Nat
  reader : Nat
  /-- Higher point number first; the DBE point; empty for scrubs and self-tests (R501). -/
  points : List Nat
  dbe : Nat
deriving DecidableEq, Repr

/-- ECC_CORRECTED or ECC_UNCORRECTABLE (R491). -/
def eccRec (s : State) (x : EccSite) (dbl : Bool) (word bit : Nat) : PeatRec :=
  mkRec s (if dbl then 0x011 else 0x010) (if dbl then x.level else 0) x.island [x.site, x.unit, x.addr / 64]
    [pack [(25, 0), (4, x.reader), (7, syndrome x.site bit dbl), (8, word), (12, x.unit), (8, x.site)],
      pack [(48, x.addr), (16, 0)]]

/-- What the check finds in a row: injected flips, the flips the surroundings bring, and words known bad. -/
def eccLook (env : Env) (x : EccSite) (bad : List (Nat × Nat × Nat)) (s : State) : EccOut :=
  judge x.words (firedFlip (injFires s x.points x.unit) x.dbe x.words ++ envFlips env x.site x.unit x.addr ++ bad)

def headOr (l : List (Nat × Nat)) : Nat × Nat := l.head?.getD (0, 0)

/-- Records and causes of what the check found; the firing's record goes first (R31, R501). -/
def eccTrace (env : Env) (x : EccSite) (bad : List (Nat × Nat × Nat)) (s : State) : State :=
  let o := eccLook env x bad s
  let n := injNeeds x.points x.unit x.level x.island s
  let s1 := injEvent x.points x.unit x.level x.island s
  let s2 := if o.corr.isEmpty then s1
    else setCause 1 0 (offer n (eccRec s1 x false (headOr o.corr).1 (headOr o.corr).2) s1)
  if o.unc.isEmpty then s2
  else setCause 1 1 (offer n (eccRec s2 x true (headOr o.unc).1 (headOr o.unc).2) s2)

/-- The pending record that a record of the failure follows. -/
def eccNeeds (env : Env) (x : EccSite) (bad : List (Nat × Nat × Nat)) (s : State) : Option Nat :=
  let o := eccLook env x bad s
  if o.unc.isEmpty then none
  else
    let n := injNeeds x.points x.unit x.level x.island s
    let s1 := injEvent x.points x.unit x.level x.island s
    let s2 := if o.corr.isEmpty then s1
      else setCause 1 0 (offer n (eccRec s1 x false (headOr o.corr).1 (headOr o.corr).2) s1)
    offeredIn n (eccRec s2 x true (headOr o.unc).1 (headOr o.unc).2) s2

/-! The physical map (R270, R271). -/

def stackSpan : Nat := 2 ^ 36
def hostBase : Nat := 0x20000000000
def paEnd : Nat := 0x40000000000

def stackAt (s : State) (k : Nat) : Stack := Tbl.getD s.stackTbl k .reset

/-- Installed capacity of a stack in bytes (R271). -/
def capacity (s : State) (k : Nat) : Nat := (stackAt s k).capGiB * 2 ^ 30

/-- The 64 MiB context region (R271), if placed. -/
def ctxRegion (s : State) : Option (Nat × Nat) :=
  s.bring.ctxStack.map fun k => (k * stackSpan + capacity s k - 0x4000000, k * stackSpan + capacity s k)

def hitsCtx (s : State) (pa n : Nat) : Bool :=
  match ctxRegion s with
  | some (a, b) => decide (pa < b ∧ a < pa + n)
  | none => false

/-- The span lies wholly below the installed capacity of one stack. -/
def inStack (s : State) (pa n : Nat) : Bool :=
  decide (pa / stackSpan < 24 ∧ pa % stackSpan + n ≤ capacity s (pa / stackSpan))

def inHost (pa n : Nat) : Bool := decide (hostBase ≤ pa ∧ pa + n ≤ paEnd)

/-! Keys (R303, R304). -/

def keySlot (s : State) (k : Nat) : Option KeySlot := Tbl.get? s.keys k

/-- A MEMORY slot owned by the domain's job or the system (R289, R305). -/
def keyOf (s : State) (k domain : Nat) : Bool :=
  match keySlot s k with
  | some x => x.state == 1 && (x.job == domain || x.job == 0)
  | none => false

/-- Key material in force; a cleared slot holds zeros (R308). -/
def material (s : State) (k : Nat) : BitVec 256 × BitVec 256 :=
  match keySlot s k with
  | some x => (x.lo, x.hi)
  | none => (0, 0)

/-! Stack memory: plaintext bytes with the key each 16-byte block was written under. -/

def stackRaw (m : MemSys) (a : Nat) : Byte := (cellGet m.stack a).getD (Config.stackByte m.stackEpoch a)

def blockRaw (m : MemSys) (b : Nat) : BitVec 128 :=
  BitVec.ofNat 128 (bytesToNat ((List.range 16).map fun i => stackRaw m (16 * b + i)))

def keyBits (k : BitVec 256 × BitVec 256) : BitVec 512 := k.1 ++ k.2

/-- A byte as a reader with the given key sees it (R303, R309). -/
def stackSeen (m : MemSys) (k : BitVec 256 × BitVec 256) (a : Nat) : Byte :=
  match Tbl.get? m.tags (a / 16) with
  | none => stackRaw m a
  | some t =>
    if t = k then stackRaw m a
    else BitVec.ofNat 8
      ((Config.xtsGarble (keyBits t) (keyBits k) (a / 16 * 16) (blockRaw m (a / 16))).toNat >>> (8 * (a % 16)))

/-- Re-encrypts a block under a new key, as the merge of a partial block does (R303). -/
def rebase (m : MemSys) (k : BitVec 256 × BitVec 256) (b : Nat) : MemSys :=
  match Tbl.get? m.tags b with
  | none => { m with tags := Tbl.put m.tags b k }
  | some t =>
    if t = k then m
    else
      { m with
        stack := cellPutAll m.stack (16 * b) ((List.range 16).map fun i => stackSeen m k (16 * b + i))
        tags := Tbl.put m.tags b k }

def stackPut (k : BitVec 256 × BitVec 256) (m : MemSys) (a : Nat) (v : Byte) : MemSys :=
  let m1 := rebase m k (a / 16)
  { m1 with stack := cellPut m1.stack a v }

def stackPutAll (k : BitVec 256 × BitVec 256) (m : MemSys) (a : Nat) : List Byte → MemSys
  | [] => m
  | v :: vs => stackPutAll k (stackPut k m a v) (a + 1) vs

def stackBytes (m : MemSys) (k : BitVec 256 × BitVec 256) (a : Nat) : Nat → List Byte
  | 0 => []
  | n + 1 => stackSeen m k a :: stackBytes m k (a + 1) n

/-! The Mere (R376). -/

def mereSize : Nat := 0x10000000

def bankOf (a : Nat) : Nat := a / 64 % 2048
def mereQuarter (a : Nat) : Nat := a / 64 % 2048 / 512

/-- Ownership of a Mere page: the allocation that holds it (R378); one marked withdrawing counts as free (R383). -/
def allocAt (s : State) (page : Nat) : Option (Nat × MereAlloc) :=
  s.allocs.find? fun e => decide (e.1 ≤ page ∧ page < e.1 + e.2.pages)

def pageOwner (s : State) (page : Nat) : Option MereAlloc :=
  match allocAt s page with
  | some (_, a) => if a.withdrawing then none else some a
  | none => none

def pagesOf (a n : Nat) : List Nat :=
  if n = 0 then [] else (List.range ((a + n - 1) / 4096 - a / 4096 + 1)).map fun i => a / 4096 + i

/-- A mover's access in space MERE under a domain mask (R378): status and the lowest failing byte. -/
def mereCheck (s : State) (mask : BitVec 16) (a n : Nat) : Option (Nat × Nat) :=
  match (pagesOf a n).find? fun p => (pageOwner s p).isNone with
  | some p => some (stUnmapped, max a (p * 4096))
  | none =>
    match (pagesOf a n).find? fun p => !(mask.getLsbD ((pageOwner s p).map MereAlloc.job |>.getD 0)) with
    | some p => some (stProtection, max a (p * 4096))
    | none => none

/-- The span lies wholly within one allocation of a job (R174). -/
def inOneAlloc (s : State) (job a n : Nat) : Bool :=
  match allocAt s (a / 4096) with
  | some (p, x) => x.job == job && !x.withdrawing && decide (a + n ≤ (p + x.pages) * 4096)
  | none => false

/-- Every byte of the span lies in allocations of a job. -/
def inAllocs (s : State) (job a n : Nat) : Bool :=
  (pagesOf a n).all fun p => match pageOwner s p with | some x => x.job == job | none => false

/-! Rows. -/

def rowBytes (x : BitVec 512) (m : BitVec 512) : List (Nat × Byte) :=
  (List.range 64).filterMap fun i =>
    if fld m.toNat (8 * i) 8 = 0 then none else some (i, BitVec.ofNat 8 (fld x.toNat (8 * i) 8))

def blend (old new mask : BitVec 512) : BitVec 512 := (old &&& ~~~mask) ||| (new &&& mask)

/-- Some group of `w` bits of the mask is set in part. -/
def partly (mask : BitVec 512) (w : Nat) : Bool :=
  (List.range (512 / w)).any fun i => fld mask.toNat (w * i) w != 0 && fld mask.toNat (w * i) w != 2 ^ w - 1

def toRow (l : List Byte) : BitVec 512 := BitVec.ofNat 512 (bytesToNat l)

def mereRow (m : MemSys) (a : Nat) : BitVec 512 := toRow (zeroBytes m.mere a 64)

def stackRow (s : State) (k : BitVec 256 × BitVec 256) (a : Nat) : BitVec 512 := toRow (stackBytes s.mem k a 64)

/-- Words of a Mere row that stay uncorrectable (R385). -/
def badWords (m : MemSys) (a : Nat) : List (Nat × Nat × Nat) :=
  (m.mereBad.filter fun w => decide (a / 4 ≤ w ∧ w < a / 4 + 16)).map fun w => (w - a / 4, 0, 2)

def stackSite (k a reader : Nat) : EccSite :=
  { site := 2, unit := k, addr := a, words := 16, island := islStack k, level := if reader = 8 then 1 else 0, reader := reader,
    points := [4, 3], dbe := 4 }

def mereSite (a reader : Nat) (inj : Bool) : EccSite :=
  { site := 1, unit := bankOf a, addr := a, words := 16, island := islMere (mereQuarter a), level := 0,
    reader := reader, points := if inj then [2, 1] else [], dbe := 2 }

/-- Charge and cause bit of a corrected stack beat (R258), by pin rate. -/
def stackCharge (s : State) (k : Nat) : Nat :=
  match (stackAt s k).rate with
  | 0 => 15
  | 1 => 10
  | _ => 8

/-- The outcome of reading a row: status, the row, event charge and cause bits, records' predecessor, state. -/
structure RowRead where
  st : State
  status : Nat
  row : BitVec 512
  charge : Nat
  cause : Nat
  needs : Option Nat
deriving DecidableEq, Repr

/-- A stack controller reads one beat (R26, R271, R302, R526). -/
def readStackRow (env : Env) (k a : Nat) (key : BitVec 256 × BitVec 256) (reader : Nat) (s : State) : RowRead :=
  if (stackAt s k).state ≠ 1 then { st := s, status := stBusRead, row := 0, charge := 0, cause := 0, needs := none }
  else
    let x := stackSite k a reader
    let o := eccLook env x [] s
    let t := reportBy (fun s =>
      let s1 := eccTrace env x [] s
      let s2 := if o.corr.isEmpty then s1 else bump 8 k 0 1 s1
      if o.unc.isEmpty then s2 else bump 8 k 1 o.unc.length s2) s
    { st := t, status := if o.unc.isEmpty then stOk else stStackUnc, row := stackRow s key a,
      charge := if o.corr.isEmpty then 0 else stackCharge s k, cause := if o.corr.isEmpty then 0 else 2,
      needs := eccNeeds env x [] s }

/-- A bank reads one row (R385, R386). Double flips that the surroundings bring stay in the word. -/
def readMereRow (env : Env) (a reader : Nat) (inj : Bool) (s : State) : RowRead :=
  let x := mereSite a reader inj
  let o := eccLook env x (badWords s.mem a) s
  let q := mereQuarter a
  let t := reportBy (fun s =>
    let s1 := eccTrace env x (badWords s.mem a) s
    let s2 := if o.corr.isEmpty then s1 else bump 7 q 0 1 s1
    if o.unc.isEmpty then s2 else bump 7 q 1 o.unc.length s2) s
  let real := (judge 16 (envFlips env 1 (bankOf a) a)).unc.map fun w => a / 4 + w.1
  { st := { t with mem := { t.mem with mereBad := (real.filter fun w => !t.mem.mereBad.contains w) ++ t.mem.mereBad } },
    status := if o.unc.isEmpty then stOk else stMereUnc, row := mereRow s.mem a,
    charge := if o.corr.isEmpty then 0 else 4, cause := if o.corr.isEmpty then 0 else 1,
    needs := eccNeeds env x (badWords s.mem a) s }

def putRowMere (m : MemSys) (a : Nat) (row mask : BitVec 512) : MemSys :=
  { m with
    mere := (rowBytes row mask).foldl (fun c e => zeroPut c (a + e.1) e.2) m.mere
    mereBad := m.mereBad.filter fun w =>
      !(decide (a / 4 ≤ w ∧ w < a / 4 + 16) && fld mask.toNat (32 * (w - a / 4)) 32 == 2 ^ 32 - 1) }

def putRowStack (k : BitVec 256 × BitVec 256) (m : MemSys) (a : Nat) (row mask : BitVec 512) : MemSys :=
  (rowBytes row mask).foldl (fun c e => stackPut k c (a + e.1) e.2) m

/-- The outcome of writing a row. -/
structure RowWrite where
  st : State
  status : Nat
  charge : Nat
  cause : Nat
  needs : Option Nat
deriving DecidableEq, Repr

/-- A stack controller writes a row, merging a partial word or AES block (R250, R303). -/
def writeStackRow (env : Env) (k a : Nat) (key : BitVec 256 × BitVec 256) (data mask : BitVec 512) (merged : Bool) (s : State) :
    RowWrite :=
  if (stackAt s k).state ≠ 1 then { st := s, status := stBusWrite, charge := 0, cause := 0, needs := none }
  else if !merged && (partly mask 32 || partly mask 128) then
    let r := readStackRow env k a key 1 s
    let t := bump 8 k 2 1 r.st
    if r.status = stOk then
      { st := { t with mem := putRowStack key t.mem a (blend r.row data mask) mask }, status := stOk,
        charge := r.charge, cause := r.cause, needs := none }
    else { st := t, status := r.status, charge := r.charge, cause := r.cause, needs := r.needs }
  else
    { st := { s with mem := putRowStack key s.mem a (blend (stackRow s key a) data mask) mask },
      status := stOk, charge := 0, cause := 0, needs := none }

/-- A bank writes a row, merging partial words as one atomic access (R19, R250). -/
def writeMereRow (env : Env) (a : Nat) (data mask : BitVec 512) (merged : Bool) (s : State) : RowWrite :=
  if !merged && partly mask 32 then
    let r := readMereRow env a 1 true s
    if r.status = stOk then
      { st := { r.st with mem := putRowMere r.st.mem a (blend r.row data mask) mask }, status := stOk,
        charge := r.charge, cause := r.cause, needs := none }
    else { st := r.st, status := r.status, charge := r.charge, cause := r.cause, needs := r.needs }
  else
    { st := { s with mem := putRowMere s.mem a (blend (mereRow s.mem a) data mask) mask }, status := stOk,
      charge := 0, cause := 0, needs := none }

/-! The host aperture (R272). -/

/-- The host's answer for a byte; a byte it does not give is undefined. -/
def hostByte (env : Env) (free : BitVec 512) (a : Nat) : Byte :=
  match env.host.find? fun c => c.1 == a with
  | some c => c.2
  | none => BitVec.ofNat 8 (fld free.toNat (8 * (a % 64)) 8)

def hostRow (env : Env) (s : State) (a : Nat) : BitVec 512 :=
  toRow ((List.range 64).map fun i => hostByte env (freeVal 512 s) (a + i))

def hostErrs (env : Env) (a : Nat) : Bool := env.hostErr.any fun e => decide (a ≤ e ∧ e < a + 64)

def putHost (m : MemSys) (a : Nat) (row mask : BitVec 512) : MemSys :=
  { m with hostOut := (rowBytes row mask).foldl (fun c e => cellPut c (a + e.1) e.2) m.hostOut }

/-! Direct reads, for units that read memory inside their own step: ring fetch, walker, queue slots. -/

/-- Where a mapped or Mere row is. -/
inductive RowAt where
  | stack (pa key : Nat)
  /-- A Mere address, and the quarter whose crossbar segment the access comes through. -/
  | mere (a q : Nat)
  /-- A host address, and the quarter whose mover or unit makes the access. -/
  | host (a q : Nat)
deriving DecidableEq, Repr

def rowAtPa (q pa key : Nat) : RowAt := if hostBase ≤ pa then .host (pa - hostBase) q else .stack pa key

/-- The event of points 0x0020 and 0x0021: a response of the host aperture to a quarter (R503). -/
def hostEvent (pt q : Nat) (s : State) : State := injEvent [pt] q 1 (islQuarter q) s

/-- The host answers the access with an error, by itself or by the injection point. -/
def hostFails (env : Env) (pt q a : Nat) (s : State) : Bool := (injFires s [pt] q).isSome || hostErrs env a

def hostNeeds (pt q : Nat) (s : State) : Option Nat := injNeeds [pt] q 1 (islQuarter q) s

/-- The bank's pointer moves on for an access made within a unit's own step, as for a request (R18). -/
def turnBank (a q : Nat) (s : State) : State := { s with mem := { s.mem with bankRr := Tbl.put s.mem.bankRr (bankOf a) q } }

/-- A stack controller takes a new access: no PHY update is under way and no change of pin rate is waited for (R50, R102). -/
def stackOpen (s : State) (k : Nat) : Bool := !(stackAt s k).updating && (stackAt s k).switching.isNone

/-- An access by a unit of quarter `q` can be made now: the controller takes it, and the quarters it crosses are joined
(R50, R71, R102). -/
def rowOpen (s : State) (q : Nat) : RowAt → Bool
  | .stack pa _ => stackOpen s (pa / stackSpan) && crossOpen s q (pa / stackSpan / 6)
  | .mere a _ => crossOpen s q (mereQuarter a)
  | .host _ _ => true

def readRowAt (env : Env) (l : RowAt) (reader : Nat) (s : State) : RowRead :=
  match l with
  | .stack pa key => readStackRow env (pa / stackSpan) pa (material s key) reader s
  | .mere a q => readMereRow env a reader true (turnBank a q s)
  | .host a q =>
    let t := hostEvent 0x20 q s
    if hostFails env 0x20 q a s then { st := t, status := stBusRead, row := 0, charge := 0, cause := 0, needs := hostNeeds 0x20 q s }
    else { st := freeNext t, status := stOk, row := hostRow env t a, charge := 0, cause := 0, needs := none }

def writeRowAt (env : Env) (l : RowAt) (data mask : BitVec 512) (s : State) : RowWrite :=
  match l with
  | .stack pa key => writeStackRow env (pa / stackSpan) pa (material s key) data mask false s
  | .mere a q => writeMereRow env a data mask false (turnBank a q s)
  | .host a q =>
    let t := hostEvent 0x21 q s
    if hostFails env 0x21 q a s then { st := t, status := stBusWrite, charge := 0, cause := 0, needs := hostNeeds 0x21 q s }
    else { st := { t with mem := putHost t.mem a data mask }, status := stOk, charge := 0, cause := 0, needs := none }

end Sys2Proof.Machine
end

