-- ==== Sys2Proof/Machine/Power.lean ====
section
/-! DEFINITION. Cooling profiles, throttling, thermal actions and the margin plan
(16_power_ageing_limits.md). -/

namespace Sys2Proof.Machine

/-! Profiles (R504). -/

def profileCap (p : Nat) : Nat := if p = 0 then 170 else 260
def profileRate (p : Nat) : Nat := if p = 0 then 1 else 2
def throttleTemp (p : Nat) : Int := if p = 1 then 95 else if p = 2 then 92 else 90
def tripTemp (p : Nat) : Int := if p = 1 then 110 else if p = 2 then 108 else 105
def ceilingSteps (p : Nat) : Nat := if p = 1 then 10 else if p = 2 then 8 else 5
def shutdownTemp : Int := 125

/-- The profile of a strap; 0b11 is treated as AIR (R73). -/
def strapProfile (cool : BitVec 2) : Nat := if cool = 3 then 0 else cool.toNat

/-- The pin rate a stack runs at in S5 (R102, R517). -/
def fullRate (s : State) (k : Nat) : Nat :=
  profileRate s.power.profile - b2n (planOf s (islStack k)).downLocked

/-! Drift (R514). -/

def Frac.zero : Frac := { num := 0, den := 1 }
def Frac.lt (a b : Frac) : Bool := decide (a.num * b.den < b.num * a.den)

/-- Monitors of an island. -/
def monitorsOf (i : Nat) : List Nat :=
  if i < 0x60 then [i / 24 * 64 + i % 24]
  else if i < 0x80 then [(i - 0x60) / 8 * 64 + 24 + i % 8]
  else if i < 0xA0 then [(i - 0x80) / 8 * 64 + 32 + i % 8]
  else if i < 0xB8 then [(i - 0xA0) / 6 * 64 + 40 + (i - 0xA0) % 6]
  else if i < 0xBC then (List.range 5).map fun k => (i - 0xB8) * 64 + 54 + k
  else if i < 0xC0 then (List.range 5).map fun k => (i - 0xBC) * 64 + 59 + k
  else if i < 0xE0 then [(i - 0xC0) / 8 * 64 + 46 + i % 8]
  else []

/-- A monitor's drift; a monitor without a reading or a baseline shows none. -/
def monitorDrift (s : State) (m : Nat) : Frac :=
  match Tbl.get? s.power.mons m, Tbl.get? s.fuses.d0 m with
  | some d, some d0 => if d0 = 0 then Frac.zero else { num := (d : Int) - d0, den := d0 }
  | _, _ => Frac.zero

def oscDrift (s : State) (i : Nat) : Frac :=
  match Tbl.get? s.power.oscs i, Tbl.get? s.fuses.f0 i with
  | some f, some f0 => if f = 0 then Frac.zero else { num := (f0 : Int) - f, den := f }
  | _, _ => Frac.zero

/-- A drift raised by 0.005. -/
def Frac.pastThreshold (a : Frac) : Frac := { num := 1000 * a.num + 5 * a.den, den := 1000 * a.den }

def driftAtPlan (s : State) (m : Nat) : Frac := Tbl.getD s.power.monPlan m Frac.zero

/-- A monitor as the next plan reads it (R521). -/
def plannedDrift (s : State) (m : Nat) : Frac :=
  if s.power.driftInj.contains m then (driftAtPlan s m).pastThreshold else monitorDrift s m

/-- The largest drift of an island, never below 0, with the monitor that shows it; none for the oscillator. -/
def worstOf (read : Nat → Frac) (osc : Frac) (i : Nat) : Frac × Option Nat :=
  (monitorsOf i).foldl (fun b m => if b.1.lt (read m) then (read m, some m) else b)
    (if Frac.zero.lt osc then osc else Frac.zero, none)

/-- Drift of an island now, and its monitor (R519). -/
def driftNow (s : State) (i : Nat) : Frac × Option Nat := worstOf (monitorDrift s) (oscDrift s i) i

/-- A drift in units of 0.001 %. -/
def Frac.milli (a : Frac) : Nat := (a.num * 100000 / a.den).toNat

/-! The plan (R516, R517). -/

structure PlanOut where
  steps : Nat
  bin : Nat
  ceiling : Bool
  down : Bool
deriving DecidableEq, Repr

def isStackIsland (i : Nat) : Bool := decide (0xA0 ≤ i ∧ i < 0xB8)

/-- `plan_island` of R516; `slow` says that a stack already runs at 3.2 Gb/s. -/
def planIsland (d : Frac) (limit i : Nat) (slow : Bool) : PlanOut :=
  let n := d.num.toNat * 250
  let steps := min (ceilDiv n d.den) limit
  let x := n - steps * d.den
  if x = 0 then { steps := steps, bin := 0, ceiling := false, down := false }
  else if hasBins i then
    { steps := steps, bin := min (ceilDiv (4 * x) (25 * d.den)) 7, ceiling := decide (175 * d.den < 4 * x),
      down := false }
  else if isStackIsland i then { steps := steps, bin := 0, ceiling := slow, down := !slow }
  else { steps := steps, bin := 0, ceiling := true, down := false }

/-- A plan before S5 sets offsets and bins; a plan in service only raises them (R517). -/
def applyPlan (service : Bool) (old : IslandPlan) (p : PlanOut) (d : Frac) : IslandPlan :=
  if service then
    let target := max old.target p.steps
    let bin := max old.binTarget p.bin
    { old with target := target, binTarget := bin, bin := if old.offset = target then bin else old.bin,
               ceiling := p.ceiling, stackDown := p.down, drift := d }
  else
    { offset := p.steps, target := p.steps, bin := p.bin, binTarget := p.bin, locked := p.bin, ceiling := p.ceiling,
      stackDown := p.down, downLocked := p.down, drift := d }

def islandCount : Nat := 225

def newPlans (s : State) : List (Nat × IslandPlan) :=
  (List.range islandCount).map fun i =>
    let d := (worstOf (plannedDrift s) (oscDrift s i) i).1
    let slow := decide (s.bring.stage = 5) && (stackAt s (i - 0xA0)).state == 1 && (stackAt s (i - 0xA0)).rate == 0
    (i, applyPlan (decide (s.bring.stage = 5)) (planOf s i)
      (planIsland d (ceilingSteps s.power.profile) i slow) d)

/-- RAISED, BINNED, AT_CEILING and STACKS_DOWN of a plan (R518). -/
def planCounts (s : State) (l : List (Nat × IslandPlan)) : List Nat :=
  [(l.filter fun e => decide ((planOf s e.1).target < e.2.target)).length,
    (l.filter fun e => decide (0 < e.2.binTarget)).length,
    (l.filter fun e => e.2.ceiling).length,
    (l.filter fun e => e.2.stackDown).length]

def worstIsland (l : List (Nat × IslandPlan)) : Nat × Frac :=
  l.foldl (fun b e => if b.2.lt e.2.drift then (e.1, e.2.drift) else b) (0, Frac.zero)

/-- MARGIN_REPLAN (R518). -/
def planRec (s : State) (trigger : Nat) (l : List (Nat × IslandPlan)) : PeatRec :=
  let c := planCounts s l
  let w := worstIsland l
  mkRec s 0x0A0 3 islMgmt [s.power.plan + 1]
    [pack [(27, min s.power.hours 0x7FFFFFF), (2, s.power.profile), (3, trigger), (32, s.power.plan + 1)],
      pack [(16, min w.2.milli 0xFFFF), (8, 0), (8, w.1), (8, c.getD 3 0), (8, c.getD 2 0), (8, c.getD 1 0),
        (8, c.getD 0 0)]]

/-- Hexob makes a margin plan: 0 BOOT, 1 HOURS, 2 DRIFT, 3 COMMAND (R515). -/
def makePlan (trigger : Nat) (s : State) : State :=
  let l := newPlans s
  setCause 7 1 (offer none (planRec s trigger l)
    { s with power := { s.power with
        plans := l.filter fun e => e.2 != IslandPlan.reset
        plan := s.power.plan + 1
        planCounts := planCounts s l
        monPlan := ((List.range 256).map fun m => (m, plannedDrift s m)).filter fun e => e.2 != Frac.zero
        driftInj := [] } })

/-- Every offset of the plan in force has been reached (R520). -/
def planDone (s : State) : Bool := s.power.plans.all fun e => e.2.offset == e.2.target && e.2.bin == e.2.binTarget

/-! Thermal records (R512). -/

def thermalRec (s : State) (level island reason unit : Nat) (temp limit : Int) : PeatRec :=
  mkRec s 0x0A1 level island [reason, unit]
    [pack [(29, 0), (2, s.power.profile), (5, throttleOf s), (8, ofSigned 8 limit), (8, ofSigned 8 temp), (8, unit),
      (4, reason)]]

/-- A THERMAL_LIMIT record with its cause (R511). -/
def thermal (reason unit : Nat) (temp limit : Int) (s : State) : State :=
  setCause 7 0 (offer none (thermalRec s 3 islMgmt reason unit temp limit) s)

/-! Power estimate and throttling (R507 to R509). -/

/-- Bookkeeping of a new T (R509, R513). -/
def noteThrottle (before : Nat) (s : State) : State :=
  let t := throttleOf s
  let s1 := { s with power := { s.power with
    t := t, tMax := max s.power.tMax t
    episodes := if before = 0 && t != 0 then s.power.episodes + 1 else s.power.episodes } }
  if before = 0 && t != 0 then setCause 7 2 s1 else s1

/-- T_P after an update: it rises while P1 is above the cap and falls below 0.92 of it (R509). -/
def powerDemand (tP p1 cap : Nat) : Nat :=
  if cap < p1 then min 16 (tP + max 1 (ceilDiv (16 * (p1 - cap)) cap))
  else if 100 * p1 < 92 * cap then tP - 1
  else tP

def estimate (r : PowerReading) (s : State) : State :=
  noteThrottle (throttleOf s)
    { s with power := { s.power with
        p1 := r.p1, p1Max := max s.power.p1Max r.p1, powerW := r.avg10, classes := r.classes
        throttleUs := s.power.throttleUs + (if 0 < throttleOf s then 100 else 0)
        fullUs := s.power.fullUs + (if throttleOf s = 16 then 100 else 0)
        tP := powerDemand s.power.tP r.p1 s.power.capW } }

/-- POWER_ESTIMATE, every 100 µs once Hexob runs (R507). -/
def execPowerEstimate (r : PowerReading) (s : State) : Host.Outcome State Fault Refusal :=
  .next (if blockUp s && s.bring.hexob then estimate r s else s)

/-! Ageing (R515 to R517). -/

def noteReading (p : Power) : MonReading → Power
  | .monitor m d => { p with mons := Tbl.put p.mons (m % 256) d }
  | .oscillator i f => { p with oscs := Tbl.put p.oscs i f }

/-- Some monitor exceeds its drift at the last plan by 0.005, or is made to (R515, R521). -/
def drifted (s : State) : Bool :=
  !s.power.driftInj.isEmpty || s.power.mons.any fun e => (driftAtPlan s e.1).pastThreshold.lt (monitorDrift s e.1)

/-- The sensors show new readings; Hexob, once it runs, makes a plan where they have drifted. -/
def readMonitors (readings : List MonReading) (s : State) : State :=
  let s1 := { s with power := readings.foldl noteReading s.power }
  if s.bring.hexob && drifted s1 then makePlan 2 s1 else s1

/-- MONITOR_READ, every 10 ms (R515). Before Hexob starts, the readings are what the plan of S2 will find (R93).
DESIGN CHOICE (log entry 81). -/
def execMonitorRead (readings : List MonReading) (s : State) : Host.Outcome State Fault Refusal :=
  .next (if blockUp s then readMonitors readings s else s)

/-- OPERATING_HOURS: 1,000 further hours since Boardwalk opened (R515). -/
def execOperatingHours (s : State) : Host.Outcome State Fault Refusal :=
  .next (if inService s then makePlan 1 { s with power := { s.power with hours := s.power.hours + 1000 } } else s)

def stepOffset (p : IslandPlan) : IslandPlan :=
  if p.offset + 1 < p.target then { p with offset := p.offset + 1 }
  else { p with offset := p.target, bin := p.binTarget }

def raiseOffset (i : Nat) (s : State) : State :=
  { s with power := { s.power with plans := Tbl.upd s.power.plans i stepOffset } }

/-- PLAN, RAISED, BINNED, AT_CEILING and STACKS_DOWN (R520). -/
def planResult (s : State) : Nat := pack ((32, s.power.plan) :: s.power.planCounts.map fun c => (8, c))

/-- Every MARGIN_REPLAN that waits ends once its plan has taken effect. -/
def finishReplan (s : State) : State :=
  if planDone s then
    finishWhere (fun w => match w with | .replan r => some (8, r) | _ => none) s
  else s

/-- OFFSET_STEP: in service an offset rises by one step toward the plan (R517). -/
def execOffsetStep (i : Fin 225) (s : State) : Host.Outcome State Fault Refusal :=
  .next (if blockUp s && s.bring.stage == 5 && (planOf s i).offset < (planOf s i).target then
    finishReplan (raiseOffset i s) else s)

/-! Commands. -/

/-- Stacks in service that do not run at their full rate wait for a pin-rate switch (R101, R102). -/
def askSwitch (s : State) : State :=
  { s with stackTbl := s.stackTbl.mapV fun k x => if x.state == 1 && x.rate != fullRate s k then { x with switching := some s.mem.nextReq } else x }

def coolFlds (s : State) (_ : Nat) : List (Nat → List Fld) :=
  [fun _ => [chkB 1 16 16 fun b v =>
      if v = 0 then .ok else clampIn 150 (profileCap (fld b 0 2)) v,
    rsvd 2 2 14,
    chk 3 0 2 fun v => refuseUnless
      (decide (v ≠ 3 ∧ (v = 0 ∨ v = strapProfile s.straps.cool)) && (!s.power.confirmed || v == s.power.profile))]]

def confirmCool (c : Cmd) (s : State) : State × Reply :=
  let p := fld c.body 0 2
  let w := if fld c.body 16 16 = 0 then profileCap p else fld c.body 16 16
  let s1 := { s with power := { s.power with profile := p, capW := w, confirmed := true } }
  let s2 := if s1.bring.stage = 5 then askSwitch { s1 with power := { s1.power with pinRate := profileRate p } } else s1
  (s2, okWith 8 (pack [(16, w), (8, p)]))

def specCoolConfirm : CmdSpec :=
  { op := 0x0901, hw := false, sel := fun _ => true, flds := coolFlds, act := confirmCool }

/-- COOL_CONFIRM (R505, R506). -/
def execCoolConfirm (m : Fin 8) (s : State) : Host.Outcome State Fault Refusal := .next (runCmd specCoolConfirm m s)

/-- The 64-byte result of POWER_QUERY (R513). -/
def powerResult (p : Power) (t : Nat) : Nat :=
  pack ([(16, p.powerW), (16, p.p1), (16, p.p1Max), (16, p.capW), (8, t), (8, p.tP), (8, p.tT), (8, p.tMax),
    (8, p.hot), (8, ofSigned 8 p.hotTemp), (8, ofSigned 8 p.tempMax), (8, 0), (64, p.throttleUs), (64, p.episodes)] ++
    ((List.range 8).map fun i => (16, p.classes.getD i 0)) ++ [(64, p.fullUs)])

def specPowerQuery : CmdSpec :=
  { op := 0x0902, hw := false, sel := fun _ => true, flds := fun _ _ => [],
    act := fun _ s => (s, okWith 64 (powerResult s.power (throttleOf s))) }

/-- POWER_QUERY (R513). -/
def execPowerQuery (m : Fin 8) (s : State) : Host.Outcome State Fault Refusal := .next (runCmd specPowerQuery m s)

/-- Effective clock of an island before throttling, in MHz (R519). -/
def effectiveMhz (s : State) (i : Nat) : Nat := plannedClock s i / 2

def marginResult (s : State) (i : Nat) : Nat :=
  let p := planOf s i
  let d := driftNow s i
  pack [(8, p.offset), (8, p.bin), (8, p.locked), (1, b2n p.ceiling), (1, b2n p.stackDown), (6, 0),
    (16, effectiveMhz s i), (8, ofSigned 8 (Tbl.getD s.power.temps i 0)), (8, 0), (32, d.1.milli),
    (32, p.drift.milli), (32, d.2.getD 0xFFFFFFFF), (32, s.power.plan), (32, s.power.hours), (32, 0)]

def specMarginQuery : CmdSpec :=
  { op := 0x0903, hw := false, sel := fun _ => true,
    flds := fun _ _ => [fun _ => [rsvd 1 8 8, chk 2 0 8 fun v => refuseUnless (decide (v < islandCount))]],
    act := fun c s => (s, okWith 32 (marginResult s (fld c.body 0 8))) }

/-- MARGIN_QUERY (R519). -/
def execMarginQuery (m : Fin 8) (s : State) : Host.Outcome State Fault Refusal := .next (runCmd specMarginQuery m s)

def replan (_ : Cmd) (s : State) : State × Reply :=
  let t := makePlan 3 s
  (t, if planDone t then okWith 8 (planResult t) else .wait (.replan (planResult t)))

def specMarginReplan : CmdSpec :=
  { op := 0x0904, hw := false, sel := fun _ => true, flds := fun _ _ => [], act := replan }

/-- MARGIN_REPLAN (R520). -/
def execMarginReplan (m : Fin 8) (s : State) : Host.Outcome State Fault Refusal := .next (runCmd specMarginReplan m s)

end Sys2Proof.Machine
end

