-- ==== Sys2Proof/Machine/Numbers.lean ====
section
/-! DEFINITION. Element types and casts (R185, R200, R201, R208): a number is an exact dyadic, rounded once. -/

namespace Sys2Proof.Machine

/-- A value of any element type: NaN, an infinity, or ± m × 2 ^ e. -/
inductive Num where
  | nan
  | inf (neg : Bool)
  | fin (neg : Bool) (m : Nat) (e : Int)
deriving DecidableEq, Repr

/-- The rounding of a cast (R200), and the ties-away rounding of R355. -/
inductive Round where
  | nearest
  | nearestSat
  | truncSat
  | away
deriving DecidableEq, Repr

def roundOf (mode : Nat) : Round := if mode = 0 then .nearest else if mode = 1 then .nearestSat else .truncSat

/-- A floating-point format: fraction and exponent bits, bias, largest finite code, and what lies above it. -/
structure Fp where
  mb : Nat
  eb : Nat
  bias : Nat
  maxCode : Nat
  infCode : Option Nat
  nanCode : Option Nat
deriving DecidableEq, Repr

def fp32 : Fp := { mb := 23, eb := 8, bias := 127, maxCode := 0x7F7FFFFF, infCode := some 0x7F800000, nanCode := some 0x7FC00000 }
def bf16 : Fp := { mb := 7, eb := 8, bias := 127, maxCode := 0x7F7F, infCode := some 0x7F80, nanCode := some 0x7FC0 }
def fp16 : Fp := { mb := 10, eb := 5, bias := 15, maxCode := 0x7BFF, infCode := some 0x7C00, nanCode := some 0x7E00 }
def e4m3 : Fp := { mb := 3, eb := 4, bias := 7, maxCode := 0x7E, infCode := none, nanCode := some 0x7F }
def e5m2 : Fp := { mb := 2, eb := 5, bias := 15, maxCode := 0x7B, infCode := some 0x7C, nanCode := some 0x7E }
def e2m1 : Fp := { mb := 1, eb := 2, bias := 1, maxCode := 0x7, infCode := none, nanCode := none }

/-- The float format of a type code, if it is one (R185). -/
def fpOf (t : Nat) : Option Fp :=
  if t = 0 then some fp32 else if t = 1 then some bf16 else if t = 2 then some fp16 else if t = 3 then some e4m3
  else if t = 4 then some e5m2 else if t = 9 then some e2m1 else none

/-- Size of a type in bits; 0 for a reserved code (R185). -/
def typeBits (t : Nat) : Nat := [32, 16, 16, 8, 8, 8, 8, 4, 4, 4, 32, 16].getD t 0

/-- An integer type is signed unless it is UINT8 or UINT4. -/
def typeSigned (t : Nat) : Bool := t != 6 && t != 8

def Fp.width (f : Fp) : Nat := 1 + f.eb + f.mb

/-- The value of a float code. -/
def Fp.read (f : Fp) (x : Nat) : Num :=
  let neg := fld x (f.width - 1) 1 == 1
  let code := fld x 0 (f.width - 1)
  let ex := fld x f.mb f.eb
  let man := fld x 0 f.mb
  if code ≤ f.maxCode then
    (if ex = 0 then .fin neg man (1 - (f.bias : Int) - f.mb)
    else .fin neg (man + 2 ^ f.mb) ((ex : Int) - f.bias - f.mb))
  else if f.infCode = some code then .inf neg
  else .nan

/-- `m` ÷ 2 ^ k, rounded. -/
def roundShift (r : Round) (m k : Nat) : Nat :=
  let q := m / 2 ^ k
  let rem := m % 2 ^ k
  match r with
  | .truncSat => q
  | .away => if 2 ^ k ≤ 2 * rem then q + 1 else q
  | _ => if 2 ^ k < 2 * rem || (2 ^ k == 2 * rem && q % 2 == 1) then q + 1 else q

/-- `m × 2 ^ e` as a multiple of `2 ^ q`, rounded. -/
def roundAt (r : Round) (m : Nat) (e q : Int) : Nat :=
  if q ≤ e then m * 2 ^ (e - q).toNat else roundShift r m (q - e).toNat

def withSign (f : Fp) (neg : Bool) (code : Nat) : Nat := code + (b2n neg <<< (f.width - 1))

/-- The code of a magnitude, the exponent range taken as unbounded above. -/
def Fp.code (f : Fp) (r : Round) (m : Nat) (e : Int) : Nat :=
  let emin : Int := 1 - f.bias
  let top := max ((Nat.log2 m : Int) + e) emin
  let q := roundAt r m e (top - f.mb)
  if q < 2 ^ f.mb then q else ((top - emin + 1).toNat <<< f.mb) + (q - 2 ^ f.mb)

/-- What lies above the largest finite value (R200, R201). -/
def Fp.overflow (f : Fp) (r : Round) (neg : Bool) : Nat :=
  match r with
  | .nearest =>
    match f.infCode, f.nanCode with
    | some c, _ => withSign f neg c
    | none, some c => c
    | none, none => withSign f neg f.maxCode
  | _ => withSign f neg f.maxCode

/-- A number as a code of a float type (R200, R201). -/
def Fp.write (f : Fp) (r : Round) : Num → Nat
  | .nan => f.nanCode.getD 0
  | .inf neg => f.overflow r neg
  | .fin neg m e =>
    if m = 0 then withSign f neg 0
    else if f.code r m e ≤ f.maxCode then withSign f neg (f.code r m e)
    else f.overflow r neg

/-- Bounds of an integer type. -/
def intMin (t : Nat) : Int := if typeSigned t then -(2 ^ (typeBits t - 1) : Nat) else 0
def intMax (t : Nat) : Int := if typeSigned t then (2 ^ (typeBits t - 1) : Nat) - 1 else (2 ^ typeBits t : Nat) - 1

def saturate (t : Nat) (v : Int) : Nat := ofSigned (typeBits t) (max (intMin t) (min v (intMax t)))

/-- A number as a code of an integer type (R200, R201). -/
def intWrite (t : Nat) (r : Round) : Num → Nat
  | .nan => 0
  | .inf neg => saturate t (if neg then intMin t else intMax t)
  | .fin neg m e =>
    let a := (roundAt r m e 0 : Nat)
    saturate t (if neg then -(a : Int) else a)

def numOfInt (v : Int) : Num := .fin (decide (v < 0)) v.natAbs 0

/-- The value of an element. -/
def readNum (t x : Nat) : Num :=
  match fpOf t with
  | some f => f.read x
  | none => numOfInt (if typeSigned t then toSigned (typeBits t) x else (fld x 0 (typeBits t) : Nat))

def writeNum (t : Nat) (r : Round) (v : Num) : Nat :=
  match fpOf t with
  | some f => f.write r v
  | none => intWrite t r v

/-- A cast takes place whenever the types differ (R200). -/
def castElem (src dst mode x : Nat) : Nat :=
  if src = dst then fld x 0 (typeBits dst) else writeNum dst (roundOf mode) (readNum src x)

/-- Exact negation, product and sum. -/
def Num.neg : Num → Num
  | .nan => .nan
  | .inf n => .inf (!n)
  | .fin n m e => .fin (!n) m e

def Num.isNan : Num → Bool
  | .nan => true
  | _ => false

/-- A signed multiple of `2 ^ e`. -/
def dyadic (v e : Int) : Num := .fin (decide (v < 0)) v.natAbs e

def signedM (neg : Bool) (m : Nat) : Int := if neg then -(m : Int) else m

/-- Exact sum; a zero sum of numbers of both signs is +0, as IEEE 754 rounds to nearest (PRESUMED). -/
def Num.add : Num → Num → Num
  | .nan, _ => .nan
  | _, .nan => .nan
  | .inf a, .inf b => if a = b then .inf a else .nan
  | .inf a, .fin _ _ _ => .inf a
  | .fin _ _ _, .inf b => .inf b
  | .fin a m e, .fin b n f =>
    let g := min e f
    let v := signedM a m * (2 ^ (e - g).toNat : Nat) + signedM b n * (2 ^ (f - g).toNat : Nat)
    if v = 0 then .fin (a && b && m == 0 && n == 0) 0 g else dyadic v g

/-- Exact product. -/
def Num.mul : Num → Num → Num
  | .nan, _ => .nan
  | _, .nan => .nan
  | .inf a, .inf b => .inf (a != b)
  | .inf a, .fin b m _ => if m = 0 then .nan else .inf (a != b)
  | .fin a m _, .inf b => if m = 0 then .nan else .inf (a != b)
  | .fin a m e, .fin b n f => .fin (a != b) (m * n) (e + f)

/-- Magnitude order of finite numbers, for maxima (R356). -/
def Num.absLt : Num → Num → Bool
  | .fin _ m e, .fin _ n f =>
    let g := min e f
    decide (m * 2 ^ (e - g).toNat < n * 2 ^ (f - g).toNat)
  | .fin _ _ _, .inf _ => true
  | _, _ => false

/-- The sum of an ACCUMULATE write (R208): INT32 saturates, a float sum is rounded by CAST_MODE. -/
def accumulate (t mode old new : Nat) : Nat := writeNum t (roundOf mode) ((readNum t old).add (readNum t new))

/-! CRC-32C (R236). -/

def crcBit (c : Nat) : Nat := if c % 2 = 1 then (c / 2) ^^^ 0x82F63B78 else c / 2

def crcByte (c : Nat) (b : Byte) : Nat :=
  crcBit (crcBit (crcBit (crcBit (crcBit (crcBit (crcBit (crcBit (c ^^^ b.toNat))))))))

/-- The running remainder over further bytes. -/
def crcRun (c : Word32) (l : List Byte) : Word32 := BitVec.ofNat 32 (l.foldl crcByte c.toNat)

def crcStart : Word32 := 0xFFFFFFFF
def crcFinal (c : Word32) : Word32 := c ^^^ 0xFFFFFFFF

/-- CRC-32C of a list of bytes. -/
def crc32c (l : List Byte) : Word32 := crcFinal (crcRun crcStart l)

end Sys2Proof.Machine
end

