-- ==== Sys2Proof/Machine/Operands.lean ====
section
/-! DEFINITION. Tensor descriptors: their granules, their validation, and the element at each point of the canonical
order (06_tensor_descriptors.md, R181 to R210). -/

namespace Sys2Proof.Machine

/-! Spaces (R183). -/

def spVa : Nat := 0
def spMere : Nat := 1
def spWindow : Nat := 2
def spCore : Nat := 3

/-- Bits of an address field that a space uses. -/
def spaceWidth (sp : Nat) : Nat := [48, 28, 62, 12].getD sp 0

/-- First byte address beyond a space (R191). -/
def spaceEnd (sp : Nat) : Nat := [2 ^ 48, 2 ^ 28, 2 ^ 40].getD sp 0

/-- Where an address field points within its space. -/
def spaceBase (sp addr : Nat) : Nat := if sp = 2 then fld addr 0 40 else addr

/-! Granules (R182, R187, R189). -/

def readDim (g : BitVec 256) : Dim :=
  let x := g.toNat
  { extent := fld x 0 32, start := toSigned 32 (fld x 32 32), srcStride := toSigned 40 (fld x 64 40),
    dstStride := toSigned 40 (fld x 104 40), padBefore := fld x 144 16, padAfter := fld x 160 16,
    reserved := fld x 176 16, srcLimit := fld x 192 32, dstLimit := fld x 224 32 }

def readGather (g : BitVec 256) : GatherG :=
  let x := g.toNat
  { addr := fld x 0 64, dim := fld x 64 3, scatter := fld x 67 1 == 1, typ := fld x 68 1, space := fld x 69 1,
    block := fld x 72 12 + 1, reserved := fld x 70 2 + fld x 84 172 * 4 }

def noGather : GatherG :=
  { block := 1, space := 0, typ := 0, scatter := false, dim := 0, addr := 0, reserved := 0 }

def granule (body : List (BitVec 256)) (i : Nat) : BitVec 256 := body.getD i 0

/-- A descriptor from the granules after its header (R181). -/
def readDesc (op : Nat) (body : List (BitVec 256)) : Desc :=
  let x := (granule body 0).toNat
  let nd := fld x 136 3
  let gather := fld x 143 1 == 1
  { op := op, srcAddr := fld x 0 64, dstAddr := fld x 64 64, srcType := fld x 128 4, dstType := fld x 132 4,
    ndims := nd, transpose := fld x 139 1 == 1, padSkip := fld x 140 1 == 1, mode := fld x 141 2, gather := gather,
    srcSpace := fld x 144 2, dstSpace := fld x 146 2, cast := fld x 148 2, slack := fld x 150 10,
    fill := fld x 192 32, reserved := fld x 160 32 + fld x 224 32 * 2 ^ 32,
    dims := (List.range nd).map fun i => readDim (granule body (1 + i)),
    g := if gather then readGather (granule body (1 + nd)) else noGather,
    ext := granule body (1 + nd + b2n gather), ordered := false }

/-- Opcodes with an extension granule. -/
def hasExt (op : Nat) : Bool := op == 2 || op == 3

/-- Granules an entry needs, its header included (R181). -/
def needGranules (d : Desc) : Nat := 2 + d.ndims + b2n d.gather + b2n (hasExt d.op)

/-! Geometry (R192, R193, R206). -/

def limit (x : Nat) : Nat := if x = 0 then 2 ^ 32 else x

/-- TRANSPOSE01 exchanges dimensions 0 and 1. -/
def permOf (d : Desc) (k : Nat) : Nat := if d.transpose && k < 2 then 1 - k else k

def noDim : Dim :=
  { extent := 1, start := 0, srcStride := 0, dstStride := 0, padBefore := 0, padAfter := 0, srcLimit := 0,
    dstLimit := 0, reserved := 0 }

def dimAt (d : Desc) (k : Nat) : Dim := d.dims.getD k noDim

/-- Interior extent of destination dimension `k`. -/
def inner (d : Desc) (k : Nat) : Nat := (dimAt d (permOf d k)).extent

/-- Points of destination dimension `k`, pads included. -/
def points (d : Desc) (k : Nat) : Nat := (dimAt d k).padBefore + inner d k + (dimAt d k).padAfter

/-- Written extent (R206). -/
def written (d : Desc) (k : Nat) : Nat := if d.padSkip || d.mode == 2 then inner d k else points d k

def dimsOf (d : Desc) : List Nat := List.range d.ndims

/-- Points of the canonical order. -/
def total (d : Desc) : Nat := ((dimsOf d).map (points d)).foldl (· * ·) 1

/-- Coordinates of the `n`-th point, dimension 0 first. -/
def coordsFrom (d : Desc) : List Nat → Nat → List Nat
  | [], _ => []
  | k :: ks, n => n % points d k :: coordsFrom d ks (n / points d k)

def coords (d : Desc) (n : Nat) : List Nat := coordsFrom d (dimsOf d) n

def isScatter (d : Desc) : Bool := d.gather && d.g.scatter
def isGather (d : Desc) : Bool := d.gather && !d.g.scatter

def isInner (d : Desc) (u : List Nat) : Bool :=
  (dimsOf d).all fun k => decide ((dimAt d k).padBefore ≤ u.getD k 0 ∧ u.getD k 0 < (dimAt d k).padBefore + inner d k)

/-- A point of the canonical order as R193 treats it. `src` is the element offset read, none for FILL; `dst` the
element offset written, none where nothing is written; `raw` the destination offset before pads and limits drop it. -/
structure Elem where
  n : Nat
  src : Option Int
  dst : Option Int
  dropped : Bool
  raw : Int
deriving DecidableEq, Repr

/-- The index that a point needs (R193, R203). -/
def indexOf (d : Desc) (n : Nat) : Option Nat :=
  let u := coords d n
  let g := d.g.dim
  if !d.gather then none
  else if isInner d u then some ((u.getD g 0 - (dimAt d g).padBefore) / d.g.block)
  else if d.padSkip || d.mode == 2 then none
  else if d.g.scatter then some (u.getD g 0 / d.g.block)
  else none

/-- Source coordinate of dimension `permOf d k`. -/
def srcCoord (d : Desc) (ix : Nat → Nat) (u : List Nat) (k : Nat) : Int :=
  let i := u.getD k 0 - (dimAt d k).padBefore
  let p := permOf d k
  if isGather d && p == d.g.dim then (dimAt d p).start + (ix (i / d.g.block) * d.g.block + i % d.g.block : Nat)
  else (dimAt d p).start + (i : Nat)

def srcInside (d : Desc) (ix : Nat → Nat) (u : List Nat) : Bool :=
  (dimsOf d).all fun k =>
    decide (0 ≤ srcCoord d ix u k ∧ srcCoord d ix u k < (limit (dimAt d (permOf d k)).srcLimit : Nat))

def srcOffset (d : Desc) (ix : Nat → Nat) (u : List Nat) : Int :=
  ((dimsOf d).map fun k => srcCoord d ix u k * (dimAt d (permOf d k)).srcStride).sum

/-- Destination coordinate of dimension `k`. -/
def dstCoord (d : Desc) (ix : Nat → Nat) (u : List Nat) (k : Nat) : Nat :=
  if isScatter d && k == d.g.dim then ix (u.getD k 0 / d.g.block) * d.g.block + u.getD k 0 % d.g.block
  else u.getD k 0

def dstInside (d : Desc) (ix : Nat → Nat) (u : List Nat) : Bool :=
  (dimsOf d).all fun k => decide (dstCoord d ix u k < limit (dimAt d k).dstLimit)

def dstOffset (d : Desc) (ix : Nat → Nat) (u : List Nat) : Int :=
  ((dimsOf d).map fun k => (dstCoord d ix u k : Int) * (dimAt d k).dstStride).sum

/-- R193 at the `n`-th point; a CORE destination packs densely (R205). -/
def elemAt (d : Desc) (ix : Nat → Nat) (n : Nat) : Elem :=
  let u := coords d n
  let raw : Int := if d.dstSpace = spCore then (n : Int) else dstOffset d ix u
  if isInner d u then
    let src := if srcInside d ix u then some (srcOffset d ix u) else none
    if d.dstSpace = spCore || dstInside d ix u then { n := n, src := src, dst := some raw, dropped := false, raw := raw }
    else { n := n, src := src, dst := none, dropped := true, raw := raw }
  else if d.padSkip || d.mode == 2 then { n := n, src := none, dst := none, dropped := false, raw := raw }
  else if d.dstSpace = spCore || dstInside d ix u then { n := n, src := none, dst := some raw, dropped := false, raw := raw }
  else { n := n, src := none, dst := none, dropped := true, raw := raw }

/-- Address of the byte that holds element `off` of a tensor at `base`; arithmetic wraps at the end of the space. -/
def byteAt (sp bits base : Nat) (off : Int) : Nat :=
  let a : Int := (base : Int) + (if bits = 4 then off / 2 else off * (bits / 8 : Nat))
  (a % (spaceEnd sp : Nat)).toNat

/-- Bytes that an element spans. -/
def elemBytes (bits : Nat) : Nat := if bits = 4 then 1 else bits / 8

def srcBits (d : Desc) : Nat := typeBits d.srcType
def dstBits (d : Desc) : Nat := typeBits d.dstType

def srcByte (d : Desc) (off : Int) : Nat := byteAt d.srcSpace (srcBits d) (spaceBase d.srcSpace d.srcAddr) off

/-- A CORE destination's bytes count from the start of the dense packing. -/
def dstByte (d : Desc) (off : Int) : Nat :=
  if d.dstSpace = spCore then (if dstBits d = 4 then off / 2 else off * (dstBits d / 8 : Nat)).toNat
  else byteAt d.dstSpace (dstBits d) (spaceBase d.dstSpace d.dstAddr) off

/-- The index vector: width, count and address of an entry (R189, R203). -/
def indexSize (d : Desc) : Nat := if d.g.typ = 1 then 2 else 4
def indexCount (d : Desc) : Nat := ceilDiv (dimAt d d.g.dim).extent d.g.block
def indexByte (d : Desc) (j : Nat) : Nat := (d.g.addr + j * indexSize d) % spaceEnd d.g.space

/-! Validation (R190). -/

/-- Spaces an opcode accepts (R184). -/
def spacesOk (op src dst : Nat) : Bool :=
  if op = 1 then src != 3 && !(src == 2 && dst == 2)
  else if op = 2 then src == 0
  else src == 3 && dst != 3

/-- The alias check (R206): span so far, dimension by dimension. -/
def aliasFrom (d : Desc) : List Nat → Nat → Bool
  | [], _ => false
  | k :: ks, span =>
    let w := written d k
    let st := (dimAt d k).dstStride.natAbs
    (decide (1 < w ∧ st < span) && !(isScatter d && k == d.g.dim)) ||
      aliasFrom d ks (if 1 < w then span + st * (w - 1) else span)

def mayAlias (d : Desc) : Bool := d.dstSpace != spCore && aliasFrom d (dimsOf d) 1

/-- The four-bit rule of R186. -/
def nibblesOk (d : Desc) : Bool :=
  dstBits d != 4 ||
    (written d 0 % 2 == 0 &&
      (d.dstSpace == spCore ||
        ((dimAt d 0).dstStride == 1 && (dimsOf d).all fun k => k == 0 || (dimAt d k).dstStride % 2 == 0)))

/-- Lowest and highest of Σ stride × c, c from 0 to count − 1; none where a count is not positive. -/
def reach : List (Int × Int) → Option (Int × Int)
  | [] => some (0, 0)
  | (stride, count) :: rest =>
    if count ≤ 0 then none
    else
      match reach rest with
      | none => none
      | some (lo, hi) => some (lo + min 0 (stride * (count - 1)), hi + max 0 (stride * (count - 1)))

/-- Every byte between two element offsets lies in the space (R191). -/
def fits (sp bits base : Nat) (r : Option (Int × Int)) : Bool :=
  match r with
  | none => true
  | some (lo, hi) =>
    let first : Int := (base : Int) + (if bits = 4 then lo / 2 else lo * (bits / 8 : Nat))
    let last : Int := (base : Int) + (if bits = 4 then hi / 2 else hi * (bits / 8 : Nat) + (bits / 8 : Nat) - 1)
    decide (0 ≤ first ∧ last < (spaceEnd sp : Nat))

def srcReach (d : Desc) : List (Int × Int) :=
  (dimsOf d).map fun k =>
    let x := dimAt d k
    (x.srcStride, if isGather d && k == d.g.dim then (limit x.srcLimit : Int)
      else min (x.start + (x.extent : Nat)) (limit x.srcLimit : Nat))

def dstReach (d : Desc) : List (Int × Int) :=
  (dimsOf d).map fun k =>
    let x := dimAt d k
    (x.dstStride, if isScatter d && k == d.g.dim then (limit x.dstLimit : Int)
      else min (written d k : Int) (limit x.dstLimit : Nat))

/-- The descriptor has an interior element (R187). -/
def hasInner (d : Desc) : Bool := (dimsOf d).all fun k => (dimAt d k).extent != 0

/-- The extremal address check (R191). -/
def reachOk (d : Desc) : Bool :=
  (d.srcSpace == spCore || !hasInner d || fits d.srcSpace (srcBits d) (spaceBase d.srcSpace d.srcAddr) (reach (srcReach d))) &&
    (d.dstSpace == spCore || fits d.dstSpace (dstBits d) (spaceBase d.dstSpace d.dstAddr) (reach (dstReach d))) &&
    (!d.gather || !hasInner d ||
      decide (d.g.addr + indexCount d * indexSize d ≤ spaceEnd d.g.space))

/-- An entry of the core-to-port map that is connected (R59). -/
def coreAt (s : State) (core : Nat) : Option CoreEntry :=
  match Tbl.get? s.cores core with
  | some c => if c.present then some c else none
  | none => none

def coreOf (addr : Nat) : Nat := fld addr 0 10
def engineOf (addr : Nat) : Nat := fld addr 10 2

/-- CORE addresses name present cores; restrictions of R205 and R209. -/
def placesOk (s : State) (d : Desc) : Bool :=
  (d.srcSpace != spCore || (coreAt s (coreOf d.srcAddr)).isSome) &&
    (d.dstSpace != spCore || ((coreAt s (coreOf d.dstAddr)).isSome && !d.padSkip && d.mode == 0 && !isScatter d)) &&
    (d.dstSpace != spWindow || (d.mode == 0 && !mayAlias d))

/-- Types that exist and that the mode and the service allow (check 3). -/
def typesOk (s : State) (d : Desc) : Bool :=
  decide (d.srcType < 12 ∧ d.dstType < 12) && (d.mode != 2 || [0, 1, 2, 10].contains d.dstType) &&
    !(d.op == 3 && s.bring.boardwalk && d.dstType != 5 && d.dstType != 1)

/-- Checks 1 to 7 of R190, in order: the status of the first that fails. -/
def bodyFault (s : State) (d : Desc) (granules : Nat) : Option Nat :=
  if (d.reserved != 0 || d.ndims == 0 || d.ndims == 7 || d.mode == 3 || d.cast == 3 || !spacesOk d.op d.srcSpace d.dstSpace) then
    some stMalformed
  else if granules < needGranules d then some stLength
  else if !typesOk s d then some stTypeUnsup
  else if ((d.dims.any fun x => x.reserved != 0) || d.g.reserved != 0 ||
      d.srcAddr / 2 ^ spaceWidth d.srcSpace != 0 || d.dstAddr / 2 ^ spaceWidth d.dstSpace != 0 ||
      d.g.addr / 2 ^ spaceWidth d.g.space != 0) then some stMalformed
  else if (!nibblesOk d || (d.transpose && (decide (d.ndims < 2) || d.gather)) || (d.gather && decide (d.ndims ≤ d.g.dim)) ||
      (isScatter d && ((dimAt d d.g.dim).padBefore != 0 || (dimAt d d.g.dim).padAfter != 0))) then some stMalformed
  else if !placesOk s d then some stMalformed
  else if !reachOk d then some stMalformed
  else none

/-- The mode that the alias check leaves (R207). -/
def settle (d : Desc) : Desc := { d with ordered := d.mode == 1 || (d.mode == 0 && mayAlias d) }

/-- The alias check promoted an OVERWRITE descriptor (R207). -/
def promoted (d : Desc) : Bool := d.mode == 0 && d.ordered

end Sys2Proof.Machine
end

