-- ==== Sys2Proof/Machine/Translate.lean ====
section
/-! DEFINITION. Translation: the range class, the look-aside buffers, the walker and the checks of an access
(09_translation.md). The mover's tiles use these in Machine/TileXlate.lean. -/

namespace Sys2Proof.Machine

def vaEnd : Nat := 2 ^ 48

def rangeSpan (r : RangeEntry) : Nat := r.length * 65536

/-- The range entry that covers a virtual address (R269). -/
def rangeAt (s : State) (va : Nat) : Option (Nat × RangeEntry) :=
  s.xlate.ranges.find? fun e => decide (e.2.va ≤ va ∧ va < e.2.va + rangeSpan e.2)

/-- A mapping of a range entry as a look-aside buffer holds it: one entry, whatever its length (R283). -/
def rangeLab (n : Nat) (r : RangeEntry) : LabEntry :=
  { va := r.va / 4096, pages := r.length * 16, pa := r.pa, domain := r.domain, key := r.key, read := r.read,
    write := r.write, range := some n, level := 0, run := false, entryPa := 0 }

def labCovers (e : LabEntry) (page : Nat) : Bool := decide (e.va ≤ page ∧ page < e.va + e.pages)

def labFind (l : List LabEntry) (page : Nat) : Option LabEntry := l.find? fun e => labCovers e page

/-- FOUND of a mapping held by a look-aside buffer (R292). -/
def foundCode (e : LabEntry) : Nat := if e.range.isSome then 4 else 5

/-- Least-recently-used order: the entry used comes first (R281). -/
def labTouch (l : List LabEntry) (e : LabEntry) : List LabEntry := e :: l.filter fun x => x != e

def labInstall (cap : Nat) (l : List LabEntry) (e : LabEntry) : List LabEntry := (labTouch l e).take cap

/-- Physical address of a VA under a mapping. -/
def labPa (e : LabEntry) (va : Nat) : Nat := e.pa + (va - e.va * 4096)

/-- A page span meets another. -/
def spansMeet (a n b m : Nat) : Bool := decide (a < b + m ∧ b < a + n)

/-- A withdrawal that changes translation only at DONE: a lookup in its span waits (R295 step 1). -/
def waitsWithdrawal (s : State) (page : Nat) : Bool :=
  s.xlate.wds.any fun w =>
    match w.kind with
    | .paged => false
    | .mere _ => false
    | _ => decide (w.va / 4096 ≤ page ∧ page < w.va / 4096 + w.pages)

/-- What a first level answers: a paged mapping never for an address that a range entry covers (R269), and none in a span that
waits for a withdrawal (R295). -/
def firstLevel (s : State) (l : List LabEntry) (page : Nat) : Option LabEntry :=
  if waitsWithdrawal s page then none
  else l.find? fun e => labCovers e page && (e.range.isSome || (rangeAt s (page * 4096)).isNone)

/-- What a quarter's second level answers (R269, R282). -/
inductive L2 where
  | hit (e : LabEntry)
  | noRoot
  | miss
  | waits
deriving DecidableEq, Repr

def quarterX (s : State) (q : Nat) : QXlate := Tbl.getD s.xlate.q q .reset

def secondLevel (s : State) (q page : Nat) : L2 :=
  match rangeAt s (page * 4096) with
  | some (n, r) => if r.withdrawing then .waits else .hit (rangeLab n r)
  | none =>
    if waitsWithdrawal s page then .waits
    else
      match labFind (quarterX s q).lab2 page with
      | some e => .hit e
      | none => if s.xlate.enable then .miss else .noRoot

/-! Faults (R290). -/

def xfault (reason found domain entryPa : Nat) : XFault :=
  { status := if reason ≤ 4 then stUnmapped else stProtection, reason := reason, found := found, domain := domain,
    entryPa := entryPa, detail := 0, needs := none }

/-- A table read failed: the walk ends with the memory's status, and names the row (R279, R492). -/
def walkFault (r : RowRead) (n entryPa row : Nat) : XFault :=
  { status := r.status, reason := 0, found := n, domain := 0, entryPa := entryPa, detail := row, needs := r.needs }

def noRootFault : XFault := xfault 4 0 0 0

/-- Protection of an access under a ring's mask (R289). -/
def permits (mask : BitVec 16) (e : LabEntry) (found entryPa : Nat) (write : Bool) : Option XFault :=
  if !mask.getLsbD e.domain then some (xfault 6 found e.domain entryPa)
  else if (if write then e.write else e.read) then none
  else some (xfault 7 found e.domain entryPa)

/-! Page-table entries (R277, R278). -/

def pteValid (e : Nat) : Bool := fld e 0 1 == 1
def pteLeaf (e : Nat) : Bool := fld e 1 1 == 1
def pteAddr (e : Nat) : Nat := fld e 12 30 * 4096
def pteReserved (e : Nat) : Bool := fld e 4 8 != 0 || fld e 42 10 != 0 || fld e 60 4 != 0

/-- Pages of 4 KiB that a leaf of a level maps. -/
def levelPages (n : Nat) : Nat := 512 ^ n

def pteMalformed (n e : Nat) : Bool :=
  pteReserved e || (pteLeaf e && n == 3) || (!pteLeaf e && n == 0) ||
    (pteLeaf e && pteAddr e % (levelPages n * 4096) != 0)

def vaIndex (page n : Nat) : Nat := page / 512 ^ n % 512

/-- The mapping a leaf gives to the pages around `page`. -/
def leafLab (page n e pa : Nat) : LabEntry :=
  { va := page / levelPages n * levelPages n, pages := levelPages n, pa := pteAddr e, domain := fld e 52 4,
    key := fld e 56 4, read := fld e 2 1 == 1, write := fld e 3 1 == 1, range := none, level := n, run := false,
    entryPa := pa }

/-- The mapping lies in memory that may be mapped: REASON of the failure, if any (R290). -/
def placeReason (s : State) (pa n : Nat) : Option Nat :=
  if !(inStack s pa n || inHost pa n) then some 3
  else if hitsCtx s pa n then some 5
  else none

/-- What one table entry says (R285, R290). -/
inductive PteSays where
  | fault (x : XFault)
  | table (pa : Nat)
  | leaf (e : LabEntry)
deriving DecidableEq, Repr

def readPte (s : State) (page n e pa : Nat) : PteSays :=
  let dom := if pteLeaf e then fld e 52 4 else 0
  if !pteValid e then .fault (xfault 0 n 0 pa)
  else if pteMalformed n e then .fault (xfault 1 n dom pa)
  else if pteLeaf e then
    match placeReason s (pteAddr e) (levelPages n * 4096) with
    | some r => .fault (xfault r n dom pa)
    | none => if keyOf s (fld e 56 4) dom then .leaf (leafLab page n e pa) else .fault (xfault 8 n dom pa)
  else if inStack s (pteAddr e) 4096 && !hitsCtx s (pteAddr e) 4096 then .table (pteAddr e)
  else .fault (xfault 2 n 0 pa)

/-- Entry `k` of the aligned group of 16 whose 128 bytes are given. -/
def groupEntry (g : Nat) (k : Nat) : Nat := fld g (64 * k) 64

/-- The run that a leaf's group of 16 merges into, if it qualifies (R283). -/
def mergeRun (s : State) (page n pa : Nat) (g : Nat) : Option LabEntry :=
  let first := groupEntry g 0
  let same := (List.range 16).all fun k =>
    let e := groupEntry g k
    pteValid e && pteLeaf e && !pteMalformed n e && fld e 52 8 == fld first 52 8 && fld e 2 2 == fld first 2 2 &&
      pteAddr e == pteAddr first + k * (levelPages n * 4096)
  if same && pteAddr first % (16 * levelPages n * 4096) == 0 &&
      (placeReason s (pteAddr first) (16 * levelPages n * 4096)).isNone then
    some { leafLab page n first pa with
      va := page / (16 * levelPages n) * (16 * levelPages n), pages := 16 * levelPages n, run := true }
  else none

/-- One table read of a walk. -/
inductive WalkStep where
  | table (pa : Nat)
  | done (e : LabEntry)
  | fault (x : XFault)
deriving DecidableEq, Repr

structure WalkRead where
  st : State
  step : WalkStep
  /-- Charge and cause bits of corrected errors (R258, R279). -/
  charge : Nat
  cause : Nat
deriving DecidableEq, Repr

/-- Reads the level-`n` entry of `page` in a table: 64 bytes, or at the leaf level the 128 bytes of its group
(R279). A failed read halts the stream with the memory's status. -/
def walkRead (env : Env) (page n table : Nat) (s : State) : WalkRead :=
  let pa := table + 8 * vaIndex page n
  let r := readRowAt env (.stack (pa / 64 * 64) s.xlate.tableKey) 7 s
  if r.status ≠ stOk then
    { st := r.st, step := .fault (walkFault r n pa (pa / 64 * 64)), charge := r.charge, cause := r.cause }
  else
    let e := fld r.row.toNat (8 * (pa % 64)) 64
    match readPte s page n e pa with
    | .fault x => { st := r.st, step := .fault x, charge := r.charge, cause := r.cause }
    | .table t => { st := r.st, step := .table t, charge := r.charge, cause := r.cause }
    | .leaf l =>
      let other := if pa / 64 % 2 = 0 then pa / 64 * 64 + 64 else pa / 64 * 64 - 64
      let r2 := readRowAt env (.stack other s.xlate.tableKey) 7 r.st
      if r2.status ≠ stOk then
        { st := r2.st, step := .fault (walkFault r2 n pa other), charge := r.charge + r2.charge, cause := r.cause ||| r2.cause }
      else
        let g := if pa / 64 % 2 = 0 then r.row.toNat + (r2.row.toNat <<< 512) else r2.row.toNat + (r.row.toNat <<< 512)
        { st := r2.st, step := .done ((mergeRun s page n pa g).getD l), charge := r.charge + r2.charge, cause := r.cause ||| r2.cause }

/-- A whole walk, installing nothing; each table read is counted for quarter 0 (R300, R301). -/
def walkAll (env : Env) (page : Nat) : Nat → Nat → State → WalkRead
  | 0, table, s => walkRead env page 0 table (bump 2 0 3 1 s)
  | n + 1, table, s =>
    let r := walkRead env page (n + 1) table (bump 2 0 3 1 s)
    match r.step with
    | .table pa => walkAll env page n pa r.st
    | _ => r

/-! The walk cache (R284). -/

def ptrFind (l : List PtrEntry) (page level : Nat) : Option PtrEntry :=
  l.find? fun p => p.level == level && p.va == page / 512 ^ level

/-- The deepest pointer that the cache holds for a page. -/
def ptrDeepest (l : List PtrEntry) (page : Nat) : Option PtrEntry := [1, 2, 3].findSome? (ptrFind l page)

/-- The next level to read and its table: below a pointer, or at the root. -/
def walkStart (x : Xlate) (p : Option PtrEntry) : Nat × Nat :=
  match p with
  | some e => (e.level - 1, e.pa)
  | none => (3, x.root)

/-- The pointer used or installed comes first: the least recently used one leaves a full cache. -/
def ptrInstall (l : List PtrEntry) (p : PtrEntry) : List PtrEntry :=
  (p :: l.filter fun x => x != p).take 256

def putQX (s : State) (q : Nat) (f : QXlate → QXlate) : Xlate :=
  { s.xlate with q := Tbl.put s.xlate.q q (f (quarterX s q)) }

/-- The set of the second level that holds a mapping: one of 2,048, by its size and place (R282). -/
def l2Set (e : LabEntry) : Nat := Config.l2Set e.pages (e.va / e.pages) % 2048

/-- Installs a mapping in its set of a quarter's second level; of a full set the way `evict` leaves, which is
implementation-defined, or the least recently used one (R282). -/
def l2Install (l : List LabEntry) (e : LabEntry) (evict : Option Nat) : List LabEntry :=
  let mates := l.filter fun x => l2Set x == l2Set e && x != e
  let out := if mates.length < 8 then none else mates[min (evict.getD 7) 7]?
  labTouch (match out with
    | some v => l.filter fun x => x != v
    | none => l) e

/-! Withdrawals (R294, R295). -/

/-- Entries of a page span, dropped whole even where they meet it in part (R295 step 2): the paged ones, and copies of the range
entry withdrawn. -/
def labDrop (l : List LabEntry) (page pages : Nat) (domain : Option Nat) (range : Option Nat) : List LabEntry :=
  l.filter fun e =>
    !(spansMeet e.va e.pages page pages &&
      (e.range.isNone || (range.isSome && e.range == range)) &&
      (match domain with | some d => e.domain == d | none => true))

def ptrDrop (l : List PtrEntry) (page pages : Nat) : List PtrEntry :=
  l.filter fun p => !spansMeet (p.va * 512 ^ p.level) (512 ^ p.level) page pages

/-- Pages that a walk can still answer for: the group of 16 entries of its level (R283). -/
def walkPages (w : Walk) : Nat := 16 * levelPages w.level

/-- A walk that covers the span, or may give a mapping that does, starts again from the root (R295 step 3). -/
def walkRestart (x : Xlate) (w : Walk) (page pages : Nat) : Walk :=
  if spansMeet (w.page / walkPages w * walkPages w) (walkPages w) page pages then { w with level := 3, table := x.root } else w

def qxDrop (x : Xlate) (qx : QXlate) (page pages : Nat) (domain range : Option Nat) : QXlate :=
  { qx with
    lab2 := labDrop qx.lab2 page pages domain range
    ptrs := ptrDrop qx.ptrs page pages
    walks := qx.walks.map fun w => walkRestart x w page pages }

/-- Look-aside and walk-cache entries that a withdrawal drops, counted once in each buffer (R294). -/
def droppedBy (s : State) (page pages : Nat) (domain range : Option Nat) : Nat :=
  (s.xlate.q.map fun e =>
    (e.2.lab2.length - (labDrop e.2.lab2 page pages domain range).length) +
      (e.2.ptrs.length - (ptrDrop e.2.ptrs page pages).length)).sum +
  (s.movers.map fun e => e.2.lab.length - (labDrop e.2.lab page pages domain range).length).sum +
  (if range.isSome then 4 else 0)

end Sys2Proof.Machine
end

