-- ==== Sys2Proof/Machine/Resource.lean ====
section
/-! DEFINITION. Reservations of jobs and what is free of each counted resource (R146 to R149). -/

namespace Sys2Proof.Machine

/-- Counted resources in the order of R146: STREAMS, RINGS, QUEUES, WINDOWS, MERE_4K, RANGES, TABLE_SLOTS, KEY_SLOTS,
CW_SHARE. -/
def resStreams : Nat := 0
def resRings : Nat := 1
def resQueues : Nat := 2
def resWindows : Nat := 3
def resMere : Nat := 4
def resRanges : Nat := 5
def resTables : Nat := 6
def resKeys : Nat := 7
def resShare : Nat := 8

/-- Streams that may exist: the context cache's capacity until the region is placed (R98, R148). -/
def streamBound (s : State) : Nat := if s.bring.ctxStack.isSome then 1048576 else 16384

/-- Device totals (R146, R148). -/
def resTotal (s : State) (k : Nat) : Nat :=
  [streamBound s, 4096, 65536, 4096, 65536, 1024, 8, 16, 100].getD k 0

def countBy {α : Type} (t : Tbl α) (p : α → Bool) : Nat := (t.filter fun e => p e.2).length

/-- Objects of a job, by resource. -/
def resUsed (s : State) (j k : Nat) : Nat :=
  if k = 0 then countBy s.streams fun x => x.job == j
  else if k = 1 then countBy s.rings fun x => x.job == j
  else if k = 2 then countBy s.queues fun x => x.job == j
  else if k = 3 then countBy s.cw.windows fun x => x.job == j
  else if k = 4 then ((s.allocs.filter fun e => e.2.job == j).map fun e => e.2.pages).sum
  else if k = 5 then countBy s.xlate.ranges fun x => x.domain == j
  else if k = 6 then countBy s.tables fun x => x.job == j
  else if k = 7 then countBy s.keys fun x => x.job == j
  else 0

def reserved (s : State) (k : Nat) : Nat := (s.jobs.map fun e => e.2.res.getD k 0).sum

/-- The device total less reservations and less what the system has created (R148). -/
def resFree (s : State) (k : Nat) : Nat := resTotal s k - reserved s k - resUsed s 0 k

/-- A creating command stays within its job's reservation, or within what no job has reserved (R149). -/
def mayCreate (s : State) (j k n : Nat) : Bool :=
  if j = 0 then decide (n ≤ resFree s k)
  else
    match Tbl.get? s.jobs j with
    | some x => decide (resUsed s j k + n ≤ x.res.getD k 0)
    | none => false

/-- The range entries of a domain that grant the asked permissions cover `n` bytes from `va` (R174, R321). -/
def rangesCover (s : State) (domain : Nat) (write : Bool) (va n : Nat) : Nat → Bool
  | 0 => false
  | fuel + 1 =>
    match rangeAt s va with
    | some (_, r) =>
      if r.domain == domain && r.read && (r.write || !write) && !r.withdrawing then
        (if va + n ≤ r.va + rangeSpan r then true
        else rangesCover s domain write (r.va + rangeSpan r) (va + n - (r.va + rangeSpan r)) fuel)
      else false
    | none => false

def covered (s : State) (domain : Nat) (write : Bool) (va n : Nat) : Bool :=
  rangesCover s domain write va n (s.xlate.ranges.length + 1)

/-- An object of job `owner` may be named by a command of job `j` (R132). -/
def mayName (j owner : Nat) : Bool := j == 0 || j == owner

end Sys2Proof.Machine
end

