-- ==== Sys2Proof/Machine/Compress.lean ====
section
/-! DEFINITION. Key slots, decoding tables and base models, the MOVE_EXPAND extension and the decoding of a block
(10_compression.md). -/

namespace Sys2Proof.Machine

/-! Key slots (R304 to R309). -/

def keyOwner (s : State) (k : Nat) : Option Nat := (keySlot s k).map KeySlot.job

/-- A port that carries flits (R414). -/
def portInService (x : CPort) : Bool := decide (3 ≤ x.state)

/-- A slot that something names cannot be reloaded or cleared (R307). -/
def keyNamed (s : State) (k : Nat) : Bool :=
  (s.xlate.ranges.any fun e => e.2.key == k) || (s.xlate.enable && s.xlate.tableKey == k) ||
    s.cw.entries.any fun e => (e.2.slot0 == k || e.2.slot1 == k) && portInService (Tbl.getD s.cw.ports e.1 .reset)

def keyFree (s : State) : Option Nat := Tbl.firstFree s.keys 1 15

def keyFlds (s : State) (j : Nat) : List (Nat → List Fld) :=
  [fun _ => [
    chkB 1 320 256 fun b v =>
      if fld b 10 1 = 1 then .ok
      else if fld b 8 2 = 1 then .setTo 0
      else if fld b 8 2 = 0 && v == fld b 64 256 then .no
      else .ok,
    chk 2 64 256 fun _ => .ok,
    rsvd 3 11 53,
    chk 4 10 1 fun _ => .ok,
    chk 5 8 2 fun v => refuseUnless (decide (v < 2)),
    chk 6 0 8 fun v => refuseUnless
      (v == 0xFF || (decide (1 ≤ v ∧ v ≤ 15) && !keyNamed s v &&
        (match keyOwner s v with | some o => mayName j o | none => true)))]]

/-- Requests that have reached a controller keep the material of a key slot that is about to change (R309). -/
def keepKey (key : Nat) (s : State) : State :=
  { s with mem := { s.mem with reqs := s.mem.reqs.map fun q =>
      if q.key = key ∧ q.oldKey.isNone then { q with oldKey := some (material s key) } else q } }

def loadKey (c : Cmd) (s : State) : State × Reply :=
  let v := fld c.body 0 8
  match (if v = 0xFF then keyFree s else some v) with
  | none => (s, endWith stExhausted)
  | some k =>
    let job := (keyOwner s k).getD c.job
    if (keySlot s k).isNone && !mayCreate s c.job resKeys 1 then (s, endWith stExhausted)
    else
      let s1 := keepKey k s
      let use := fld c.body 8 2
      let gen := fld c.body 10 1 == 1
      let lo := if gen then Config.freeBits 256 s1.freeTick else BitVec.ofNat 256 (fld c.body 64 256)
      let hi := if use = 1 then 0 else if gen then Config.freeBits 256 (s1.freeTick + 1) else BitVec.ofNat 256 (fld c.body 320 256)
      ({ s1 with
          keys := Tbl.put s1.keys k { state := if use = 1 then 2 else 1, job := job, lo := lo, hi := hi }
          freeTick := s1.freeTick + 2 },
        okWith 8 k)

def specKeyLoad : CmdSpec := { op := 0x0410, hw := false, sel := fun _ => true, flds := keyFlds, act := loadKey }

/-- KEY_LOAD (R306, R307). -/
def execKeyLoad (m : Fin 8) (s : State) : Host.Outcome State Fault Refusal := .next (runCmd specKeyLoad m s)

def clearKey (k : Nat) (s : State) : State :=
  let s1 := keepKey k s
  { s1 with keys := Tbl.del s1.keys k }

def keyClearFlds (s : State) (j : Nat) : List (Nat → List Fld) :=
  [fun _ => [chk 1 0 8 fun v => refuseUnless
    (decide (1 ≤ v ∧ v ≤ 15) && !keyNamed s v && (match keyOwner s v with | some o => mayName j o | none => false))]]

def specKeyClear : CmdSpec :=
  { op := 0x0411, hw := false, sel := fun _ => true, flds := keyClearFlds,
    act := fun c s => (clearKey (fld c.body 0 8) s, okEmpty) }

/-- KEY_CLEAR (R308). -/
def execKeyClear (m : Fin 8) (s : State) : Host.Outcome State Fault Refusal := .next (runCmd specKeyClear m s)

/-! Decoding tables (R313 to R319, R341). -/

/-- TABLE_RETIRED (R341). -/
def retiredRec (s : State) (slot job : Nat) (r : Retiring) : PeatRec :=
  mkRec s 0x042 3 islMgmt [slot, r.gen, r.cmdSeq.toNat]
    [pack [(32, r.cmdSeq.toNat), (21, 0), (4, job), (4, r.gen), (3, slot)]]

/-- A retiring generation whose count is zero is retired (R316). -/
def retire (slot : Nat) (s : State) : State :=
  match Tbl.get? s.tables slot with
  | some t =>
    match t.retiring with
    | some r =>
      if r.refs = 0 then
        offer none (retiredRec s slot t.job r) { s with tables := Tbl.put s.tables slot { t with retiring := none } }
      else s
    | none => s
  | none => s

/-- One reference on the current generation (R316). -/
def takeTable (slot : Nat) (s : State) : State :=
  { s with tables := Tbl.upd s.tables slot fun t => { t with refs := t.refs + 1 } }

def dropRef (gen : Nat) (t : TblSlot) : TblSlot :=
  if t.gen = gen then { t with refs := t.refs - 1 }
  else { t with retiring := t.retiring.map fun r => if r.gen = gen then { r with refs := r.refs - 1 } else r }

def freeTable (slot gen : Nat) (s : State) : State :=
  retire slot { s with tables := Tbl.upd s.tables slot (dropRef gen) }

def tableFree (s : State) : Option Nat := Tbl.firstFree s.tables 0 8

/-- Bytes 0 to 7 of TABLE_LOAD's result (R318). -/
def tableResult (s : State) (slot : Nat) : Nat :=
  match Tbl.get? s.tables slot with
  | some t =>
    pack [(8, slot), (8, t.gen), (8, (t.retiring.map Retiring.gen).getD 0xFF), (8, 0),
      (32, (t.retiring.map Retiring.refs).getD 0)]
  | none => pack [(8, slot), (8, 0xFF), (8, 0xFF)]

/-- Fields of TABLE_LOAD: `named` is the rule on a SLOT of a REPLACE or FREE, `fresh` on that of a NEW (R318). -/
def tableFlds (new : Bool) (s : State) (j : Nat) : List (Nat → List Fld) :=
  [fun _ => [
    chk 1 64 512 fun _ => .ok,
    rsvd 2 10 54,
    chk 3 8 2 fun v => refuseUnless (decide (v < 3)),
    chk 4 0 8 fun v => refuseUnless
      (if new then v == 0xFF || (decide (v < 8) && !Tbl.has s.tables v)
      else decide (v < 8) && (match Tbl.get? s.tables v with | some t => mayName j t.job | none => false))]]

def bodyTable (body : Nat) : BitVec 512 := BitVec.ofNat 512 (fld body 64 512)

/-- RESOURCE_EXHAUSTED of TABLE_LOAD has the result too (R318). -/
def tableFull (s : State) (slot : Nat) : Reply := .done stExhausted 0 0 8 (tableResult s slot)

def newTable (c : Cmd) (s : State) : State × Reply :=
  let v := fld c.body 0 8
  match (if v = 0xFF then tableFree s else some v) with
  | none => (s, tableFull s 0xFF)
  | some k =>
    if mayCreate s c.job resTables 1 then
      let gen := match Tbl.get? s.tableGen k with
        | some g => (g + 1) % 16
        | none => 0
      let s1 := { s with
        tables := Tbl.put s.tables k { job := c.job, gen := gen, table := bodyTable c.body, refs := 0, retiring := none }
        tableGen := Tbl.put s.tableGen k gen }
      (s1, okWith 8 (tableResult s1 k))
    else (s, tableFull s k)

def specTableNew : CmdSpec :=
  { op := 0x0403, hw := false, sel := fun b => fld b 8 2 == 0 || fld b 8 2 == 3, flds := tableFlds true, act := newTable }

/-- TABLE_LOAD with ACTION NEW; a reserved ACTION is refused here (R317, R318). -/
def execTableLoadNew (m : Fin 8) (s : State) : Host.Outcome State Fault Refusal := .next (runCmd specTableNew m s)

def replaceTable (c : Cmd) (s : State) : State × Reply :=
  let k := fld c.body 0 8
  match Tbl.get? s.tables k with
  | none => (s, tableFull s k)
  | some t =>
    if t.retiring.isSome then (s, tableFull s k)
    else
      let gen := (t.gen + 1) % 16
      let old : Retiring := { gen := t.gen, table := t.table, refs := t.refs, cmdSeq := c.seq }
      let s1 := retire k { s with
        tables := Tbl.put s.tables k { t with gen := gen, table := bodyTable c.body, refs := 0, retiring := some old }
        tableGen := Tbl.put s.tableGen k gen }
      (s1, okWith 8 (tableResult s1 k))

def specTableReplace : CmdSpec :=
  { op := 0x0403, hw := false, sel := fun b => fld b 8 2 == 1, flds := tableFlds false, act := replaceTable }

/-- TABLE_LOAD with ACTION REPLACE (R318). -/
def execTableLoadReplace (m : Fin 8) (s : State) : Host.Outcome State Fault Refusal := .next (runCmd specTableReplace m s)

def dropTable (k : Nat) (s : State) : State := { s with tables := Tbl.del s.tables k }

def discardTable (c : Cmd) (s : State) : State × Reply :=
  let k := fld c.body 0 8
  match Tbl.get? s.tables k with
  | none => (s, tableFull s k)
  | some t =>
    if t.refs = 0 && (t.retiring.map Retiring.refs).getD 0 = 0 then
      (dropTable k s, okWith 8 (tableResult (dropTable k s) k))
    else (s, tableFull s k)

def specTableFree : CmdSpec :=
  { op := 0x0403, hw := false, sel := fun b => fld b 8 2 == 2, flds := tableFlds false, act := discardTable }

/-- TABLE_LOAD with ACTION FREE (R318). -/
def execTableLoadFree (m : Fin 8) (s : State) : Host.Outcome State Fault Refusal := .next (runCmd specTableFree m s)

/-- The 80-byte result of TABLE_QUERY (R319). -/
def tableInfo (s : State) (k : Nat) : Nat :=
  match Tbl.get? s.tables k with
  | some t =>
    pack [(8, 1), (8, t.job), (8, t.gen), (8, (t.retiring.map Retiring.gen).getD 0xFF), (32, t.refs),
      (32, (t.retiring.map Retiring.refs).getD 0), (32, 0), (512, t.table.toNat)]
  | none => pack [(8, 0), (8, 0), (8, 0xFF), (8, 0xFF)]

def specTableQuery : CmdSpec :=
  { op := 0x0404, hw := false, sel := fun _ => true,
    flds := fun s j => [fun _ => [chk 1 0 8 fun v => refuseUnless
      (decide (v < 8) && (match Tbl.get? s.tables v with | some t => mayName j t.job | none => true))]],
    act := fun c s => (s, okWith 80 (tableInfo s (fld c.body 0 8))) }

/-- TABLE_QUERY (R319). -/
def execTableQuery (m : Fin 8) (s : State) : Host.Outcome State Fault Refusal := .next (runCmd specTableQuery m s)

/-! Base models (R320 to R323). -/

def baseFlds (s : State) (j : Nat) : List (Nat → List Fld) :=
  [fun _ => [
    chk 1 96 32 fun v => refuseUnless (v != 0),
    rsvd 2 84 12,
    chk 3 80 4 fun v => refuseUnless (decide (v < 12)),
    rsvd 4 72 8,
    chk 5 64 8 fun v => refuseUnless (!Tbl.has s.bases v),
    rsvd 6 48 16,
    chkB 7 0 48 fun b v => refuseUnless
      (v % 4096 == 0 && decide (v + fld b 96 32 * 4096 ≤ vaEnd) && covered s j false v (fld b 96 32 * 4096))]]

def registerBase (c : Cmd) (s : State) : State × Reply :=
  let v := fld c.body 64 8
  match (if v = 0 then Tbl.firstFree s.bases 1 255 else some v) with
  | none => (s, endWith stExhausted)
  | some k =>
    let b : Base := { job := c.job, va := fld c.body 0 48, blocks := fld c.body 96 32, typ := fld c.body 80 4, refs := 0,
                      released := false }
    ({ s with bases := Tbl.put s.bases k b }, okWith 8 k)

def specBaseRegister : CmdSpec :=
  { op := 0x0401, hw := false, sel := fun _ => true, flds := baseFlds, act := registerBase }

/-- BASE_REGISTER (R320, R321). -/
def execBaseRegister (m : Fin 8) (s : State) : Host.Outcome State Fault Refusal := .next (runCmd specBaseRegister m s)

/-- A released base without references becomes free, and every expander drops its blocks (R323). -/
def settleBase (k : Nat) (s : State) : State :=
  match Tbl.get? s.bases k with
  | some b =>
    if b.released && b.refs == 0 then
      { s with
        bases := Tbl.del s.bases k
        expanders := s.expanders.mapV fun _ x => { x with cache := x.cache.filter fun l => l.base != k } }
    else s
  | none => s

def takeBase (k : Nat) (s : State) : State :=
  { s with bases := Tbl.upd s.bases k fun b => { b with refs := b.refs + 1 } }

def freeBase (k : Nat) (s : State) : State :=
  settleBase k { s with bases := Tbl.upd s.bases k fun b => { b with refs := b.refs - 1 } }

def releaseBase (k : Nat) (s : State) : State :=
  settleBase k { s with bases := Tbl.upd s.bases k fun b => { b with released := true } }

def specBaseRelease : CmdSpec :=
  { op := 0x0402, hw := false, sel := fun _ => true,
    flds := fun s j => [fun _ => [chk 1 0 8 fun v => refuseUnless
      (match Tbl.get? s.bases v with | some b => !b.released && mayName j b.job | none => false)]],
    act := fun c s =>
      (releaseBase (fld c.body 0 8) s, okWith 4 ((Tbl.get? s.bases (fld c.body 0 8)).map Base.refs |>.getD 0)) }

/-- BASE_RELEASE (R323). -/
def execBaseRelease (m : Fin 8) (s : State) : Host.Outcome State Fault Refusal := .next (runCmd specBaseRelease m s)

/-! The extension granule (R324 to R327). -/

def xBaseAddr (d : Desc) : Nat := fld d.ext.toNat 0 48
def xBase (d : Desc) : Nat := fld d.ext.toNat 64 8
def xSlot (d : Desc) : Nat := fld d.ext.toNat 72 3
def xGen (d : Desc) : Nat := fld d.ext.toNat 76 4
def xMode (d : Desc) : Nat := fld d.ext.toNat 80 1
def xEscBlocks (d : Desc) : Nat := fld d.ext.toNat 96 32
def xEscMap (d : Desc) : Nat := fld d.ext.toNat 128 28
def xEscOrigin (d : Desc) : Nat := fld d.ext.toNat 160 48

def xReserved (d : Desc) : Bool :=
  let x := d.ext.toNat
  fld x 48 16 != 0 || fld x 75 1 != 0 || fld x 81 15 != 0 || fld x 156 4 != 0 || fld x 208 48 != 0

/-- Elements of SRC_TYPE in a block (R310). -/
def blockElems (d : Desc) : Nat := 32768 / (if srcBits d = 0 then 32 else srcBits d)

/-- The source consists of whole blocks (R326). -/
def wholeBlocks (d : Desc) : Bool :=
  let x := dimAt d 0
  let n := blockElems d
  d.srcAddr % 4096 == 0 && x.srcStride == 1 && decide (0 ≤ x.start) && x.start % (n : Int) == 0 && x.extent % n == 0 &&
    decide (x.start + (x.extent : Nat) ≤ (limit x.srcLimit : Nat)) &&
    ((dimsOf d).all fun k => k == 0 || (dimAt d k).srcStride % (n : Int) == 0) && !d.transpose &&
    (!d.gather || decide (1 ≤ d.g.dim))

/-- The map lies in the Mere allocations of the ring's job (R327). -/
def escMapOk (s : State) (job : Nat) (d : Desc) : Bool :=
  xEscBlocks d == 0 || (decide (xEscMap d + ceilDiv (xEscBlocks d) 8 ≤ mereSize) &&
    inAllocs s job (xEscMap d) (ceilDiv (xEscBlocks d) 8))

def basesOk (s : State) (job : Nat) (d : Desc) : Bool :=
  xBase d == 0 ||
    (match Tbl.get? s.bases (xBase d) with
    | some b => !b.released && (b.job == job || b.job == 0) && b.typ == d.srcType
    | none => false)

def tableOk (s : State) (job : Nat) (d : Desc) : Bool :=
  match Tbl.get? s.tables (xSlot d) with
  | some t => (t.job == job || t.job == 0) && t.gen == xGen d
  | none => false

/-- The checks of R327, in order. -/
def expandFault (s : State) (job : Nat) (d : Desc) : Option Nat :=
  if xReserved d || (xBase d != 0 && xBaseAddr d % 4096 != 0) || xEscOrigin d % 4096 != 0 then some stMalformed
  else if !wholeBlocks d then some stMalformed
  else if !escMapOk s job d then some stMalformed
  else if !basesOk s job d then some stBaseMismatch
  else if !tableOk s job d then some stTableRetired
  else none

/-! Blocks (R310 to R315, R325, R336). -/

/-- The base block of the source block at `va` (R325). -/
def baseVa (d : Desc) (va : Nat) : Nat := (va + xBaseAddr d + 2 ^ 48 - d.srcAddr) % 2 ^ 48

/-- Its number in the base; below the base's start it wraps beyond every BLOCKS. -/
def baseNumber (s : State) (d : Desc) (va : Nat) : Nat :=
  ((baseVa d va + 2 ^ 48 - (Tbl.get? s.bases (xBase d)).elim 0 Base.va) % 2 ^ 48) / 4096

/-- Bit of the escape map that describes a block; none where no map bit does (R325). -/
def escBit (d : Desc) (va : Nat) : Option Nat :=
  if xEscOrigin d ≤ va ∧ (va - xEscOrigin d) / 4096 < xEscBlocks d then some ((va - xEscOrigin d) / 4096) else none

/-- Payload length L. -/
def payloadLen (d : Desc) : Nat := if xMode d = 1 then 512 else 1024

/-- Bytes of a list as fields of a number, byte 0 lowest. -/
def byteOf (l : List Byte) (i : Nat) : Nat := (l.getD i 0).toNat
def wordOf (l : List Byte) (i n : Nat) : Nat := bytesToNat ((l.drop i).take n)

/-- The decode of one block found one of R339's reasons, a mismatch, or a payload to decode. -/
inductive BlockFault where
  /-- CMP_CHECK_FAIL with REASON and the CRC found. -/
  | check (reason : Nat) (found : Word32)
  | base
  | table
deriving DecidableEq, Repr

structure Header where
  crc : Nat
  base : Nat
  slot : Nat
  gen : Nat
  code4 : Bool
  patches : Nat
  typ : Nat
  mode : Nat
  baseBlock : Nat
  reserved : Bool
deriving DecidableEq, Repr

def readHeader (p : List Byte) : Header :=
  let x := wordOf p 0 16
  { crc := fld x 0 32, base := fld x 32 8, slot := fld x 40 3, gen := fld x 43 4, code4 := fld x 47 1 == 1,
    patches := fld x 48 5, typ := fld x 56 4, mode := fld x 60 1, baseBlock := fld x 64 32,
    reserved := fld x 53 3 != 0 || fld x 61 3 != 0 || fld x 96 32 != 0 }

def codeBits (h : Header) : Nat := if h.code4 then 4 else 2

/-- Offset of the codes, after header and scales (R312). -/
def codesAt (n : Nat) : Nat := 16 + n / 64

def layoutFits (n l : Nat) (h : Header) : Bool := decide (16 + n / 64 + n * codeBits h / 64 + 64 ≤ l)

/-- Scale byte of a group of 64 elements. -/
def scaleAt (p : List Byte) (g : Nat) : Nat := byteOf p (16 + g)

def patchAt (p : List Byte) (l k : Nat) : Nat := wordOf p (l - 64 + 4 * k) 4

def scalesOk (d : Desc) (p : List Byte) : Bool :=
  (List.range (blockElems d / 64)).all fun g =>
    scaleAt p g != 0xFF && ((fpOf d.srcType).isSome || decide (127 ≤ scaleAt p g))

def patchesOk (d : Desc) (p : List Byte) (h : Header) : Bool :=
  (List.range h.patches).all fun k =>
    decide (fld (patchAt p (payloadLen d) k) 0 13 < blockElems d) && fld (patchAt p (payloadLen d) k) 13 3 == 0

/-- The checks of R336 on a payload: CRC, header, layout, patches, scales, then base and table. -/
def blockFault (s : State) (d : Desc) (va : Nat) (p : List Byte) : Option BlockFault :=
  let h := readHeader p
  let l := payloadLen d
  let found := crc32c ((p.take l).drop 4)
  if found.toNat ≠ h.crc then some (.check 0 found)
  else if h.reserved || h.typ ≠ d.srcType || h.mode ≠ xMode d then some (.check 1 found)
  else if !layoutFits (blockElems d) l h then some (.check 2 found)
  else if 16 < h.patches || !patchesOk d p h then some (.check 3 found)
  else if !scalesOk d p then some (.check 4 found)
  else if h.base ≠ xBase d || h.baseBlock ≠ (if xBase d = 0 then 0 else baseNumber s d va) then some .base
  else if h.slot ≠ xSlot d || h.gen ≠ xGen d then some .table
  else none

/-- The table of the entry's generation, current or retiring. -/
def tableOf (s : State) (d : Desc) : BitVec 512 :=
  match Tbl.get? s.tables (xSlot d) with
  | some t => if t.gen = xGen d then t.table else (t.retiring.map Retiring.table).getD 0
  | none => 0

/-- Element `e` of packed data. -/
def packedElem (bits : Nat) (l : List Byte) (e : Nat) : Nat :=
  if bits = 4 then fld (byteOf l (e / 2)) (4 * (e % 2)) 4 else wordOf l (e * (bits / 8)) (bits / 8)

/-- round_to_src (R315). -/
def roundToSrc (t : Nat) (v : Num) : Nat :=
  match v with
  | .fin _ _ _ => writeNum t .nearestSat v
  | _ => writeNum t .nearest v

/-- Delta of element `e` (R313, R314). -/
def deltaAt (p : List Byte) (table : BitVec 512) (n c e : Nat) : Int :=
  let code := fld (wordOf p (codesAt n) (n * c / 64)) (c * (e / 8)) c
  toSigned 4 (fld table.toNat (32 * code + 4 * (e % 8)) 4)

/-- The decoded element `e`, its last patch included (R314). -/
def decodeElem (d : Desc) (p base : List Byte) (table : BitVec 512) (e : Nat) : Nat :=
  let h := readHeader p
  let n := blockElems d
  match findLast (fun k => fld (patchAt p (payloadLen d) k) 0 13 == e) (List.range h.patches) with
  | some k => writeNum d.srcType .nearestSat (readNum 1 (fld (patchAt p (payloadLen d) k) 16 16))
  | none =>
    let b := if h.base = 0 then Num.fin false 0 0 else readNum d.srcType (packedElem (srcBits d) base e)
    let dv := deltaAt p table n (codeBits h) e
    roundToSrc d.srcType (b.add (dyadic dv ((scaleAt p (e / 64) : Int) - 127)))

end Sys2Proof.Machine
end

