-- ==== Sys2Proof/Machine/Jobs.lean ====
section
/-! DEFINITION. The plain commands of Hexob: NOP, IDENTIFY, SVN_COMMIT, the core-to-port map, and the admission and
query of jobs (02_ports.md, 03_bringup.md, 04_mailboxes.md). JOB_RELEASE is in Machine/Release.lean. -/

namespace Sys2Proof.Machine

def specNop : CmdSpec := { op := 0x0100, hw := false, sel := fun _ => true, flds := fun _ _ => [], act := fun _ s => (s, okEmpty) }

/-- NOP: an empty result (R145). -/
def execNop (m : Fin 8) (s : State) : Host.Outcome State Fault Refusal := .next (runCmd specNop m s)

def identity (s : State) : Nat := pack [(64, identWord), (64, configStatus s), (64, fwVersion s)]

def specIdentify : CmdSpec :=
  { op := 0x0101, hw := false, sel := fun _ => true, flds := fun _ _ => [], act := fun _ s => (s, okWith 24 (identity s)) }

/-- IDENTIFY: IDENT, CONFIG_STATUS and FW_VERSION (R145). -/
def execIdentify (m : Fin 8) (s : State) : Host.Outcome State Fault Refusal := .next (runCmd specIdentify m s)

def commitSvn (s : State) : State :=
  { s with fuses := { s.fuses with svnMin := if s.fuses.svnMin.toNat < s.bring.svn.toNat then s.bring.svn else s.fuses.svnMin } }

def specSvnCommit : CmdSpec :=
  { op := 0x0113, hw := false, sel := fun _ => true, flds := fun _ _ => [], act := fun _ s => (commitSvn s, okEmpty) }

/-- SVN_COMMIT (R91). -/
def execSvnCommit (m : Fin 8) (s : State) : Host.Outcome State Fault Refusal := .next (runCmd specSvnCommit m s)

/-! The core-to-port map (R45, R59, R60). -/

def entryBit (i lo : Nat) : Nat := 32 + 32 * i + lo

def bodyCore (body i : Nat) : CoreEntry :=
  { present := fld body (entryBit i 31) 1 == 1, port := fld body (entryBit i 25) 6, slot := fld body (entryBit i 21) 4,
    opbuf := fld body (entryBit i 12) 9, inbox := fld body (entryBit i 7) 5 }

def coreEntry (s : State) (c : Nat) : CoreEntry :=
  Tbl.getD s.cores c { present := false, port := 0, slot := 0, opbuf := 0, inbox := 0 }

/-- The core is the target of an admitted stream, or bound as one is (R343), or the reader of an open queue (R60). A combining
queue is open until it is closed. DESIGN CHOICE (log entry 100). -/
def coreBusy (s : State) (c : Nat) : Bool :=
  (s.streams.any fun e =>
    match e.2.desc with
    | some d => d.dstSpace == spCore && coreOf d.dstAddr == c
    | none => false) ||
  (s.bindings.any fun e => e.1 / 4 == c) ||
  s.queues.any fun e => e.2.state != 2 && e.2.reader == c

def samePlace (a b : CoreEntry) : Bool := a.present && b.present && a.port == b.port && a.slot == b.slot

/-- Entry `i` meets a present core outside the command, or one of an earlier entry. -/
def placeTaken (s : State) (body i : Nat) : Bool :=
  (s.cores.any fun e =>
    !decide (fld body 0 16 ≤ e.1 ∧ e.1 < fld body 0 16 + fld body 16 16) && samePlace e.2 (bodyCore body i)) ||
  (List.range i).any fun k => samePlace (bodyCore body k) (bodyCore body i)

/-- A changed entry keeps nothing of an absent core but its absence. -/
def changesCore (s : State) (c : Nat) (x : CoreEntry) : Bool :=
  (x.present || (coreEntry s c).present) && coreEntry s c != x

def coreFlds (s : State) (i : Nat) : List Fld :=
  [inEntry i (chk 4 (entryBit i 12) 9 (clampIn 1 256)),
    inEntry i (chk 5 (entryBit i 7) 5 (clampIn 1 16)),
    inEntry i (rsvd 6 (entryBit i 0) 7),
    chk 2 0 16 fun v => refuseUnless (decide (v + i < 1024)),
    inEntry i (chkB 2 (entryBit i 25) 6 fun b _ => refuseUnless (!placeTaken s b i)),
    inEntry i (chkB 1 (entryBit i 31) 1 fun b _ => refuseUnless
      (!(coreBusy s (fld b 0 16 + i) && changesCore s (fld b 0 16 + i) (bodyCore b i))))]

def mapFlds (s : State) (_ : Nat) : List (Nat → List Fld) :=
  [fun _ => [chk 1 16 16 (clampIn 1 55)], fun body => (List.range (fld body 16 16)).flatMap (coreFlds s)]

/-- Number of an operand buffer at its port: slot × 4 + engine. -/
def bufNo (slot engine : Nat) : Nat := slot * 4 + engine

def portAt (s : State) (p : Nat) : Port := Tbl.getD s.ports p .reset

/-- The credit counts of a declared core start from its sizes (R52, R60). -/
def resetCredit (x : CoreEntry) (p : Port) : Port :=
  { p with
    credit := (List.range 4).foldl (fun t e => Tbl.put t (bufNo x.slot e) x.opbuf) p.credit
    inbox := Tbl.put p.inbox x.slot x.inbox }

def declareCore (body i : Nat) (s : State) : State :=
  let x := bodyCore body i
  { s with
    cores := Tbl.put s.cores (fld body 0 16 + i) x
    ports := if x.present then Tbl.put s.ports x.port (resetCredit x (portAt s x.port)) else s.ports }

def declareCores (body : Nat) (s : State) : State :=
  (List.range (fld body 16 16)).foldl (fun t i => declareCore body i t) s

def specCorePortMap : CmdSpec :=
  { op := 0x0108, hw := false, sel := fun _ => true, flds := mapFlds, act := fun c s => (declareCores c.body s, okEmpty) }

/-- CORE_PORT_MAP (R59, R60). -/
def execCorePortMap (m : Fin 8) (s : State) : Host.Outcome State Fault Refusal := .next (runCmd specCorePortMap m s)

/-! Admission (R146 to R148). -/

/-- The counts of the body in the order of R146: field index, place, width, least and greatest value. -/
structure ResField where
  idx : Nat
  lo : Nat
  w : Nat
  least : Nat
  most : Nat
deriving DecidableEq, Repr

def resFields : List ResField :=
  [{ idx := 3, lo := 208, w := 32, least := 1, most := 1048576 }, { idx := 4, lo := 192, w := 16, least := 1, most := 4096 },
    { idx := 5, lo := 160, w := 32, least := 0, most := 65536 }, { idx := 6, lo := 144, w := 16, least := 0, most := 4096 },
    { idx := 7, lo := 112, w := 32, least := 0, most := 65536 }, { idx := 8, lo := 96, w := 16, least := 0, most := 1024 },
    { idx := 9, lo := 88, w := 8, least := 0, most := 8 }, { idx := 10, lo := 80, w := 8, least := 0, most := 16 },
    { idx := 11, lo := 72, w := 8, least := 0, most := 100 }]

def admitFlds (_ : State) (_ : Nat) : List (Nat → List Fld) :=
  [fun _ => [chk 1 248 8 fun v => refuseUnless (decide (v ≤ 15)), rsvd 2 240 8] ++
    (resFields.map fun f => chk f.idx f.lo f.w (clampIn f.least f.most)) ++ [rsvd 12 0 72]]

def asked (body : Nat) : List Nat := resFields.map fun f => fld body f.lo f.w

def lowestJob (s : State) : Nat := (Tbl.firstFree s.jobs 1 15).getD 0

/-- The number the job would have; none where JOB does not fit (R148). -/
def jobFor (s : State) (v : Nat) : Option Nat :=
  if v = 0 then Tbl.firstFree s.jobs 1 15 else if Tbl.has s.jobs v then none else some v

/-- The first count that does not fit, by its place in the order of R146. -/
def firstShort (s : State) (body : Nat) : Option Nat :=
  (List.range 9).find? fun k => decide (resFree s k < (asked body).getD k 0)

def admitJob (j : Nat) (res : List Nat) (s : State) : State := { s with jobs := Tbl.put s.jobs j { res := res, releasing := false } }

def admitCmd (c : Cmd) (s : State) : State × Reply :=
  match jobFor s (fld c.body 248 8) with
  | none => (s, .done stAdmitRefused 1 noEntry 8 (lowestJob s))
  | some j =>
    match firstShort s c.body with
    | some k => (s, .done stAdmitRefused (3 + k) noEntry 8 (resFree s k))
    | none => (mirrorSend (.job j (some (asked c.body))) (admitJob j (asked c.body) s), okWith 8 j)

def specJobAdmit : CmdSpec := { op := 0x0102, hw := false, sel := fun _ => true, flds := admitFlds, act := admitCmd }

/-- JOB_ADMIT (R146 to R148). -/
def execJobAdmit (m : Fin 8) (s : State) : Host.Outcome State Fault Refusal := .next (runCmd specJobAdmit m s)

/-- JOB names an admitted job (R150). -/
def jobNamed (s : State) (v : Nat) : Bool := decide (1 ≤ v ∧ v ≤ 15) && Tbl.has s.jobs v

/-- Reserved and in use, 32 bits each, from STREAMS to CW_SHARE; no rule defines what of CW_SHARE is in use. -/
def jobUse (s : State) (j : Nat) : Nat :=
  pack ((List.range 9).flatMap fun k =>
    [(32, ((Tbl.get? s.jobs j).map Job.res |>.getD []).getD k 0),
      (32, if k = resShare then (freeVal 32 s).toNat else resUsed s j k)])

def specJobQuery : CmdSpec :=
  { op := 0x0104, hw := false, sel := fun _ => true,
    flds := fun s j => [fun _ => [chk 1 0 8 fun v => refuseUnless (jobNamed s v && mayName j v)]],
    act := fun c s => (freeNext s, okWith 72 (jobUse s (fld c.body 0 8))) }

/-- JOB_QUERY (R152). -/
def execJobQuery (m : Fin 8) (s : State) : Host.Outcome State Fault Refusal := .next (runCmd specJobQuery m s)

end Sys2Proof.Machine
end

