-- ==== Sys2Proof/Machine/Streams.lean ====
section
/-! DEFINITION. Streams: their contexts and the store, their slots, how an entry's completion is decided, halts, and
the stream commands (07_movers.md, R214 to R222, R239 to R251). -/

namespace Sys2Proof.Machine

/-! Contexts (R218 to R220). -/

def updStream (i : Nat) (f : Stream → Stream) (s : State) : State := { s with streams := Tbl.upd s.streams i f }
def updSlot (n : Nat) (f : Slot → Slot) (s : State) : State := { s with slots := Tbl.upd s.slots n f }
def updRing (r : Nat) (f : Ring → Ring) (s : State) : State := { s with rings := Tbl.upd s.rings r f }

def stFree : Nat := 0
def stIdle : Nat := 1
def stQueued : Nat := 2
def stRunning : Nat := 3
def stHalted : Nat := 4
def stLost : Nat := 5

/-- Position and WRAP bit of an entry of a ring, as ENTRY_POS and ENTRY_WRAP record them. -/
def entryPlace (s : State) (r pos : Nat) : Nat × Nat :=
  match Tbl.get? s.rings r with
  | some x => (posOf x pos, wrapOf x pos)
  | none => (pos % 65536, 0)

/-- The 64 bytes of a context (R219). -/
def ctxWord (x : Stream) : Nat :=
  pack [(3, 0), (1, x.placeWrap), (16, x.placePos), (12, x.ring), (7, x.mover), (2, x.paceKind),
    (3, x.state), (1, b2n x.disable), (4, x.weight - 1), (3, x.prio), (4, x.job), (8, x.gen), (24, x.paceQueue), (8, 0),
    (16, x.low), (16, x.high), (64, x.tile), (64, x.bytes), (32, x.dropped), (32, x.crc.toNat), (48, x.faultAddr),
    (16, x.promoted), (54, 0), (1, b2n x.part), (1, b2n x.faultDir), (8, x.haltStatus), (64, 0)]

/-- Physical address of a context in the store (R218). -/
def ctxAddr (s : State) (i : Nat) : Option Nat := (ctxRegion s).map fun r => r.1 + 64 * i

/-- Writes the context back to the store, where there is one (R220). -/
def storeCtx (i : Nat) (s : State) : State :=
  match ctxAddr s i, Tbl.get? s.streams i with
  | some pa, some x =>
    if (stackAt s (pa / stackSpan)).state = 1 then
      { s with mem := stackPutAll (material s 0) s.mem pa (natToBytes 64 (ctxWord x)) }
    else s
  | _, _ => s

/-- Writes every cached context to a store that has just been placed. -/
def storeCached (s : State) : State := s.ctxCache.foldl (fun t e => e.2.foldl (fun u i => storeCtx i u) t) s

/-- The set of the context cache that holds an index: slice i mod 4, then 512 sets (R220). -/
def ctxSet (i : Nat) : Nat := i % 4 * 512 + i / 4 % 512

def cached (s : State) (i : Nat) : Bool := (Tbl.getD s.ctxCache (ctxSet i) []).contains i

def runningCtx (s : State) (i : Nat) : Bool := ((Tbl.get? s.streams i).map Stream.state).getD 0 == stRunning
def streamJob (s : State) (i : Nat) : Nat := ((Tbl.get? s.streams i).map Stream.job).getD 0
def pacedNow (s : State) (i : Nat) : Bool := ((Tbl.get? s.streams i).map Stream.paced).getD false

/-- The context that leaves a full set: the least recently used that is not pinned. -/
def ctxVictim (s : State) (set : Nat) : Option Nat :=
  findLast (fun k => !runningCtx s k) (Tbl.getD s.ctxCache set [])

def putSet (set : Nat) (l : List Nat) (s : State) : State := { s with ctxCache := Tbl.put s.ctxCache set l }

/-- Brings a context into its set, writing back the one it replaces; nothing changes where all eight are pinned. -/
def installCtx (i : Nat) (s : State) : State :=
  let l := Tbl.getD s.ctxCache (ctxSet i) []
  if l.contains i then putSet (ctxSet i) (i :: l.filter fun k => k != i) s
  else if l.length < 8 then putSet (ctxSet i) (i :: l) s
  else
    match ctxVictim s (ctxSet i) with
    | some v => putSet (ctxSet i) (i :: l.filter fun k => k != v) (storeCtx v s)
    | none => s

def dropCtx (i : Nat) (s : State) : State :=
  putSet (ctxSet i) ((Tbl.getD s.ctxCache (ctxSet i) []).filter fun k => k != i) s

/-! Completions of entries (R157, R158). -/

def entryOf (s : State) (r pos : Nat) : Option RingEntry :=
  (Tbl.get? s.rings r).bind fun x => x.entries.find? fun e => e.pos == pos

def updEntry (pos : Nat) (f : RingEntry → RingEntry) (x : Ring) : Ring :=
  { x with entries := x.entries.map fun e => if e.pos = pos then f e else e }

def decideEntry (c : Completion) (e : RingEntry) : RingEntry :=
  match e.st with
  | .fetched => { e with st := .held c }
  | .started => { e with st := .held c }
  | _ => e

/-- The completion of an entry is decided; ENTRY_COMPLETE writes it. -/
def settleEntry (r pos : Nat) (c : Completion) (s : State) : State := updRing r (updEntry pos (decideEntry c)) s

/-- The fetching mover of a ring (R165). -/
def fetchMover (s : State) (r : Nat) : Nat := ((Tbl.get? s.rings r).map Ring.quarter).getD 0 * 24 + r % 2

/-- A completion of an entry that moved no data. -/
def noData (status mover : Nat) : Completion :=
  { status := status, mover := mover, faultValid := false, faultDir := false, crc := 0, bytes := 0, faultAddr := 0 }

/-- A completion whose BYTE_COUNT and CRC are undefined (R157). -/
def undefData (s : State) (status mover : Nat) (fault : Option (Nat × Bool)) : Completion :=
  { status := status, mover := mover, faultValid := fault.isSome, faultDir := (fault.map Prod.snd).getD false,
    crc := freeVal 32 s, bytes := freeVal 64 (freeNext s), faultAddr := (fault.map Prod.fst).getD 0 }

def settleUndef (r pos status mover : Nat) (fault : Option (Nat × Bool)) (s : State) : State :=
  settleEntry r pos (undefData s status mover fault) (freeNext (freeNext s))

/-! Slots and what they hold. -/

def slotMover (n : Nat) : Nat := n / 32
def moverQuarter (m : Nat) : Nat := m / 24

def ofBurst (ids : List Nat) (w : Who) : Bool :=
  match w with
  | .burst b => ids.contains b
  | _ => false

/-! Pacing (R233, R235). -/

def setPort (p : Nat) (f : Port → Port) (s : State) : State := { s with ports := Tbl.put s.ports p (f (portAt s p)) }

def fillOf (p : Port) (buf : Nat) : Nat := Tbl.getD p.fill buf 0

/-- The target that paces a stream: an operand buffer of a port, or a queue. -/
def paceTarget (s : State) (x : Stream) : Option (Option Nat × Nat) :=
  if x.paceKind = 1 then
    match x.desc with
    | some d =>
      if d.dstSpace = spCore then
        (coreAt s (coreOf d.dstAddr)).map fun c => (some c.port, bufNo c.slot (engineOf d.dstAddr))
      else none
    | none => none
  else if x.paceKind = 2 then some (none, fld x.paceQueue 0 16)
  else none

/-- Each number once, in order of its first place. -/
def dedupe : List Nat → List Nat
  | [] => []
  | x :: xs => x :: (dedupe xs).filter fun y => y != x

/-- Movers with a running stream paced by the target. -/
def pacedMovers (s : State) (t : Option Nat × Nat) : List Nat :=
  dedupe ((s.streams.filter fun e => e.2.state == stRunning && paceTarget s e.2 == some t).map fun e => e.2.mover)

/-- A fall of the fill is told to the movers. -/
def tellFill (t : Option Nat × Nat) (fill : Nat) (s : State) : State :=
  { s with notices := s.notices ++ (pacedMovers s t).map fun m => { mover := m, port := t.1, target := t.2, fill := fill } }

/-! Deliveries that fail (R56, R263). -/

/-- The bit falls unless an overdue delivery to the buffer, or a failed one's record, keeps it high. -/
def dropNrdy (buf : Nat) (p : Port) : Port :=
  if p.nrdyHeld.any (fun h => h.1 == buf) || p.dlvs.any (fun d => d.buf == buf && d.overdue) then p
  else { p with nrdy := p.nrdy &&& ~~~(1#64 <<< buf) }

/-- The delivery leaves the port with the lines it never presented; a bit it has raised stays until `h` lets it fall. -/
def failDelivery (h : Option NrdyHold) (d : Delivery) (p : Port) : Port :=
  let q := { p with dlvs := p.dlvs.filter fun x => x.id != d.id, fill := Tbl.put p.fill d.buf (fillOf p d.buf - d.lines) }
  if d.overdue then
    match h with
    | some k => { q with nrdyHeld := q.nrdyHeld ++ [(d.buf, k)] }
    | none => dropNrdy d.buf q
  else q

/-- The same, told to the movers paced by the buffer where its fill falls. -/
def failAt (h : Option NrdyHold) (p : Nat) (s : State) (d : Delivery) : State :=
  let t := setPort p (failDelivery h d) s
  if d.lines = 0 then t else tellFill (some p, d.buf) (fillOf (portAt t p) d.buf) t

/-- Fails the deliveries that `pick` names. -/
def failPicked (h : Option NrdyHold) (pick : Delivery → Bool) (s : State) : State :=
  s.ports.foldl (fun t e => (e.2.dlvs.filter pick).foldl (failAt h e.1) t) s

/-- The bits that `k` held fall. -/
def freeHolds (k : NrdyHold → Bool) (p : Port) : Port :=
  (p.nrdyHeld.filter fun h => k h.2).foldl (fun q h => dropNrdy h.1 q) { p with nrdyHeld := p.nrdyHeld.filter fun h => !k h.2 }

/-- What `k` names has been written: the bits it held fall at every port. -/
def freeNrdy (k : NrdyHold → Bool) (s : State) : State :=
  if s.ports.any fun e => e.2.nrdyHeld.any fun h => k h.2 then { s with ports := s.ports.mapV fun _ p => freeHolds k p } else s

/-- Grant requests and deliveries of a slot go. -/
def failSlot (h : Option NrdyHold) (n : Nat) (s : State) : State :=
  failPicked h (fun d => d.slot == n)
    { s with ports := s.ports.mapV fun _ p => { p with greqs := p.greqs.filter fun g => g.slot != n } }

def slotBursts (s : State) (n : Nat) : List Nat := (s.bursts.filter fun e => e.2.slot == n).map Prod.fst

/-- Releases a pin on a base-cache entry (R333). -/
def unpin (k : Option (Nat × Nat)) (x : Expander) : Expander :=
  match k with
  | none => x
  | some (b, n) => { x with cache := x.cache.map fun l => if l.base = b ∧ l.block = n then { l with pins := l.pins - 1 } else l }

/-- Gives back one credit and its pin. -/
def freeCredit (k : Option (Nat × Nat)) (x : Expander) : Expander := unpin k { x with used := x.used - 1 }

/-- Credits that a slot and its bursts hold: expander and pin. -/
def creditsOf (s : State) (n : Nat) : List (Nat × Option (Nat × Nat)) :=
  (s.bursts.filterMap fun e => if e.2.slot = n ∧ e.2.block.isSome then some (e.2.expander, e.2.pin) else none) ++
    (match Tbl.get? s.slots n with
    | some x => (x.creditHeld.map fun k => (k, x.pin)).toList
    | none => [])

/-- An expander gives up what a slot holds of it. -/
def freeSlotExpander (n k : Nat) (ids : List Nat) (held : List (Nat × Option (Nat × Nat))) (x : Expander) : Expander :=
  (held.filter fun h => h.1 == k).foldl (fun y h => freeCredit h.2 y)
    { x with waiting := x.waiting.filter fun w => w != n, input := x.input.filter fun b => !ids.contains b }

/-- Drops every access, delivery, grant and credit of a slot (R245, R248). -/
def discardSlot (h : Option NrdyHold) (n : Nat) (s : State) : State :=
  let ids := slotBursts s n
  failSlot h n
    { s with
      bursts := s.bursts.filter fun e => e.2.slot != n
      mem := { s.mem with reqs := s.mem.reqs.filter fun r => !ofBurst ids r.who }
      expanders := s.expanders.mapV fun k x => freeSlotExpander n k ids (creditsOf s n) x
      xlate := { s.xlate with wds := s.xlate.wds.map fun w => { w with drained := w.drained.filter fun d => d.1 != n } } }

def emptySlot (x : Slot) : Slot :=
  { x with cur := none, nxt := none, grant := none, grantAsked := false, creditHeld := none, creditAsked := false, pin := none,
           release := true, failing := none }

/-- The slot of a stream is dropped and becomes free at the next burst boundary (R226). -/
def giveUpSlot (h : Option NrdyHold) (i : Nat) (s : State) : State :=
  match (Tbl.get? s.streams i).bind Stream.slot with
  | some n => updStream i (fun x => { x with slot := none }) (updSlot n emptySlot (discardSlot h n s))
  | none => s

def leaveQueues (i : Nat) (s : State) : State :=
  { s with admission := s.admission.mapV fun _ l => l.filter fun k => k != i }

/-- IDLE with its halt latch cleared. -/
def toIdle (x : Stream) : Stream :=
  { x with state := stIdle, ran := false, haltStatus := 0, faultAddr := 0, faultDir := false, part := false, desc := none, paced := false,
           fed := false, canon := [] }

/-- As STREAM_ALLOC left the fields that a reset clears (R248). -/
def toReset (x : Stream) : Stream := { toIdle x with tile := 0, cursor := { elem := 0, rows := 0 }, bytes := 0, crc := crcStart, crcElem := 0 }

/-- MOVER of the entry in progress (R157): the mover that has executed it, or the fetching mover. -/
def ranOn (s : State) (x : Stream) : Nat := if x.ran then x.mover else fetchMover s x.ring

/-! What a quantiser holds for a stream (R348, R367 to R369). -/

def quantAt (s : State) (k : Nat) : Quantiser := Tbl.getD s.quants k .reset
def setQuant (k : Nat) (f : Quantiser → Quantiser) (s : State) : State := { s with quants := Tbl.put s.quants k (f (quantAt s k)) }
def quantFn (k : Nat) : Fn := .quantiser (Fin.ofNat 4 (k / 8))

def dropReplays (i : Nat) (s : State) : State :=
  { s with quants := s.quants.mapV fun _ q => { q with replay := q.replay.filter fun b => b.stream != i } }

def endRow (i : Nat) (s : State) : State :=
  { s with bindings := s.bindings.mapV fun _ b => if b.stream = i then { b with acc := none } else b }

/-- Quantiser of a port (R342), and of a core. -/
def quantOf (p : Nat) : Nat := p / 16 * 8 + p % 16 / 2
def quantOfCore (s : State) (core : Nat) : Nat := quantOf (((Tbl.get? s.cores core).map CoreEntry.port).getD 0)

/-- The beat is an ACTIVATION of the binding's source, on the port of its core. -/
def beatOfBinding (c : CoreEntry) (k : Nat) (b : RtnBeat) : Bool :=
  b.kind == 0 && b.core.toNat == c.slot && b.sel.toNat % 4 == k % 4

/-- The beats of a source that the port has not yet handed on leave its lanes, each with its credit. -/
def dropLaneBeats (k : Nat) (s : State) : State :=
  match coreAt s (k / 4) with
  | none => s
  | some c =>
    let p := portAt s c.port
    let gone := fun (l : List (Nat × RtnBeat)) => (l.filter fun e => beatOfBinding c k e.2).length
    let keep := fun (l : List (Nat × RtnBeat)) => l.filter fun e => !beatOfBinding c k e.2
    if gone p.lane0 + gone p.lane1 = 0 then s
    else
      bump 4 (quantOfCore s (k / 4)) 3 (gone p.lane0 + gone p.lane1)
        (setPort c.port (fun x => { x with lane0 := keep x.lane0, lane1 := keep x.lane1, rtnCredit := [gone p.lane0, gone p.lane1] }) s)

/-- Discards the held beats of a binding, each counted (R348, R374). -/
def dropHeld (k : Nat) (b : Binding) (s : State) : State :=
  bump 4 (quantOfCore s (k / 4)) 3 b.heldBeats.length
    { s with bindings := Tbl.put s.bindings k { b with held := [], heldBeats := [], acc := none } }

def dropHeldOf (i : Nat) (s : State) : State :=
  match s.bindings.find? fun e => e.2.stream == i with
  | some (k, b) => dropHeld k b (dropLaneBeats k s)
  | none => s

/-- A feed is granted and presented under a number of its stream, which no slot has (R363). -/
def feedSlot (i : Nat) : Nat := 4096 + i

/-- Cuts short the feed of a stream (R363). -/
def dropFeed (h : Option NrdyHold) (i : Nat) (s : State) : State := failSlot h (feedSlot i) s

/-- Every token of the stream's feed has been presented. -/
def feedDone (s : State) (i : Nat) : Bool :=
  s.ports.all fun e => (e.2.greqs.all fun g => g.slot != feedSlot i) && e.2.dlvs.all fun d => d.slot != feedSlot i

/-- Slots that the deliveries left behind by a halted stream of mover `m` carry: their burst has reached the port. -/
def orphanSlot (m : Nat) : Nat := 3072 + m

/-- A delivery of the stream that a halt has left at the port. -/
def isOrphan (i : Nat) (d : Delivery) : Bool := d.stream == i && decide (3072 ≤ d.slot ∧ d.slot < 4096)

def dropOrphans (h : Option NrdyHold) (i : Nat) (s : State) : State := failPicked h (isOrphan i) s

/-- The entry in progress completes with `status`, also where a completion was decided and not yet written (R247, R470). -/
def settleDropped (status r pos mover : Nat) (s : State) : State :=
  updRing r (updEntry pos fun e =>
      match e.st with
      | .held _ => { e with st := .held (undefData s status mover none) }
      | _ => decideEntry (undefData s status mover none) e) (freeNext (freeNext s))

/-- Drops everything that a stream has in the complex (R245). -/
def dropWork (h : Option NrdyHold) (i : Nat) (s : State) : State :=
  dropHeldOf i (dropOrphans h i (dropFeed h i (dropReplays i (leaveQueues i (giveUpSlot h i s)))))

/-- Sets the disable bit: everything of the stream is dropped and its entry completes STREAM_DISABLED (R222, R245). The
destination bytes of the entry are undefined; DESIGN CHOICE (log entry 88): those that have landed stay. -/
def disableStream (i : Nat) (s : State) : State :=
  match Tbl.get? s.streams i with
  | none => s
  | some x =>
    if 2 ≤ x.state ∧ x.state ≤ 4 then
      storeCtx i (updStream i (fun y => { toIdle y with disable := true })
        (settleDropped stDisabled x.ring x.entryPos (ranOn s x) (dropWork (some (.completion x.ring x.entryPos)) i s)))
    else storeCtx i (updStream i (fun y => { y with disable := true }) (dropHeldOf i (dropOrphans none i s)))

/-! Halts (R239, R240, R492). -/

def haltRec (s : State) (i : Nat) (x : Stream) (f : Failure) (part : Bool) : PeatRec :=
  mkRec s 0x030 1 (islMover x.mover) [i, x.gen, f.status, x.tile]
    [pack [(19, 0), (7, x.mover), (1, b2n part), (1, b2n f.write), (8, f.status), (8, x.gen), (20, i)],
      pack [(48, f.addr), (4, 0), (12, x.ring)], x.tile, pack [(42, f.detail)]]

def latch (f : Failure) (part : Bool) (x : Stream) : Stream :=
  { x with state := stHalted, paced := false, haltStatus := f.status, faultAddr := f.addr, faultDir := f.write, part := part }

def tileLanded (s : State) (x : Stream) : Bool :=
  match (x.slot.bind fun n => Tbl.get? s.slots n).bind Slot.cur with
  | some t => t.landedAny
  | none => false

/-- Deliveries whose burst has reached the port go on without their slot. -/
def orphanDeliveries (n : Nat) (s : State) : State :=
  { s with ports := s.ports.mapV fun _ p =>
      { p with dlvs := p.dlvs.map fun d => if d.slot = n ∧ d.ready then { d with slot := orphanSlot (slotMover n) } else d } }

/-- What a halt leaves in its slot goes: only the deliveries at the port and the acknowledgements of remote writes are still
to come (R158). -/
def leaveSlot (h : Option NrdyHold) (i : Nat) (x : Stream) (s : State) : State :=
  match x.slot with
  | some n => updStream i (fun y => { y with owed := y.owed ++ slotBursts s n }) (giveUpSlot h i (orphanDeliveries n s))
  | none => s

/-- The stream halts: latch, record, cause, context written back, slot given up (R239). A disable prevails over it
(R247), since a disabled stream is not RUNNING. -/
def haltStream (i : Nat) (f : Failure) (part : Bool) (needs : Option Nat) (s : State) : State :=
  match Tbl.get? s.streams i with
  | none => s
  | some x =>
    if x.state = stRunning then
      let r := haltRec s i x f part
      storeCtx i (setCause 2 (moverQuarter x.mover) (offer needs r (updStream i (latch f part)
        (leaveSlot ((offeredIn needs r s).map NrdyHold.record) i x s))))
    else s

/-! STREAM_ALLOC and STREAM_FREE (R214 to R217). -/

def genOf (s : State) (i : Nat) : Nat := Tbl.getD s.streamGen i 0

def handleOf (i g : Nat) : Nat := i + g * 2 ^ 20

/-- PACE_QUEUE names an open queue of the command's job. -/
def paceQueueOk (s : State) (j v : Nat) : Bool :=
  match Tbl.get? s.queues (fld v 0 16) with
  | some q => q.state == 1 && Tbl.getD s.queueGen (fld v 0 16) 0 == fld v 16 8 && q.job == j
  | none => false

def allocFlds (s : State) (j : Nat) : List (Nat → List Fld) :=
  [fun _ => [
    chk 1 96 32 fun v => refuseUnless
      (v == 0xFFFFFFFF || (decide (v < 1048576) && !Tbl.has s.streams v && decide (v < streamBound s))),
    chk 2 88 8 fun v => refuseUnless (decide (v < 3)),
    chkB 3 64 24 fun b v => if fld b 88 8 = 2 then refuseUnless (paceQueueOk s j v) else .setTo 0,
    chk 4 48 16 fun v => .setTo (max v 1),
    chkB 5 32 16 fun b v => .setTo (min v (fld b 48 16 - 1)),
    chk 6 24 8 (clampIn 1 16),
    chk 7 16 8 fun v => .setTo (min v 7),
    rsvd 8 0 16]]

def newStream (c : Cmd) (gen : Nat) : Stream :=
  { job := c.job, prio := fld c.body 16 8, weight := fld c.body 24 8, paceKind := fld c.body 88 8,
    paceQueue := fld c.body 64 24, high := fld c.body 48 16, low := fld c.body 32 16, gen := gen, state := stIdle,
    disable := false, mover := 0x7F, ring := 0, entryPos := 0, placePos := 0, placeWrap := 0, ran := false, owed := [], tile := 0, cursor := { elem := 0, rows := 0 }, bytes := 0,
    crc := crcStart, dropped := 0, promoted := 0, faultAddr := 0, faultDir := false, part := false, haltStatus := 0,
    slot := none, quarter := 0, desc := none, waiting := [], paced := false, fed := false, canon := [], crcElem := 0 }

def allocStream (c : Cmd) (s : State) : State × Reply :=
  let v := fld c.body 96 32
  match (if v = 0xFFFFFFFF then Tbl.firstFree s.streams 0 (streamBound s) else some v) with
  | none => (s, endWith stExhausted)
  | some i =>
    if mayCreate s c.job resStreams 1 then
      (mirrorSend (.stream i (some (BitVec.ofNat 128 c.body)) c.job)
        (installCtx i { s with streams := Tbl.put s.streams i (newStream c (genOf s i)) }), okWith 8 (handleOf i (genOf s i)))
    else (s, endWith stExhausted)

def specStreamAlloc : CmdSpec := { op := 0x0210, hw := false, sel := fun _ => true, flds := allocFlds, act := allocStream }

/-- STREAM_ALLOC (R215, R216). -/
def execStreamAlloc (m : Fin 8) (s : State) : Host.Outcome State Fault Refusal := .next (runCmd specStreamAlloc m s)

def bodyIndex (body : Nat) : Nat := fld body 0 20

/-- HANDLE names an allocated stream of the command's job, by its current generation. -/
def handleOk (s : State) (j v : Nat) : Bool :=
  match Tbl.get? s.streams (fld v 0 20) with
  | some x => x.gen == fld v 20 8 && mayName j x.job
  | none => false

def handleFlds (ok : Nat → Bool) (s : State) (j : Nat) : List (Nat → List Fld) :=
  [fun _ => [rsvd 1 28 4, chk 2 0 28 fun v => refuseUnless
    (handleOk s j v && ok (((Tbl.get? s.streams (fld v 0 20)).map Stream.state).getD 0))]]

def staleAll (i : Nat) (l : List (Nat × Nat)) (s : State) : State :=
  l.foldl (fun t e => settleEntry e.1 e.2 (noData stStale (fetchMover t e.1)) t) (dropCtx i s)

/-- The generation advances; entries that still wait for the stream have a stale handle (R217). -/
def freeStream (i : Nat) (s : State) : State :=
  match Tbl.get? s.streams i with
  | none => s
  | some x =>
    staleAll i x.waiting <| mirrorSend (.stream i none 0)
      { s with
        streams := Tbl.del s.streams i
        streamGen := Tbl.put s.streamGen i ((x.gen + 1) % 256)
        ctxReads := s.ctxReads.filter fun k => k != i }

def specStreamFree : CmdSpec :=
  { op := 0x0211, hw := false, sel := fun _ => true, flds := handleFlds fun st => st == stIdle || st == stLost,
    act := fun c s => (freeStream (bodyIndex c.body) s, okEmpty) }

/-- STREAM_FREE (R217). -/
def execStreamFree (m : Fin 8) (s : State) : Host.Outcome State Fault Refusal := .next (runCmd specStreamFree m s)

/-! STREAM_RESUME and STREAM_ABORT (R241 to R243). -/

def enqueue (q i : Nat) (s : State) : State :=
  { s with admission := Tbl.put s.admission q (Tbl.getD s.admission q [] ++ [i]) }

def requeue (x : Stream) : Stream :=
  { x with state := stQueued, haltStatus := 0, faultAddr := 0, faultDir := false, part := false }

def resumeStream (i : Nat) (s : State) : State × Reply :=
  match Tbl.get? s.streams i with
  | some x =>
    if x.state = stHalted then (enqueue x.quarter i (updStream i requeue s), okWith 1 0) else (s, okWith 1 1)
  | none => (s, okWith 1 1)

def specStreamResume : CmdSpec :=
  { op := 0x0212, hw := false, sel := fun _ => true, flds := handleFlds fun _ => true,
    act := fun c s => resumeStream (bodyIndex c.body) s }

/-- STREAM_RESUME (R241, R243). -/
def execStreamResume (m : Fin 8) (s : State) : Host.Outcome State Fault Refusal := .next (runCmd specStreamResume m s)

def abortStream (i : Nat) (s : State) : State × Reply :=
  match Tbl.get? s.streams i with
  | some x =>
    if x.state = stHalted then
      (storeCtx i (updStream i toIdle
        (settleUndef x.ring x.entryPos x.haltStatus x.mover
          (if x.haltStatus = stScaleInvalid then none else some (x.faultAddr, x.faultDir)) (dropFeed none i (endRow i (dropReplays i s))))), okWith 1 0)
    else (s, okWith 1 1)
  | none => (s, okWith 1 1)

def specStreamAbort : CmdSpec :=
  { op := 0x0213, hw := false, sel := fun _ => true, flds := handleFlds fun _ => true,
    act := fun c s => abortStream (bodyIndex c.body) s }

/-- STREAM_ABORT (R242, R243). -/
def execStreamAbort (m : Fin 8) (s : State) : Host.Outcome State Fault Refusal := .next (runCmd specStreamAbort m s)

/-! STREAM_DISABLE (R246). -/

def disableFlds (s : State) (j : Nat) : List (Nat → List Fld) :=
  [fun _ => [rsvd 1 33 31, chk 2 32 1 fun _ => .ok, rsvd 3 28 4, chk 4 0 28 fun v => refuseUnless (handleOk s j v)]]

/-- The STATE held and, in bit 7, the previous DISABLE. -/
def disableResult (s : State) (i : Nat) : Nat :=
  match Tbl.get? s.streams i with
  | some x => x.state + b2n x.disable * 128
  | none => 0

def specStreamDisableSet : CmdSpec :=
  { op := 0x0214, hw := false, sel := fun b => fld b 32 1 == 1, flds := disableFlds,
    act := fun c s => (disableStream (bodyIndex c.body) s, okWith 1 (disableResult s (bodyIndex c.body))) }

/-- STREAM_DISABLE with SET = 1 (R245, R246). -/
def execStreamDisableSet (m : Fin 8) (s : State) : Host.Outcome State Fault Refusal := .next (runCmd specStreamDisableSet m s)

def specStreamDisableClear : CmdSpec :=
  { op := 0x0214, hw := false, sel := fun b => fld b 32 1 == 0, flds := disableFlds,
    act := fun c s =>
      (updStream (bodyIndex c.body) (fun x => { x with disable := false }) s, okWith 1 (disableResult s (bodyIndex c.body))) }

/-- STREAM_DISABLE with SET = 0 (R246). -/
def execStreamDisableClear (m : Fin 8) (s : State) : Host.Outcome State Fault Refusal := .next (runCmd specStreamDisableClear m s)

end Sys2Proof.Machine
end

