-- ==== Sys2Proof/Machine/Bringup.lean ====
section
/-! DEFINITION. Power, the three resets as far as the whole complex goes, test access, and bring-up from S0 to S5
(02_ports.md, 03_bringup.md). The training of Causeway ports is in Machine/Links.lean. -/

namespace Sys2Proof.Machine

/-! Resets (R78 to R84). -/

/-- An outstanding HRP request is answered by the shell (R84). -/
def shellAnswer (r : HrpRsp) : HrpRsp := { tag := r.tag, rdata := 0, status := 1 }

/-- A Causeway port's enables fall (R46, R66). -/
def darken (x : CPort) : CPort := { x with oeEn := false, laserEn := false }

/-- A core delivery port presents nothing (R46). -/
def quietPort (x : Port) : Port := { x with nrdy := 0, out := [], rtnCredit := [] }

/-- Isolation clamps the outputs of every port (R46, R83). -/
def isolate (s : State) : State :=
  { s with
    ports := s.ports.mapV fun _ x => quietPort x
    stackTbl := s.stackTbl.mapV fun _ x => { x with updating := false }
    cw := { s.cw with ports := s.cw.ports.mapV fun _ x => { darken x with out := [] } } }

/-- Pins of a stack or port keep their levels through a warm reset. -/
def pinsOfStack (_ : Nat) (x : Stack) : Stack := { Stack.reset with cattrip := x.cattrip }
def pinsOfPort (_ : Nat) (x : CPort) : CPort := { CPort.reset with faultN := x.faultN, los := x.los }

/-- What a warm reset leaves (R78): everything cleared but Peat, the SPLIT and UCIE_MODS latches, the fuses, the
Hexob image, the TAP, and what stands outside the complex. -/
def dropAll (s : State) : State :=
  { State.reset with
    pending := s.pending
    straps := s.straps
    fuses := s.fuses
    tap := s.tap
    freeTick := s.freeTick
    bring := { Bringup.reset with
      pwrOk := s.bring.pwrOk, rstN := s.bring.rstN, shutdown := s.bring.shutdown, warm := true,
      image := s.bring.image }
    hrp := { s.hrp with rsp := s.hrp.rsp.map shellAnswer }
    peat := { s.peat with online := false, pend := [] }
    mem := { MemSys.reset with stackEpoch := s.mem.stackEpoch + 1, hostOut := s.mem.hostOut }
    stackTbl := s.stackTbl.mapV pinsOfStack
    cw := { Causeway.reset with ports := s.cw.ports.mapV pinsOfPort }
    power := { Power.reset with
      temps := s.power.temps, hot := s.power.hot, hotTemp := s.power.hotTemp, tempMax := s.power.hotTemp
      mons := s.power.mons, oscs := s.power.oscs } }

/-- Entry to S0: SPLIT = 0b11 stops bring-up (R85, R86). -/
def enterS0 (s : State) : State :=
  { s with bring := { s.bring with stage := 0, stopCause := if s.straps.split = 3 then 1 else 0 } }

/-- The state after a cold reset with the straps sampled; bring-up waits in S0 while RST_N is low (R78, R81). -/
def coldState (straps : Straps) (s : State) : State :=
  enterS0 { State.reset with
    pending := s.pending
    straps := straps
    fuses := s.fuses
    freeTick := s.freeTick
    bring := { Bringup.reset with rstN := s.bring.rstN }
    mem := { MemSys.reset with stackEpoch := s.mem.stackEpoch + 1, hostOut := s.mem.hostOut } }

/-- COLD_RESET (R78, R79). -/
def execColdReset (cool split : BitVec 2) (mods : BitVec 4) (engines : BitVec 32) (s : State) :
    Host.Outcome State Fault Refusal :=
  .next (coldState { cool := cool, split := split, mods := mods, engines := engines } s)

/-- POWER_DOWN: PWR_OK falls and isolation applies (R46, R83). -/
def execPowerDown (s : State) : Host.Outcome State Fault Refusal :=
  .next (isolate { s with bring := { s.bring with pwrOk := false }, hrp := { s.hrp with rsp := s.hrp.rsp.map shellAnswer } })

/-- A falling RST_N; with PWR_OK low nothing is left to drop (R84). -/
def assertReset (s : State) : State :=
  let s1 := { s with bring := { s.bring with rstN := false } }
  if s.bring.pwrOk then dropAll s1 else s1

/-- WARM_RESET_ASSERT (R84). -/
def execWarmResetAssert (s : State) : Host.Outcome State Fault Refusal :=
  .next (if s.bring.rstN then assertReset s else s)

/-- Every sensor is below the trip temperature (R511). -/
def allCool (s : State) : Bool := s.power.temps.all fun e => decide (e.2 < tripTemp s.power.profile)

/-- A rising RST_N: COOL is sampled and bring-up restarts at S0 (R72, R84), unless a SHUTDOWN still holds (R511). -/
def releaseReset (cool : BitVec 2) (engines : BitVec 32) (s : State) : State :=
  let s1 := { s with bring := { s.bring with rstN := true },
                     straps := { s.straps with cool := cool, engines := engines } }
  if !s.bring.pwrOk || (s.bring.shutdown && !allCool s) then s1
  else enterS0 { s1 with bring := { s1.bring with shutdown := false } }

/-- WARM_RESET_RELEASE (R72, R84). -/
def execWarmResetRelease (cool : BitVec 2) (engines : BitVec 32) (s : State) : Host.Outcome State Fault Refusal :=
  .next (if s.bring.rstN then s else releaseReset cool engines s)

/-- RST_N held low for 1 µs, the straps' pins unchanged (R113). -/
def warmReset (s : State) : State := releaseReset s.straps.cool s.straps.engines (assertReset s)

def specWarmReset : CmdSpec :=
  { op := 0x0121, hw := true, sel := fun _ => true,
    flds := fun _ _ => [fun _ => [chk 1 0 16 fun v => refuseUnless (v == 0x5741)]],
    act := fun _ s => (warmReset s, .silent) }

/-- WARM_RESET (R113). -/
def execWarmReset (m : Fin 8) (s : State) : Host.Outcome State Fault Refusal := .next (runCmd specWarmReset m s)

/-! Test access (R75 to R77). -/

/-- The TAP answers while the supplies are up (R77). -/
def tapLive (s : State) : Bool := s.bring.pwrOk

/-- Private instructions act as BYPASS once Hexob has started, unless the image enables debug access (R76). -/
def privateOff (s : State) : Bool := s.bring.hexob && !s.bring.debug

def listedCodes : List Nat := [0x01, 0x02, 0x03, 0x20, 0x21, 0x22, 0x30, 0x31, 0x10]
def privateCodes : List Nat := [0x20, 0x21, 0x22, 0x30, 0x31]

/-- The one-bit bypass: a captured 0 leaves first, each bit one shift later. -/
def tapBypass (code : BitVec 8) (tdi : List Bool) (s : State) : State :=
  let t := { s.tap with ir := code, driving := false }
  { s with tap :=
    match tdi.getLast? with
    | some b => { t with bypassBit := b, tdo := (false :: tdi).take tdi.length, dr := [b] }
    | none => { t with bypassBit := false, tdo := [], dr := [false] } }

/-- BYPASS, also under every unlisted code and, without debug access, under a private one (R75, R76). -/
def execBypass (code : BitVec 8) (tdi : List Bool) (s : State) : Host.Outcome State Fault Refusal :=
  .next (if tapLive s && (!listedCodes.contains code.toNat || (privateCodes.contains code.toNat && privateOff s)) then
    tapBypass code tdi s else s)

/-- TAP_RESET: IDCODE is selected, as IEEE 1149.1 requires. -/
def execTapReset (s : State) : Host.Outcome State Fault Refusal := .next { s with tap := .reset }

def natBits (n x : Nat) : List Bool := (List.range n).map fun i => x.testBit i

def tapShift (code : BitVec 8) (dr : List Bool) (s : State) : State :=
  { s with tap := { s.tap with ir := code, driving := false, dr := dr, tdo := dr } }

/-- IDCODE (R75). -/
def execIdcode (s : State) : Host.Outcome State Fault Refusal :=
  .next (if tapLive s then tapShift 0x01 (natBits 32 0x1E02456F) s else s)

/-- SAMPLE/PRELOAD: the captured boundary is shifted out, the preloaded one held. -/
def execSamplePreload (captured preload : List Bool) (s : State) : Host.Outcome State Fault Refusal :=
  .next (if tapLive s then
    { s with tap := { s.tap with ir := 0x02, driving := false, dr := captured, tdo := captured, boundary := preload } }
    else s)

/-! Work in flight that EXTEST makes undefined (R76): every byte or row of data on its way becomes a free value. -/

/-- As many free bytes as the list has, drawn from the free value `f`. -/
def freeBytes (f : Nat) (l : List Byte) : List Byte := natToBytes l.length (Config.freeBits (8 * l.length) f).toNat

def freeReq (f : Nat) (r : MemReq) : MemReq :=
  { r with data := Config.freeBits 512 f, res := r.res.map fun x => (x.1, Config.freeBits 512 f),
           adds := r.adds.mapIdx fun i e => (e.1, (Config.freeBits 64 (f + 2 ^ 30 * (i + 1))).toNat) }

def freeBurst (f : Nat) (b : Burst) : Burst :=
  { b with got := b.got.mapIdx fun i e => (e.1, Config.freeBits 512 (f + i)), bytes := freeBytes (f + b.got.length) b.bytes }

def freeBeat (f : Nat) (e : Nat × RtnBeat) : Nat × RtnBeat := (e.1, { e.2 with data := Config.freeBits 4096 f })

def freePort (f : Nat) (p : Port) : Port :=
  { p with
    lane0 := p.lane0.mapIdx fun i e => freeBeat (f + i) e
    lane1 := p.lane1.mapIdx fun i e => freeBeat (f + 100 + i) e
    dlvs := p.dlvs.mapIdx fun i d => { d with data := freeBytes (f + 200 + 2 * i) d.data }
    reads := p.reads.mapIdx fun i c => { c with rows := c.rows.mapIdx fun k r => (r.1, Config.freeBits 512 (f + 201 + 2 * (16 * i + k))) } }

def freePacket (f : Nat) (k : Packet) : Packet := { k with data := freeBytes f k.data }

/-- A flit keeps its header; its payload is undefined. -/
def freeFlit (f : Nat) (x : BitVec 2048) : BitVec 2048 :=
  BitVec.ofNat 2048 (x.toNat % 2 ^ 128 + ((Config.freeBits 1920 f).toNat <<< 128))

def freeCport (f : Nat) (x : CPort) : CPort :=
  { x with
    inq := x.inq.mapIdx fun i k => freePacket (f + 4 * i) k
    inWrites := x.inWrites.mapIdx fun i w => { w with pkt := freePacket (f + 4 * i + 1) w.pkt }
    fwd := x.fwd.mapIdx fun i g => freeFlit (f + 4 * i + 2) g
    txq := x.txq.mapIdx fun i g => { g with flit := freeFlit (f + 4 * i + 3) g.flit } }

def freeMsgs (f : Nat) (x : Slice) : Slice :=
  { x with waiting := x.waiting.mapIdx fun i w => (w.1, { w.2.1 with payload := freeBytes (f + i) w.2.1.payload }, w.2.2) }

/-- Elements of a table, each with a range of free values of its own. -/
def freeEach {α : Type} (f w : Nat) (g : Nat → α → α) (t : Tbl α) : Tbl α := t.mapV fun k x => g (f + w * k) x

/-- Free values that one unit's work in flight may draw. -/
def flightSpan : Nat := 2 ^ 20

def spoilFlight (s : State) : State :=
  let f := fun k => s.freeTick + 2 ^ 40 * k
  { s with
    mem := { s.mem with reqs := s.mem.reqs.map fun r => freeReq (f 0 + r.id) r }
    bursts := freeEach (f 1) flightSpan freeBurst s.bursts
    ports := freeEach (f 2) flightSpan freePort s.ports
    cw := { s.cw with ports := freeEach (f 3) flightSpan freeCport s.cw.ports }
    slices := freeEach (f 4) flightSpan freeMsgs s.slices
    bindings := freeEach (f 5) flightSpan (fun n b => { b with held := freeBytes n b.held }) s.bindings
    freeTick := f 6
    bring := { s.bring with extestDirty := true } }

def tapExtest (scan : ExtestScan) (s : State) : State :=
  { s with tap := { s.tap with ir := 0x03, driving := true, dr := scan.captured, tdo := scan.captured, boundary := scan.drive } }

/-- EXTEST drives the boundary with what was shifted in; in service, the work in flight becomes undefined (R75, R76). -/
def execExtest (scan : ExtestScan) (s : State) : Host.Outcome State Fault Refusal :=
  .next (if tapLive s then tapExtest scan (if inService s then spoilFlight s else s) else s)

/-- A private instruction, or BYPASS where private instructions are off (R76). -/
def tapPrivate (code : BitVec 8) (tdi : List Bool) (f : Tap → Tap) (s : State) : State :=
  if !tapLive s then s
  else if privateOff s then tapBypass code tdi s
  else { s with tap := f { s.tap with ir := code, driving := false } }

/-- A register of the selected wrapper is shifted out, and the new one in. -/
def shiftWrapper (tdi : List Bool) (regs : Tap → Tbl (List Bool)) (put : Tbl (List Bool) → Tap → Tap) (t : Tap) : Tap :=
  match t.wrapper with
  | some u => { put (Tbl.put (regs t) u.toNat tdi) t with dr := tdi, tdo := Tbl.getD (regs t) u.toNat [] }
  | none => t

/-- WRAP_SEL (R75). The manual does not say what its register captures; zeros leave on TDO. DESIGN CHOICE (log entry 82). -/
def execWrapSel (unit : BitVec 16) (s : State) : Host.Outcome State Fault Refusal :=
  .next (tapPrivate 0x20 (natBits 16 unit.toNat)
    (fun t => { t with wrapper := some unit, dr := natBits 16 unit.toNat, tdo := natBits 16 0 }) s)

/-- WRAP_WIR: the selected wrapper's instruction register (R75). -/
def execWrapWir (tdi : List Bool) (s : State) : Host.Outcome State Fault Refusal :=
  .next (tapPrivate 0x21 tdi (shiftWrapper tdi Tap.wirs fun r t => { t with wirs := r }) s)

/-- WRAP_WDR: the selected wrapper's data register (R75). -/
def execWrapWdr (tdi : List Bool) (s : State) : Host.Outcome State Fault Refusal :=
  .next (tapPrivate 0x22 tdi (shiftWrapper tdi Tap.wdrs fun r t => { t with wdrs := r }) s)

/-- MBIST_RUN on the selected unit; on Peat it touches the spare copy only, which is then rebuilt (R76, R488). -/
def execMbistRun (failing : List Nat) (s : State) : Host.Outcome State Fault Refusal :=
  .next (tapPrivate 0x30 []
    (fun t => if t.wrapper.isSome then
      { t with mbist := some { pass := failing.isEmpty, firstFail := failing.foldl min (failing.headD 0) } } else t) s)

/-- MBIST_RESULT: pass or fail, then the first failing address (R75). -/
def execMbistResult (s : State) : Host.Outcome State Fault Refusal :=
  .next (tapPrivate 0x31 []
    (fun t => match t.mbist with
      | some r => { t with dr := r.pass :: natBits 48 r.firstFail, tdo := r.pass :: natBits 48 r.firstFail }
      | none => t) s)

/-- STATUS_READ (R77). -/
def execStatusRead (s : State) : Host.Outcome State Fault Refusal :=
  .next (if tapLive s then tapShift 0x10 (natBits 64 (tapStatus s)) s else s)

/-! Records of bring-up (R92, R428, R490). -/

def stageRec (s : State) (stage reason kind unit rate attempts : Nat) : PeatRec :=
  mkRec s 0x002 3 islMgmt [stage, reason, kind, unit, rate, attempts]
    [pack [(36, 0), (2, attempts), (2, rate), (8, unit), (8, kind), (5, reason), (3, stage)]]

/-- BRINGUP_STAGE on entering a stage. -/
def stageEntered (stage : Nat) (s : State) : State := offer none (stageRec s stage 0 0 0 0 0) s

/-- BRINGUP_STAGE for a unit that joins, fails or is held. -/
def unitNoted (reason kind unit rate attempts : Nat) (s : State) : State :=
  offer none (stageRec s s.bring.stage reason kind unit rate attempts) s

def coldRec (s : State) : PeatRec :=
  mkRec s 0x001 3 islMgmt [s.peat.nextSeq]
    [pack [(24, 0), (4, s.straps.mods.toNat), (2, s.straps.split.toNat), (2, s.straps.cool.toNat), (32, s.bring.svn.toNat)]]

/-- LINK_DOWN of a Causeway port or UCIe interface (R428). -/
def linkRec (s : State) (ucie : Bool) (unit reason : Nat) : PeatRec :=
  let p := if ucie then CPort.reset else Tbl.getD s.cw.ports unit .reset
  mkRec s 0x070 1 (if ucie then islMgmt else islPort unit) [b2n ucie, unit, reason]
    [pack [(35, 0), (8, if ucie then 0 else p.los.toNat), (1, b2n (p.farId.isSome && p.farValid)), (10, p.farId.getD 0),
      (4, reason), (5, unit), (1, b2n ucie)]]

/-- LINK_DOWN with its cause (R428, R479). -/
def linkDownNoted (ucie : Bool) (unit reason : Nat) (s : State) : State :=
  setCause 5 (if ucie then 32 + unit else unit) (offer none (linkRec s ucie unit reason) s)

/-! S0 and S1. -/

/-- A stage in progress that has not stopped. -/
def inStage (s : State) (n : Nat) : Bool := blockUp s && s.bring.stage == n && s.bring.stopCause == 0

/-- PLL_LOCK ends S0 (R85). -/
def execPllLock (s : State) : Host.Outcome State Fault Refusal :=
  .next (if inStage s 0 then { s with bring := { s.bring with stage := 1 } } else s)

/-- PLL_LOCK_TIMEOUT (R86). -/
def execPllLockTimeout (s : State) : Host.Outcome State Fault Refusal :=
  .next (if inStage s 0 then { s with bring := { s.bring with stopCause := 2 } } else s)

/-- UCIe interfaces that SPLIT requires (R68). -/
def ucieNeeded (split : BitVec 2) : List Nat :=
  if split = 1 then [1, 2, 3, 4] else if split = 2 then [0, 1, 2, 3, 4, 5] else []

/-- Fields of the image header, bytes `lo` to `lo + n - 1` (R87). -/
def imgBytes (s : State) (lo n : Nat) : List Byte := zeroBytes s.bring.image lo n
def imgNat (s : State) (lo n : Nat) : Nat := bytesToNat (imgBytes s lo n)

/-- Rows of R87, in order, each with whether it passes. -/
def imageChecks (s : State) : List (Nat × Bool) :=
  let len := imgNat s 8 4
  let k := imgNat s 20 1
  [(1, imgNat s 0 4 == 0x42584548),
   (2, imgNat s 4 2 == 1),
   (3, imgNat s 6 2 / 2 == 0),
   (4, len % 64 == 0 && decide (64 ≤ len ∧ len ≤ 1572864)),
   (5, decide (imgNat s 12 4 < len) && imgNat s 12 4 % 4 == 0),
   (6, decide (s.fuses.svnMin.toNat ≤ imgNat s 16 4)),
   (7, decide (k ≤ 3) && !s.fuses.revoked.getLsbD k),
   (8, imgNat s 21 11 == 0),
   (9, Config.sha384 (imgBytes s 32 96) == s.fuses.keyHash.getD k 0),
   (10, Config.ecdsaOk (imgBytes s 32 96) (imgBytes s 128 48) (imgBytes s 176 48)
      (imgBytes s 0 128 ++ imgBytes s 256 len)),
   (12, imgNat s 224 32 == 0)]

/-- The first failing row of R87. -/
def imageFault (s : State) : Option Nat := ((imageChecks s).find? fun c => !c.2).map Prod.fst

/-- Hexob fills key slot 0 from the on-block generator (R304). -/
def fillSystemKey (s : State) : State :=
  { s with
    keys := Tbl.put s.keys 0 { state := 1, job := 0, lo := Config.freeBits 256 s.freeTick,
                               hi := Config.freeBits 256 (s.freeTick + 1) }
    freeTick := s.freeTick + 2 }

/-- Peat comes online with its first record; a warm bring-up notes WARM (R92). -/
def peatOnline (s : State) : State :=
  let s1 := { s with peat := { s.peat with online := true } }
  stageEntered 2 (offer none (if s.bring.warm then stageRec s1 2 1 0 0 0 0 else coldRec s1) s1)

/-- Hexob starts and enters S2 (R85, R92, R93). -/
def startHexob (peatOk : Bool) (s : State) : State :=
  let s1 := { s with bring := { s.bring with
    hexob := true, stage := 2, imageTotal := none, svn := BitVec.ofNat 32 (imgNat s 16 4),
    debug := imgNat s 6 2 % 2 == 1, entry := BitVec.ofNat 32 (imgNat s 12 4),
    stopCause := if peatOk then 0 else 5 } }
  if peatOk then makePlan 0 (fillSystemKey (peatOnline s1)) else s1

def zeroImage (s : State) : State := { s with bring := { s.bring with image := [], imageTotal := none } }

/-- Once the SRAM is tested and every interface trained, the control page opens; after a warm reset the held image
is checked (R85, R90). -/
def advanceS1 (s : State) : State :=
  if s.bring.sramDone && (ucieNeeded s.straps.split).all fun u => s.bring.ucieTrained.contains u then
    let s1 := { s with bring := { s.bring with pageOpen := true } }
    if s.bring.warm then (if (imageFault s1).isNone then startHexob s.bring.peatOk s1 else zeroImage s1) else s1
  else s

/-- A stop in S1 leaves the control page and the loader open (R86). -/
def stopS1 (cause : Nat) (s : State) : State := { s with bring := { s.bring with stopCause := cause, pageOpen := true } }

/-- MGMT_SRAM_TEST_DONE (R85, R86, R90). -/
def execMgmtSramTestDone (pass peatOk : Bool) (s : State) : Host.Outcome State Fault Refusal :=
  .next (if inStage s 1 && !s.bring.sramDone then
    (if pass then advanceS1 { s with bring := { s.bring with sramDone := true, peatOk := peatOk } } else stopS1 3 s)
    else s)

/-- UCIE_TRAIN_DONE (R71). -/
def execUcieTrainDone (u : Fin 6) (s : State) : Host.Outcome State Fault Refusal :=
  .next (if inStage s 1 && (ucieNeeded s.straps.split).contains u.val && !s.bring.ucieTrained.contains u.val then
    advanceS1 { s with bring := { s.bring with ucieTrained := s.bring.ucieTrained ++ [u.val] } } else s)

/-- UCIE_TRAIN_TIMEOUT (R71, R86). -/
def execUcieTrainTimeout (u : Fin 6) (s : State) : Host.Outcome State Fault Refusal :=
  .next (if inStage s 1 && (ucieNeeded s.straps.split).contains u.val && !s.bring.ucieTrained.contains u.val then
    linkDownNoted true u.val 0 (stopS1 4 s) else s)

/-! The loader (R88, R89). -/

def specImageBegin : CmdSpec :=
  { op := 0x0110, hw := false, sel := fun _ => true,
    flds := fun _ _ => [fun _ => [chk 1 0 32 fun v => refuseUnless (decide (320 ≤ v ∧ v ≤ 1573120))]],
    act := fun c s => ({ s with bring := { s.bring with image := [], imageTotal := some (fld c.body 0 32) } }, okEmpty) }

/-- IMAGE_BEGIN (R88, R89). -/
def execImageBegin (m : Fin 8) (s : State) : Host.Outcome State Fault Refusal := .next (runCmd specImageBegin m s)

def chunkFlds (s : State) (_ : Nat) : List (Nat → List Fld) :=
  [fun _ => [chk 1 48 16 fun _ => if s.bring.imageTotal.isSome then .setTo 0 else .no,
    chk 2 32 16 fun v => refuseUnless (decide (1 ≤ v ∧ v ≤ 192)),
    chkB 3 0 32 fun b v => refuseUnless (decide (v + fld b 32 16 ≤ s.bring.imageTotal.getD 0))]]

def chunkData (body : Nat) : List Byte := natToBytes (fld body 32 16) (body >>> 64)

def specImageChunk : CmdSpec :=
  { op := 0x0111, hw := false, sel := fun _ => true, flds := chunkFlds,
    act := fun c s =>
      ({ s with bring := { s.bring with image := zeroPutAll s.bring.image (fld c.body 0 32) (chunkData c.body) } },
        okEmpty) }

/-- IMAGE_CHUNK (R88, R89). -/
def execImageChunk (m : Fin 8) (s : State) : Host.Outcome State Fault Refusal := .next (runCmd specImageChunk m s)

/-- The checks of R87 on the image as held; bring-up that has stopped in S1 stays there (R86). -/
def endImage (peatOk : Bool) (_ : Cmd) (s : State) : State × Reply :=
  match imageFault s with
  | none => (if s.bring.stopCause = 0 then startHexob peatOk s else s, okEmpty)
  | some row => (zeroImage s, refuse row noEntry)

def specImageEnd (peatOk : Bool) : CmdSpec :=
  { op := 0x0112, hw := false, sel := fun _ => true, flds := fun _ _ => [], act := endImage peatOk }

/-- IMAGE_END (R89); `peatOk` is the outcome of Peat's self-test on entering S2. -/
def execImageEnd (m : Fin 8) (peatOk : Bool) (s : State) : Host.Outcome State Fault Refusal :=
  .next (runCmd (specImageEnd peatOk) m s)

/-! S2 (R94, R95). -/

/-- The record of a repaired bank; the row and word that it names are not fixed by the manual. -/
def repairRec (s : State) (bank rows : Nat) : PeatRec :=
  let a := (Config.freeBits 11 s.freeTick).toNat * 131072 + bank * 64
  mkRec s 0x010 0 (islMere (bank / 512)) [1, bank, a / 64]
    [pack [(25, 0), (4, 0xA), (7, rows), (8, (Config.freeBits 4 (s.freeTick + 1)).toNat), (12, bank), (8, 1)],
      pack [(48, a), (16, 0)]]

def noteRepair (s : State) (b : Nat × Nat) : State :=
  let s1 := setCause 1 0 (peatTake (offer none (repairRec s b.1 b.2) s))
  { s1 with freeTick := s1.freeTick + 2 }

/-- A held command is now checked; one that no stage accepts is refused (R95). -/
def checkHeld (s : State) : State := (List.range 8).foldl (fun t m => refuseUnlisted m t) s

/-- Boardwalk opens, S3 is entered (R94). -/
def openBoardwalk (s : State) : State :=
  checkHeld (stageEntered 3
    { s with
      mem := { s.mem with mere := [], mereBad := [] }
      bring := { s.bring with boardwalk := true, blockReady := true, stage := 3, trainIdx := 0, trainAttempts := 0 } })

def mereTested (failing : List (Nat × Nat)) (s : State) : State :=
  let s1 := (failing.filter fun b => decide (b.1 < 2048 ∧ 0 < b.2 ∧ b.2 ≤ 8)).foldl noteRepair s
  if failing.any fun b => decide (b.1 < 2048 ∧ 8 < b.2) then
    checkHeld { s1 with bring := { s1.bring with stopCause := 6 } }
  else openBoardwalk s1

/-- MERE_SELF_TEST_DONE: banks with their failing rows (R94). -/
def execMereSelfTestDone (failing : List (Nat × Nat)) (s : State) : Host.Outcome State Fault Refusal :=
  .next (if inStage s 2 && s.bring.hexob && !s.bring.blockReady then mereTested failing s else s)

/-! S3: stacks (R96 to R99, R105 to R108). -/

/-- The i-th stack trained (R96). -/
def trainOrder (i : Nat) : Nat := i % 4 * 6 + i / 4

def setStack (k : Nat) (f : Stack → Stack) (s : State) : State :=
  { s with stackTbl := Tbl.put s.stackTbl k (f (stackAt s k)) }

/-- The rate at which a stack joins: 3.2 Gb/s before S5 (R97, R107). -/
def joinRate (s : State) (k : Nat) : Nat := if s.bring.stage = 5 then fullRate s k else 0

/-- What a training attempt of a stack brings: whether it trained, its capacity, and the results at 3.2, 5.0 and 6.4 Gb/s
(R97). -/
structure StackTrain where
  ok : Bool
  capGiB : Nat
  results : List Word32
deriving DecidableEq, Repr

/-- A stack joins; the first places the context region (R97, R98, R271). -/
def joinStack (k : Nat) (t : StackTrain) (attempts : Nat) (s : State) : State :=
  let s1 := unitNoted 2 1 k (joinRate s k) attempts
    (setStack k (fun x => { x with
      state := 1, rate := joinRate s k, capGiB := if x.capGiB = 0 then min t.capGiB 64 else x.capGiB, training := t.results,
      switching := none }) s)
  let s2 := { s1 with bring := { s1.bring with ctxStack := some (s1.bring.ctxStack.getD k) } }
  if s1.bring.ctxStack.isNone then storeCached s2 else s2

def failStack (k attempts : Nat) (s : State) : State :=
  unitNoted 3 1 k 0 attempts (setStack k (fun x => { x with state := 3 }) s)

/-- An optical engine is fitted at a port (R66). -/
def hasEngine (s : State) (p : Nat) : Bool := s.straps.engines.getLsbD p

/-- A port begins a training attempt: engine on, laser 10 µs later (R66, R416). -/
def beginTraining (x : CPort) (attempts : Nat) : CPort :=
  { x with state := 2, oeEn := true, laserEn := false, attempts := attempts, armed := false }

/-- A port takes part in S4: it is neither in service nor in training since a JOIN_RETRY. A port whose engine reports a
fault stays dark and is noted as held. DESIGN CHOICE (log entry 83). -/
def startPort (s : State) (p : Nat) : State :=
  let x := Tbl.getD s.cw.ports p .reset
  if !hasEngine s p || decide (2 ≤ x.state) then s
  else if x.faultN then { s with cw := { s.cw with ports := Tbl.put s.cw.ports p (beginTraining x 1) } }
  else unitNoted 4 2 p 0 0 { s with cw := { s.cw with ports := Tbl.put s.cw.ports p { x with state := 1 } } }

/-- Ports with an engine train in S4 (R66, R100). -/
def startPorts (s : State) : State := (List.range 32).foldl startPort s

/-- S4 exits once no port trains (R85, R100). -/
def exitS4 (s : State) : State :=
  if s.bring.stage = 4 && !(s.cw.ports.any fun e => e.2.state == 2) then
    { s with bring := { s.bring with s4Exited := true } }
  else s

/-- A JOIN_RETRY waits on this unit with so many attempts made. -/
def retryAttempts (s : State) (stack : Bool) (u : Nat) : Option Nat :=
  s.mbox.findSome? fun b =>
    if b.busy then
      match b.wait with
      | .joinStack k n => if stack && k == u then some n else none
      | .joinPort p n => if !stack && p == u then some n else none
      | _ => none
    else none

/-- A JOIN_RETRY that waited for S3 to exit meets a stack in service, or one that is held (R106 to R108). -/
def resolveJoin (s : State) (k : Nat) : State :=
  if (stackAt s k).state = 1 then finishWait (.joinStack k 0) stOk 1 4 s
  else if (stackAt s k).cattrip && (retryAttempts s true k).isSome then
    finishWait (.joinStack k 0) stOk 1 3 (unitNoted 4 1 k 0 0 s)
  else if (retryAttempts s true k).isSome then setStack k (fun x => { x with tripped := false }) s
  else s

def enterS4 (s : State) : State :=
  (List.range 24).foldl resolveJoin
    (exitS4 (startPorts (stageEntered 4 { s with bring := { s.bring with stage := 4 } })))

/-- Training moves to the next stack; after the last, S3 exits (R96, R99). -/
def nextStack (s : State) : State :=
  let s1 := { s with bring := { s.bring with trainIdx := s.bring.trainIdx + 1, trainAttempts := 0 } }
  if s1.bring.trainIdx = 24 then enterS4 s1 else s1

/-- The attempt trained the stack, and no thermal trip was seen in it (R51, R97). -/
def trainedStack (s : State) (k : Nat) (t : StackTrain) : Bool :=
  t.ok && decide (0 < t.capGiB) && !(stackAt s k).tripped && !(stackAt s k).cattrip

/-- The next attempt begins: a trip counts again from now (R51). -/
def clearTrip (k : Nat) (s : State) : State := setStack k (fun x => { x with tripped := false }) s

/-- An attempt of S3 ends (R97); a stack whose STK_CATTRIP is high is not attempted. -/
def attemptS3 (k : Nat) (t : StackTrain) (s : State) : State :=
  let n := s.bring.trainAttempts + 1
  if (stackAt s k).cattrip then
    nextStack (unitNoted 4 1 k 0 0 (setStack k (fun x => { x with state := 3, tripped := false }) s))
  else if trainedStack s k t then nextStack (joinStack k t n s)
  else if n = 2 then nextStack (clearTrip k (failStack k n s))
  else clearTrip k { s with bring := { s.bring with trainAttempts := n } }

def bumpRetry (old new : CmdWait) (s : State) : State :=
  { s with mbox := s.mbox.map fun b => if b.busy && b.wait == old then { b with wait := new } else b }

/-- An attempt of a JOIN_RETRY ends (R106, R107). -/
def attemptRetry (k n : Nat) (t : StackTrain) (s : State) : State :=
  if trainedStack s k t then finishWait (.joinStack k n) stOk 1 0 (joinStack k t (n + 1) s)
  else if n = 1 then finishWait (.joinStack k n) stOk 1 1 (clearTrip k (failStack k 2 s))
  else bumpRetry (.joinStack k n) (.joinStack k (n + 1)) (clearTrip k s)

def stackAttempt (k : Nat) (t : StackTrain) (s : State) : State :=
  if inStage s 3 then (if trainOrder s.bring.trainIdx = k then attemptS3 k t s else s)
  else if inService s then
    match retryAttempts s true k with
    | some n => attemptRetry k n t s
    | none => s
  else s

/-- STACK_TRAIN_ATTEMPT_DONE (R97). -/
def execStackTrainAttemptDone (k : Fin 24) (ok : Bool) (found : StackFound) (s : State) : Host.Outcome State Fault Refusal :=
  .next (stackAttempt k.val { ok := ok, capGiB := found.capGiB, results := found.results } s)

/-- STACK_TRAIN_TIMEOUT: an attempt past 12 ms fails (R97). -/
def execStackTrainTimeout (k : Fin 24) (s : State) : Host.Outcome State Fault Refusal :=
  .next (stackAttempt k.val { ok := false, capGiB := 0, results := [] } s)

/-- The range of UNIT under a reserved KIND is not stated. UNIT, the lower index, is then held to the stacks' range, so that
a UNIT of 24 or more refuses by UNIT and a smaller one by KIND. DESIGN CHOICE (log entry 84). -/
def joinFlds (kindOk : Nat → Bool) (bound : Nat) (_ : State) (_ : Nat) : List (Nat → List Fld) :=
  [fun _ => [rsvd 1 16 16, chk 2 8 8 fun v => refuseUnless (decide (v < bound)),
    chk 3 0 8 fun v => refuseUnless (kindOk v)]]

/-- The command joins a stack, or says why not (R106, R107). -/
def joinStackAct (c : Cmd) (s : State) : State × Reply :=
  let k := fld c.body 8 8
  if s.bring.stage = 3 then (s, .wait (.joinStack k 0))
  else if (stackAt s k).state = 1 then (s, okWith 1 4)
  else if (stackAt s k).cattrip then (unitNoted 4 1 k 0 0 s, okWith 1 3)
  else (clearTrip k s, .wait (.joinStack k 0))

/-- The row also carries out a reserved KIND, which it refuses. -/
def specJoinRetryStack : CmdSpec :=
  { op := 0x0130, hw := false, sel := fun b => fld b 0 8 != 1,
    flds := fun s j => joinFlds (fun k => k == 0) 24 s j, act := joinStackAct }

/-- JOIN_RETRY with KIND stack (R105 to R108). -/
def execJoinRetryStack (m : Fin 8) (s : State) : Host.Outcome State Fault Refusal :=
  .next (runCmd specJoinRetryStack m s)

/-! S5 (R101 to R103). -/

/-- Movers q × 24 and q × 24 + 1 relock at S5 entry (R103). -/
def boardwalkMovers : List Nat := [0, 1, 24, 25, 48, 49, 72, 73]

def lockPlans (s : State) : State :=
  { s with
    power := { s.power with
      plans := s.power.plans.mapV fun _ p => { p with locked := p.bin, downLocked := p.stackDown }
      pinRate := profileRate s.power.profile }
    movers := boardwalkMovers.foldl (fun t m => Tbl.put t m { Tbl.getD t m .reset with relocking := true }) s.movers }

def enterS5 (s : State) : State :=
  askSwitch (lockPlans (stageEntered 5 { s with bring := { s.bring with stage := 5, boardwalk := false } }))

/-- S4 has exited and S5 is not entered. -/
def waitsS5 (s : State) : Bool := inStage s 4 && s.bring.s4Exited

/-- S5_ENTRY with a confirmed profile (R101). -/
def execS5Entry (s : State) : Host.Outcome State Fault Refusal :=
  .next (if waitsS5 s && s.power.confirmed then enterS5 s else s)

/-- PROFILE_CONFIRM_TIMEOUT: S5 is entered with AIR (R101). -/
def execProfileConfirmTimeout (s : State) : Host.Outcome State Fault Refusal :=
  .next (if waitsS5 s && !s.power.confirmed then enterS5 s else s)

/-- Requests of a stack that wait through its pause are charged CLOCK_SWITCH (R258). -/
def chargePause (k pause : Nat) (r : MemReq) : MemReq :=
  if r.target == .stack k && r.res.isNone then { r with charge := satAdd 16 r.charge pause, cause := r.cause ||| 256 } else r

/-- The stack has completed every request accepted before the switch was asked for (R102). -/
def stackIdle (s : State) (k mark : Nat) : Bool :=
  !(s.mem.reqs.any fun r => r.target == .stack k && r.res.isNone && decide (r.id < mark))

def switchRate (k pause : Nat) (s : State) : State :=
  let s1 := setStack k (fun x => { x with rate := fullRate s k, switching := none }) s
  { s1 with mem := { s1.mem with reqs := s1.mem.reqs.map (chargePause k pause) } }

/-- STACK_PIN_RATE_SWITCH; `pause` in mover cycles (R101, R102, R258). -/
def execStackPinRateSwitch (k : Fin 24) (pause : Nat) (s : State) : Host.Outcome State Fault Refusal :=
  .next (match (stackAt s k).switching with
    | some mark => if blockUp s && stackIdle s k mark then switchRate k pause s else s
    | none => s)

/-- Bursts of a mover that relocks are charged CLOCK_SWITCH (R258, R266). -/
def chargeRelock (mv pause : Nat) (b : Burst) : Burst :=
  if b.mover = mv then { b with charge := satAdd 16 b.charge pause, cause := b.cause ||| 256 } else b

/-- So are its deliveries that are granted and whose burst has not issued. -/
def chargeGranted (s : State) (mv pause p : Nat) (d : Delivery) : Delivery :=
  if d.slot / 32 = mv ∧ !d.ready ∧ !(s.bursts.any fun e => e.2.grant == some { port := p, id := d.id }) then
    { d with events := satAdd 16 d.events pause, cause := d.cause ||| 256 }
  else d

/-- MOVER_RELOCK: a mover relocks to 2.0 GHz at a burst boundary (R103). -/
def execMoverRelock (mv : Fin 96) (pause : Nat) (s : State) : Host.Outcome State Fault Refusal :=
  .next (if blockUp s && (Tbl.getD s.movers mv.val .reset).relocking then
    { s with
      movers := Tbl.put s.movers mv.val { Tbl.getD s.movers mv.val .reset with relocking := false }
      bursts := s.bursts.mapV fun _ b => chargeRelock mv.val pause b
      ports := s.ports.mapV fun p x => { x with dlvs := x.dlvs.map (chargeGranted s mv.val pause p) } }
    else s)

/-! Thermal sensors (R511). -/

/-- A sensor as read; injection point 0x0042 holds it over the limit (R521). -/
def sensorReads (s : State) (readings : List TempReading) : List (Nat × Int) :=
  (readings.filter fun r => decide (r.island < islandCount)).map fun r =>
    (r.island, if Tbl.has s.power.tempInj r.island then throttleTemp s.power.profile + 1 else r.temp)

/-- One read of each forced sensor is spent. -/
def spendTempInj (t : Tbl Nat) : Tbl Nat := (t.filter fun e => decide (1 < e.2)).map fun e => (e.1, e.2 - 1)

/-- The hottest sensor of a reading. -/
def hottest (l : List (Nat × Int)) : Nat × Int :=
  match l with
  | [] => (0, 0)
  | a :: rest => rest.foldl (fun b e => if b.2 < e.2 then e else b) a

def noteTemps (l : List (Nat × Int)) (s : State) : State :=
  let temps := l.foldl (fun t e => Tbl.put t e.1 e.2) s.power.temps
  let h := hottest temps
  { s with power := { s.power with
      temps := temps, hot := h.1, hotTemp := h.2
      tempMax := if s.power.temps.isEmpty then h.2 else max s.power.tempMax h.2
      tempInj := spendTempInj s.power.tempInj } }

/-- The complex acts as on a falling RST_N and stays so (R511). -/
def shutDown (s : State) : State :=
  let s1 := thermal 3 s.power.hot s.power.hotTemp shutdownTemp s
  let s2 := peatFlush islMgmt 8 s1
  dropAll { s2 with bring := { s2.bring with shutdown := true } }

/-- T_T after a reading (R511). -/
def thermalDemand (p : Power) : Nat :=
  if tripTemp p.profile ≤ p.hotTemp then 16
  else if throttleTemp p.profile ≤ p.hotTemp then min 16 (p.tT + 1)
  else if p.hotTemp ≤ throttleTemp p.profile - 3 then p.tT - 1
  else p.tT

/-- The record of a threshold that the hottest sensor has reached. -/
def reached (reason : Nat) (lim : Int) (s : State) : State :=
  if lim ≤ s.power.hotTemp then thermal reason s.power.hot s.power.hotTemp lim s else s

/-- What a reading does: every row of R511 whose condition holds acts, and its record names the hottest sensor.
DEDUCED (log entry 103). -/
def thermalAct (s : State) : State :=
  let p := s.power
  let lim := throttleTemp p.profile
  let s1 := noteThrottle (throttleOf s) { s with power := { s.power with tT := thermalDemand s.power } }
  let s2 := reached 2 (tripTemp p.profile) (reached 0 lim s1)
  if shutdownTemp ≤ p.hotTemp then shutDown s2
  else if p.tT = 1 ∧ p.hotTemp ≤ lim - 3 then thermal 1 p.hot p.hotTemp (lim - 3) s2
  else s2

/-- THERMAL_SENSOR_READ, every 100 µs (R511). The sensors show their readings while there is power, in a SHUTDOWN too; Hexob,
once it runs, acts on them. -/
def execThermalSensorRead (temps : List TempReading) (s : State) : Host.Outcome State Fault Refusal :=
  .next (if s.bring.pwrOk then
    (let s1 := noteTemps (sensorReads s temps) s
     if blockUp s && s.bring.hexob then thermalAct s1 else s1)
    else s)

end Sys2Proof.Machine
end

