-- ==== Sys2Proof/Machine/Tiles.lean ====
section
/-! DEFINITION. Forming tiles: row segments, their cut by size, destination boundary, pages and blocks, and the
accesses of a tile in order (R197, R203, R286, R287, R328, R329). -/

namespace Sys2Proof.Machine

/-- Addresses of the 64-byte rows that hold `n` bytes from `a` (R249). -/
def linesOf (a n : Nat) : List Nat := if n = 0 then [] else (List.range ((a + n - 1) / 64 - a / 64 + 1)).map fun i => (a / 64 + i) * 64

/-! Accesses of one element. -/

/-- One access: where, how many bytes, which direction. -/
structure Access where
  sp : Nat
  addr : Nat
  n : Nat
  write : Bool
deriving DecidableEq, Repr

def isExpand (d : Desc) : Bool := d.op == 2

/-- VA of the block that holds a source element (R310, R326). -/
def blockVa (d : Desc) (off : Int) : Nat := srcByte d off / 4096 * 4096

/-- Source accesses of an element: its bytes, or the block's place and its base block (R329). -/
def srcAccesses (d : Desc) (e : Elem) : List Access :=
  match e.src with
  | none => []
  | some off =>
    if isExpand d then
      { sp := spVa, addr := blockVa d off, n := 4096, write := false } ::
        (if xBase d = 0 then [] else [{ sp := spVa, addr := baseVa d (blockVa d off), n := 4096, write := false }])
    else if d.srcSpace = spCore then []
    else [{ sp := d.srcSpace, addr := srcByte d off, n := elemBytes (srcBits d), write := false }]

def dstAccesses (d : Desc) (e : Elem) : List Access :=
  match e.dst with
  | none => []
  | some off =>
    if d.dstSpace = spCore then [] else [{ sp := d.dstSpace, addr := dstByte d off, n := elemBytes (dstBits d), write := true }]

def indexAccess (d : Desc) (j : Nat) : Access := { sp := d.g.space, addr := indexByte d j, n := indexSize d, write := false }

/-- Pages of virtual address that an access touches. -/
def vaPages (a : Access) : List Nat := if a.sp = spVa then pagesOf a.addr a.n else []

def addPages (l : List Nat) (ps : List Nat) : List Nat := ps.foldl (fun x p => if x.contains p then x else p :: x) l

/-! Runs of elements, as first element and number. -/

def dropRuns : List (Nat × Nat) → Nat → List (Nat × Nat)
  | [], _ => []
  | (a, n) :: rest, k => if n ≤ k then dropRuns rest (k - n) else (a + k, n - k) :: rest

def takeRuns : List (Nat × Nat) → Nat → List (Nat × Nat)
  | [], _ => []
  | (a, n) :: rest, k => if k = 0 then [] else if k < n then [(a, k)] else (a, n) :: takeRuns rest (k - n)

def runsLen (l : List (Nat × Nat)) : Nat := (l.map Prod.snd).sum

/-! Segments in canonical order (R197). -/

/-- Indices known, by block. -/
abbrev IndexMap := Tbl Nat

def ixOf (m : IndexMap) (j : Nat) : Nat := Tbl.getD m j 0

/-- What has been formed so far: whole segments, latest first, and the segment in progress. -/
structure Forming where
  segs : List (Nat × Nat)
  first : Nat
  count : Nat
  src : List Nat
  dst : List Nat
deriving DecidableEq, Repr

def Forming.empty (n : Nat) : Forming := { segs := [], first := n, count := 0, src := [], dst := [] }

def Forming.close (f : Forming) : List (Nat × Nat) := (if f.count = 0 then f.segs else (f.first, f.count) :: f.segs).reverse

def Forming.isEmpty (f : Forming) : Bool := f.segs.isEmpty && f.count == 0

/-- A tile as formed: its segments, where the next begins, and an index it still needs. -/
structure Formed where
  segs : List (Nat × Nat)
  next : Cursor
  need : Option Nat
deriving DecidableEq, Repr

def coreTransposed (d : Desc) : Bool := d.transpose && d.dstSpace == spCore

/-- Bits of destination data in a segment. -/
def segBits (d : Desc) : Nat := if d.transpose then 256 * 8 else 512 * 8

/-- The 512-byte block of the destination that an element lies in, where segments end at its boundaries. -/
def dstBlock (d : Desc) (e : Elem) : Nat :=
  if d.dstSpace ≠ spCore ∧ (dimAt d 0).dstStride = 1 then dstByte d e.raw / 512 else 0

/-- Element `e` begins a new segment after the segment in progress. -/
def startsSegment (d : Desc) (m : IndexMap) (f : Forming) (e : Elem) : Bool :=
  e.n % points d 0 == 0 || decide (segBits d < (f.count + 1) * dstBits d) ||
    dstBlock d e != dstBlock d (elemAt d (ixOf m) (e.n - 1))

/-- Elements of one set of coordinates u[2] upward. -/
def planeOf (d : Desc) : Nat := points d 0 * points d 1

def elemPages (d : Desc) (e : Elem) : List Nat × List Nat :=
  ((srcAccesses d e).flatMap vaPages ++ (match indexOf d e.n with | some j => vaPages (indexAccess d j) | none => []),
    (dstAccesses d e).flatMap vaPages)

def blockOfElem (d : Desc) (e : Elem) : Option Nat := if isExpand d then e.src.map (blockVa d) else none

/-- Adds the element to the segment in progress, or to a new one. -/
def Forming.add (d : Desc) (m : IndexMap) (f : Forming) (e : Elem) : Forming :=
  let g := if f.count != 0 && startsSegment d m f e then { f with segs := (f.first, f.count) :: f.segs, first := e.n, count := 0 } else f
  { g with count := g.count + 1, src := addPages g.src (elemPages d e).1, dst := addPages g.dst (elemPages d e).2 }

/-- The tile stays within 64 segments and 64 pages a side. -/
def Forming.inLimits (f : Forming) : Bool :=
  decide (f.segs.length + (if f.count = 0 then 0 else 1) ≤ 64 ∧ f.src.length ≤ 64 ∧ f.dst.length ≤ 64)

/-- The element is the first of its block (R326). -/
def blockHead (d : Desc) (e : Elem) : Bool :=
  match e.src with
  | some off => decide (srcByte d off % 4096 = 0) && (srcBits d != 4 || off % 2 == 0)
  | none => false

/-- A tile that goes to a core does not end between the two elements of a byte (R205). -/
def endOnByte (d : Desc) (f : Formed) : Formed :=
  if d.dstSpace = spCore ∧ dstBits d = 4 ∧ !isExpand d ∧ runsLen f.segs % 2 = 1 then
    { f with segs := takeRuns f.segs (runsLen f.segs - 1), next := { f.next with elem := f.next.elem - 1 } }
  else f

/-- Forms from element `n` on; `mark` is the state before the block in progress, where a MOVE_EXPAND tile must end if
the block does not fit (R328). -/
def formFrom (d : Desc) (m : IndexMap) (plane : Nat) (mark : Nat × Forming) (blk : Option Nat) : Nat → Nat → Forming → Formed
  | 0, n, f => { segs := f.close, next := { elem := n, rows := 0 }, need := none }
  | fuel + 1, n, f =>
    let stop : Formed := { segs := f.close, next := { elem := n, rows := 0 }, need := none }
    if total d ≤ n then stop
    else if coreTransposed d && n / planeOf d != plane then stop
    else
      match (indexOf d n).filter fun j => !Tbl.has m j with
      | some j => { stop with need := some j }
      | none =>
        let e := elemAt d (ixOf m) n
        let g := f.add d m e
        let b := blockOfElem d e
        let mark' := if b.isSome && b == blk && !blockHead d e then mark else (n, f)
        if g.inLimits || (b.isSome && mark'.2.isEmpty) then formFrom d m plane mark' b fuel (n + 1) g
        else { segs := mark'.2.close, next := { elem := mark'.1, rows := 0 }, need := none }

/-- The most elements a tile holds: 64 segments, or one block. -/
def tileFuel : Nat := 65536

/-! Transposed tiles to a destination other than CORE (R197, R202). -/

def bandRow (d : Desc) (start col cols r : Nat) : Nat × Nat := (start - start % points d 0 + r * points d 0 + col, cols)

def segElems (g : Nat × Nat) : List Nat := (List.range g.2).map fun i => g.1 + i

def piecesFit (d : Desc) (l : List (Nat × Nat)) : Bool :=
  let es := l.flatMap fun g => (segElems g).map fun n => elemPages d (elemAt d (fun _ => 0) n)
  decide ((es.foldl (fun x p => addPages x p.1) []).length ≤ 64 ∧ (es.foldl (fun x p => addPages x p.2) []).length ≤ 64)

def bandPieces (d : Desc) (start col cols k : Nat) : List (Nat × Nat) := (List.range k).map (bandRow d start col cols)

/-- The greatest count from `n` down to 1 that `p` allows; 1 where none does. -/
def greatest (p : Nat → Bool) : Nat → Nat
  | 0 => 1
  | n + 1 => if p (n + 1) then n + 1 else greatest p n

/-- A transposed tile: the first of its band fixes the rows, the others keep them and cut columns. -/
def formBand (d : Desc) (c : Cursor) : Formed :=
  let p0 := points d 0
  let col := c.elem % p0
  let row := c.elem / p0 % points d 1
  let most := min (max (segBits d / dstBits d) 1) (p0 - col)
  let rowsLeft := min 64 (points d 1 - row)
  let cols := if c.rows = 0 then greatest (fun n => piecesFit d (bandPieces d c.elem col n 1)) most
    else greatest (fun n => piecesFit d (bandPieces d c.elem col n c.rows)) most
  let k := if c.rows = 0 then greatest (fun n => piecesFit d (bandPieces d c.elem col cols n)) rowsLeft else c.rows
  let next : Cursor :=
    if col + cols < p0 then { elem := c.elem + cols, rows := k }
    else if row + k < points d 1 then { elem := c.elem - col + k * p0, rows := 0 }
    else { elem := (c.elem / planeOf d + 1) * planeOf d, rows := 0 }
  { segs := bandPieces d c.elem col cols k, next := next, need := none }

/-- The tile that starts at a cursor, as far as the known indices tell. -/
def formTile (d : Desc) (m : IndexMap) (c : Cursor) : Formed :=
  if d.transpose && d.dstSpace != spCore then formBand d c
  else endOnByte d (formFrom d m (c.elem / planeOf d) (c.elem, .empty c.elem) none tileFuel c.elem (.empty c.elem))

/-! The elements and accesses of a tile (R287). -/

def Tile.elems (t : Tile) (d : Desc) : List Elem := t.segs.flatMap fun g => (segElems g).map (elemAt d (ixOf t.idx))

def Tile.indices (t : Tile) : List Nat := t.idx.map Prod.fst

/-- Blocks of a MOVE_EXPAND tile, in order. -/
def tileBlocks (d : Desc) (es : List Elem) : List Nat := dedupe (es.filterMap (blockOfElem d))

/-- Every access of a tile in the order of R287, a tile's pieces being in canonical order. -/
def tileAccesses (d : Desc) (t : Tile) : List Access :=
  t.indices.map (indexAccess d) ++
    ((t.elems d).flatMap fun e => srcAccesses d e ++ dstAccesses d e)

def newTile (num : Nat) (c : Cursor) : Tile :=
  { num := num, segs := [], start := c, next := c, idx := [], esc := [], xl := [], bad := [], misses := [], walking := [],
    translated := false, indexFail := none, charge := 0, cause := 0, issued := 0, bursts := 0, landedAny := false, faulted := false }

end Sys2Proof.Machine
end

