-- ==== Sys2Proof/Machine/TileXlate.lean ====
section
/-! DEFINITION. Translating a tile whole: its indices and escape bits, the first level, the second level, the walker,
protection, and its faults (R203, R281 to R292, R329); and the movers' part of a withdrawal (R295, R299). -/

namespace Sys2Proof.Machine

/-! Storage errors of the look-aside buffers and table copies (R476, R503). -/

/-- A site whose entry is dropped or reloaded on an error that is not corrected. -/
def soundSite (site unit addr words island level reader : Nat) (points : List Nat) : EccSite :=
  { site := site, unit := unit, addr := addr, words := words, island := island, level := level, reader := reader,
    points := points, dbe := points.headD 0 }

/-- Sites with one parity bit per entry (R476). -/
def paritySite (site : Nat) : Bool := site == 4 || site == 5 || site == 6

/-- The entry read is not good: any error under parity, one that SECDED cannot correct elsewhere. -/
def badRead (env : Env) (x : EccSite) (s : State) : Bool :=
  if paritySite x.site then (injFires s x.points x.unit).isSome || !(envFlips env x.site x.unit x.addr).isEmpty
  else !(eccLook env x [] s).unc.isEmpty

/-- ECC_UNCORRECTABLE of a parity site: SYNDROME is zero. -/
def parityRec (s : State) (x : EccSite) : PeatRec :=
  mkRec s 0x011 x.level x.island [x.site, x.unit, x.addr / 64]
    [pack [(25, 0), (4, x.reader), (7, 0), (8, 0), (12, x.unit), (8, x.site)], pack [(48, x.addr), (16, 0)]]

/-- The event of a read of the site: spends armings, and records an error. -/
def soundRead (env : Env) (x : EccSite) (s : State) : State :=
  if paritySite x.site then
    let n := injNeeds x.points x.unit x.level x.island s
    let s1 := injEvent x.points x.unit x.level x.island s
    if badRead env x s then setCause 1 1 (offer n (parityRec s1 x) s1) else s1
  else eccTrace env x [] s

/-- A lookup in a quarter's copy of the range table, the window table or Mere ownership (R503, point 0x0011). -/
def copyLookup (q : Nat) (s : State) : State := soundRead .quiet (soundSite 0x0E q 0 1 (islQuarter q) 0 0 [0x11]) s

/-! The first level (R281). -/

def moverAt (s : State) (m : Nat) : Mover := Tbl.getD s.movers m .reset
def setMover (m : Nat) (f : Mover → Mover) (s : State) : State := { s with movers := Tbl.put s.movers m (f (moverAt s m)) }

/-- ENTRY_PA of a mapping: zero where no table was read for it (R292). -/
def readPa (found : Nat) (e : LabEntry) : Nat := if found < 4 then e.entryPa else 0

def holdPage (page found : Nat) (e : LabEntry) (t : Tile) : Tile :=
  { t with xl := t.xl ++ [{ page := page, src := e, found := found, entryPa := readPa found e }] }

def labSite (m idx : Nat) : EccSite := soundSite 0x04 m idx 1 (islMover m) 0 0 [8]

/-- A first-level lookup of a page for a tile: a hit is held; a miss, or a hit that a parity error drops, waits for
the second level. -/
def lookFirst (env : Env) (m page : Nat) (t : Tile) (s : State) : Tile × State :=
  let mv := moverAt s m
  match firstLevel s mv.lab page with
  | some e =>
    let x := labSite m (mv.lab.findIdx fun y => y == e)
    let s1 := soundRead env x s
    if badRead env x s then
      ({ t with misses := t.misses ++ [page] }, bump 2 (moverQuarter m) 0 1 (setMover m (fun v => { v with lab := v.lab.filter fun y => y != e }) s1))
    else (holdPage page (foundCode e) e t, setMover m (fun v => { v with lab := labTouch v.lab e }) s1)
  | none => ({ t with misses := t.misses ++ [page] }, bump 2 (moverQuarter m) 0 1 s)

def pageKnown (t : Tile) (page : Nat) : Bool :=
  (t.xl.any fun x => x.page == page) || (t.bad.any fun x => x.1 == page) || t.misses.contains page || t.walking.contains page

def lookPages (env : Env) (m : Nat) : List Nat → Tile → State → Tile × State
  | [], t, s => (t, s)
  | p :: ps, t, s =>
    if pageKnown t p then lookPages env m ps t s
    else lookPages env m ps (lookFirst env m p t s).1 (lookFirst env m p t s).2

def settled (t : Tile) : Bool := t.misses.isEmpty && t.walking.isEmpty

/-! Protection (R287, R289, R378). -/

def ringMask (s : State) (r : Nat) : BitVec 16 := ((Tbl.get? s.rings r).map Ring.mask).getD 0

/-- A failed access: its failure, and what XLATE_FAULT says of a translation fault. -/
structure TileFault where
  status : Nat
  addr : Nat
  write : Bool
  detail : Nat
  needs : Option Nat
  xf : Option XFault
deriving DecidableEq, Repr

def pageFault (t : Tile) (mask : BitVec 16) (write : Bool) (page : Nat) : Option XFault :=
  match t.xl.find? fun x => x.page == page with
  | some x => permits mask x.src x.found x.entryPa write
  | none => (t.bad.find? fun x => x.1 == page).map Prod.snd

def xlateFault (x : XFault) (addr : Nat) (write : Bool) : TileFault :=
  { status := x.status, addr := addr, write := write, detail := x.detail, needs := x.needs, xf := some x }

/-- The fault of an access: its status and its lowest failing byte. -/
def accessFault (s : State) (t : Tile) (mask : BitVec 16) (a : Access) : Option TileFault :=
  if a.sp = spVa then
    (pagesOf a.addr a.n).findSome? fun p => (pageFault t mask a.write p).map fun x =>
      xlateFault x (max a.addr (p * 4096)) a.write
  else if a.sp = spMere then
    (mereCheck s mask a.addr a.n).map fun x => { status := x.1, addr := x.2, write := a.write, detail := 0, needs := none, xf := none }
  else none

/-- Physical row behind an access byte of a translated tile. -/
def rowOf (q : Nat) (t : Tile) (sp a : Nat) : Option RowAt :=
  if sp = spVa then
    (t.xl.find? fun x => x.page == a / 4096).map fun x => rowAtPa q (labPa x.src (a / 64 * 64)) x.src.key
  else if sp = spMere then some (.mere (a / 64 * 64) q)
  else none

/-! Indices and escape bits (R203, R329). -/

/-- Reads `n` bytes at `a`, row by row: bytes, or the status and address of the failing byte. -/
structure ByteRead where
  st : State
  fail : Option MemFail
  bytes : List Byte
  charge : Nat
  cause : Nat
deriving DecidableEq, Repr

def rowPart (row : BitVec 512) (lo hi : Nat) : List Byte :=
  (List.range (hi - lo)).map fun i => BitVec.ofNat 8 (fld row.toNat (8 * (lo + i)) 8)

/-- A failed row, as DETAIL names it (R492). -/
def rowPa : RowAt → Nat
  | .stack pa _ => pa
  | _ => 0

def readSpan (env : Env) (q : Nat) (t : Tile) (sp reader : Nat) : Nat → Nat → Nat → State → ByteRead
  | 0, _, _, s => { st := s, fail := none, bytes := [], charge := 0, cause := 0 }
  | fuel + 1, a, n, s =>
    if n = 0 then { st := s, fail := none, bytes := [], charge := 0, cause := 0 }
    else
      match rowOf q t sp a with
      | none => { st := s, fail := some { status := stBusRead, addr := a, detail := 0, needs := none }, bytes := [], charge := 0, cause := 0 }
      | some l =>
        let r := readRowAt env l reader s
        if r.status ≠ stOk then
          { st := r.st, fail := some { status := r.status, addr := a, detail := rowPa l, needs := r.needs }, bytes := [], charge := r.charge,
            cause := r.cause }
        else
          let k := min n (64 - a % 64)
          let rest := readSpan env q t sp reader fuel (a + k) (n - k) r.st
          { rest with bytes := rowPart r.row (a % 64) (a % 64 + k) ++ rest.bytes, charge := r.charge + rest.charge,
                      cause := r.cause ||| rest.cause }

/-- The controllers and banks that hold a span of bytes take an access of the mover's quarter now. -/
def spanOpen (s : State) (q : Nat) (t : Tile) (sp a n : Nat) : Bool :=
  (linesOf a n).all fun r => (rowOf q t sp r).all (rowOpen s q)

/-- The tile under formation, the state, and whether it waits or goes on. -/
structure Forged where
  tile : Tile
  st : State
  fault : Option TileFault
  more : Bool
  wait : Bool
deriving DecidableEq, Repr

def Forged.waiting (t : Tile) (s : State) : Forged := { tile := t, st := s, fault := none, more := false, wait := true }
def Forged.goes (t : Tile) (s : State) : Forged := { tile := t, st := s, fault := none, more := true, wait := false }
def Forged.fails (t : Tile) (f : TileFault) (s : State) : Forged := { tile := t, st := s, fault := some f, more := false, wait := false }

def memFail (f : TileFault) : MemFail := { status := f.status, addr := f.addr, detail := f.detail, needs := f.needs }

/-- The fault of a read that failed. -/
def readFault (f : MemFail) : TileFault :=
  { status := f.status, addr := f.addr, write := false, detail := f.detail, needs := f.needs, xf := none }

/-- An index that failed: the tile ends before the element that needs it, or fails where it holds none. -/
def indexFails (t : Tile) (f : TileFault) (segs : List (Nat × Nat)) (s : State) : Forged :=
  if segs.isEmpty then .fails t f s
  else { tile := { t with indexFail := if f.xf.isSome then none else some (memFail f) }, st := s, fault := none, more := false,
         wait := false }

/-- Reads index `j`, whose access may be made. -/
def readIndex (env : Env) (m j : Nat) (segs : List (Nat × Nat)) (a : Access) (t : Tile) (s : State) : Forged :=
  let r := readSpan env (moverQuarter m) t a.sp 0 2 a.addr a.n s
  match r.fail with
  | some f => indexFails t (readFault f) segs r.st
  | none => .goes { t with idx := Tbl.put t.idx j (bytesToNat r.bytes), charge := t.charge + r.charge, cause := t.cause ||| r.cause } r.st

/-- Reads index `j` of a tile once its pages are answered. -/
def forgeIndex (env : Env) (d : Desc) (m : Nat) (mask : BitVec 16) (j : Nat) (segs : List (Nat × Nat)) (t : Tile) (s : State) : Forged :=
  let a := indexAccess d j
  let x := lookPages env m (vaPages a) t s
  if !settled x.1 then .waiting x.1 x.2
  else
    match accessFault x.2 x.1 mask a with
    | some f => indexFails x.1 f segs x.2
    | none =>
      if !spanOpen x.2 (moverQuarter m) x.1 a.sp a.addr a.n then .waiting x.1 x.2 else readIndex env m j segs a x.1 x.2

/-- The tile as formed with the indices it has. -/
def shapeTile (f : Formed) (t : Tile) : Tile := { t with segs := f.segs, next := f.next }

/-- Forms the tile, reading indices as it goes. -/
def forge (env : Env) (d : Desc) (m : Nat) (mask : BitVec 16) : Nat → Tile → State → Forged
  | 0, t, s => .waiting t s
  | fuel + 1, t, s =>
    let f := formTile d t.idx t.start
    match f.need with
    | none => .goes (shapeTile f t) s
    | some j =>
      if t.indexFail.isSome then .goes (shapeTile f t) s
      else
        let x := forgeIndex env d m mask j f.segs t s
        if x.fault.isSome then x
        else if x.more then forge env d m mask fuel x.tile x.st
        else if x.wait then x
        else .goes (shapeTile f x.tile) x.st

/-- Reads the escape bits of the tile's blocks that a map bit describes. -/
def readEscapes (env : Env) (d : Desc) (q : Nat) (mask : BitVec 16) : List Nat → Tile → State → Forged
  | [], t, s => .goes t s
  | v :: vs, t, s =>
    match escBit d v with
    | none => readEscapes env d q mask vs t s
    | some k =>
      let a : Access := { sp := spMere, addr := xEscMap d + k / 8, n := 1, write := false }
      if Tbl.has t.esc k then readEscapes env d q mask vs t s
      else if !spanOpen s q t spMere a.addr 1 then .waiting t s
      else
        match accessFault s t mask a with
        | some f => .fails t f s
        | none =>
          let r := readSpan env q t spMere 0 1 a.addr 1 s
          match r.fail with
          | some f => .fails t (readFault f) r.st
          | none =>
            readEscapes env d q mask vs
              { t with esc := Tbl.put t.esc k ((bytesToNat r.bytes).testBit (k % 8)), charge := t.charge + r.charge,
                       cause := t.cause ||| r.cause } r.st

/-! TILE_TRANSLATE. -/

/-- The check point 0x0022 of the quarter takes the tile's first VA access (R503). -/
def forcedFault (s : State) (q : Nat) (t : Tile) (l : List Access) : Option TileFault :=
  match l.find? fun a => a.sp == spVa with
  | none => none
  | some a =>
    (injFires s [0x22] q).map fun arm =>
      let reason := fld arm.arg.toNat 0 4
      let x := t.xl.find? fun y => y.page == a.addr / 4096
      let b := (t.bad.find? fun y => y.1 == a.addr / 4096).map Prod.snd
      let found := (x.map PageXl.found).getD ((b.map XFault.found).getD 0)
      let dom := (x.map fun y => y.src.domain).getD ((b.map XFault.domain).getD 0)
      let pa := (x.map PageXl.entryPa).getD ((b.map XFault.entryPa).getD 0)
      let f := xfault reason found dom pa
      xlateFault f a.addr a.write

def checkEvent (q m : Nat) (l : List Access) (s : State) : State :=
  if l.any fun a => a.sp == spVa then injEvent [0x22] q 1 (islMover m) s else s

def xlateRec (s : State) (i : Nat) (x : Stream) (m : Nat) (f : TileFault) (xf : XFault) : PeatRec :=
  mkRec s 0x020 1 (islMover m) [i, xf.reason, b2n f.write, f.addr / 4096]
    [pack [(7, 0), (7, m), (10, 0), (4, xf.domain), (1, b2n f.write), (3, xf.found), (4, xf.reason), (8, x.gen), (20, i)],
      pack [(48, f.addr), (16, (ringMask s x.ring).toNat)], pack [(42, xf.entryPa)]]

def failureOf (f : TileFault) : Failure :=
  { status := f.status, addr := f.addr, write := f.write, seq := 0, detail := f.detail, needs := f.needs }

/-- A translation fault proper, which writes XLATE_FAULT and is counted; a failed table read is the memory's. -/
def isXlate (f : TileFault) : Option XFault := f.xf.filter fun x => x.status == stUnmapped || x.status == stProtection

/-- The tile fails before any access of it (R291). -/
def failTile (n : Nat) (x : Slot) (f : TileFault) (needs : Option Nat) (s : State) : State :=
  match Tbl.get? s.streams x.stream, isXlate f with
  | some st, some xf =>
    let r := xlateRec s x.stream st (slotMover n) f xf
    haltStream x.stream (failureOf f) false (offeredIn needs r s) (bump 2 (moverQuarter (slotMover n)) 5 1 (offer needs r s))
  | _, _ => haltStream x.stream (failureOf f) false (needs.orElse fun _ => f.needs) s

def putNext (n : Nat) (t : Tile) (s : State) : State := updSlot n (fun x => { x with nxt := some t }) s

/-- The tile is current where none is, else next; the tile after it starts where it ends. -/
def acceptTile (t : Tile) (x : Slot) : Slot :=
  let y := { x with cursor := t.next, nextNum := t.num + 1, allFormed := decide (total x.desc ≤ t.next.elem) }
  if x.cur.isNone then { y with cur := some t, nxt := none } else { y with nxt := some t }

/-- The order's first failing access, with the forced failure of the injection point first. -/
def firstFault (s : State) (q : Nat) (mask : BitVec 16) (t : Tile) (l : List Access) : Option TileFault :=
  match forcedFault s q t l with
  | some f => some f
  | none => l.findSome? (accessFault s t mask)

/-- All answers are there: the tile is checked, and translated or failed. -/
def judgeTile (n : Nat) (x : Slot) (d : Desc) (mask : BitVec 16) (t : Tile) (s : State) : State :=
  let m := slotMover n
  let q := moverQuarter m
  let l := tileAccesses d t
  let needs := if (forcedFault s q t l).isSome then injNeeds [0x22] q 1 (islMover m) s else none
  match firstFault s q mask t l with
  | some f =>
    -- with an earlier tile still in work the failure waits, so that TILE names the tile that failed (R291)
    if x.cur.isSome then putNext n { t with faulted := true } s else failTile n x f needs (checkEvent q m l s)
  | none => updSlot n (acceptTile { t with translated := true }) (checkEvent q m l s)

/-- The tile in work: the next one, or a new one where the last left off. -/
def tileInWork (x : Slot) : Tile :=
  match x.nxt with
  | some t => t
  | none => { newTile x.nextNum x.cursor with indexFail := x.cur.bind Tile.indexFail }

/-- A memory failure met for this tile already, or by the index that ended the tile before it (R203). -/
def metFault (t : Tile) : Option TileFault :=
  if t.segs.isEmpty then t.indexFail.map readFault else none

/-- The slot may translate a tile: one is left, and none is waiting translated. -/
def mayTranslate (x : Slot) : Bool :=
  !x.release && x.failing.isNone && !(x.nxt.any Tile.translated) &&
    (x.nxt.isSome || decide (x.cursor.elem < total x.desc)) && (x.nxt.all settled)

/-- The memory functions the tile may need take work. -/
def xlateUp (s : State) (d : Desc) : Bool :=
  (fnTakes s .translation || !(d.srcSpace == spVa || d.dstSpace == spVa || (d.gather && d.g.space == spVa))) &&
    (fnTakes s .mere || !(d.srcSpace == spMere || d.dstSpace == spMere || (d.gather && d.g.space == spMere) ||
      (isExpand d && xEscBlocks d != 0)))

/-- The tile fails, at once or when the tile before it has landed. -/
def failOrWait (n : Nat) (x : Slot) (f : TileFault) (t : Tile) (s : State) : State :=
  if x.cur.isSome then
    putNext n (if f.xf.isSome then { t with faulted := true } else { t with segs := [], indexFail := some (memFail f), faulted := true }) s
  else failTile n x f none s

/-- The tile has its shape and its bits: its pages are looked up, and it is judged once all have answered. -/
def translateShaped (n : Nat) (env : Env) (x : Slot) (mask : BitVec 16) (t : Tile) (s : State) : State :=
  let y := lookPages env (slotMover n) ((tileAccesses x.desc t).flatMap vaPages) t s
  if settled y.1 then judgeTile n x x.desc mask y.1 y.2 else putNext n y.1 y.2

def translateTile (n : Nat) (env : Env) (x : Slot) (s : State) : State :=
  let mask := ringMask s x.ring
  let t := tileInWork x
  match metFault t with
  | some e => failOrWait n x e t s
  | none =>
    let f := forge env x.desc (slotMover n) mask tileFuel t s
    match f.fault with
    | some e => failOrWait n x e f.tile f.st
    | none =>
      if !f.more then putNext n f.tile f.st
      else
        let g := readEscapes env x.desc (moverQuarter (slotMover n)) mask (tileBlocks x.desc (f.tile.elems x.desc)) f.tile f.st
        match g.fault with
        | some e => failOrWait n x e g.tile g.st
        | none => if g.wait then putNext n g.tile g.st else translateShaped n env x mask g.tile g.st

/-- TILE_TRANSLATE (R232, R286 to R291). -/
def execTileTranslate (slot : Fin 3072) (env : Env) (s : State) : Host.Outcome State Fault Refusal :=
  match Tbl.get? s.slots slot.val with
  | none => .next s
  | some x =>
    let m := slotMover slot.val
    .next (if inService s && fnTakes s (.mover (Fin.ofNat 4 (moverQuarter m))) && xlateUp s x.desc && mayTranslate x then
        translateTile slot.val env x s
      else s)

end Sys2Proof.Machine
end

