-- ==== Sys2Proof/Machine/Walk.lean ====
section
/-! DEFINITION. The quarters' second level and walker, withdrawals, and the translation commands (09_translation.md). -/

namespace Sys2Proof.Machine

/-! Answers to a slot (R281, R288). -/

def updTiles (n : Nat) (f : Tile → Tile) (s : State) : State :=
  updSlot n (fun x => { x with cur := x.cur.map f, nxt := x.nxt.map f }) s

def unwait (page : Nat) (t : Tile) : Tile :=
  { t with misses := t.misses.filter fun p => p != page, walking := t.walking.filter fun p => p != page }

/-- Charge and cause bit of an answer, once per tile for the second level (R258). -/
def chargeTile (n bit : Nat) (t : Tile) : Tile := { t with charge := t.charge + n, cause := t.cause ||| bit }

def installFirst (m : Nat) (e : LabEntry) (s : State) : State :=
  setMover m (fun v => { v with lab := labInstall 64 v.lab e }) s

/-- The page is answered by a mapping: the first level holds it, and the tile keeps it. -/
def answerHit (n page found charge bit : Nat) (e : LabEntry) (s : State) : State :=
  updTiles n (fun t =>
    if t.misses.contains page || t.walking.contains page then
      chargeTile charge bit (holdPage page found e (unwait page t)) else t) (installFirst (slotMover n) e s)

def answerBad (n page charge bit : Nat) (x : XFault) (s : State) : State :=
  updTiles n (fun t =>
    if t.misses.contains page || t.walking.contains page then
      chargeTile charge bit { unwait page t with bad := t.bad ++ [(page, x)] } else t) s

/-! SECOND_LEVEL_LOOKUP (R282). -/

def missOf (x : Slot) : Option Nat := (x.cur.bind fun t => t.misses.head?).orElse fun _ => x.nxt.bind fun t => t.misses.head?

/-- Charge of a second-level answer: 12, once per tile. -/
def l2Charge (x : Slot) : Nat :=
  if ((x.nxt.orElse fun _ => x.cur).map Tile.cause).getD 0 &&& 32 = 0 then 12 else 0

def xlateSite (q idx : Nat) : EccSite := soundSite 0x05 q idx 1 (islQuarter q) 0 0 [9]

def startMiss (n page : Nat) (q : Nat) (s : State) : State :=
  let t := updTiles n (fun t => if t.misses.contains page then { unwait page t with walking := t.walking ++ [page] } else t) s
  { bump 2 q 1 1 t with xlate := putQX t q fun x => { x with missQ := x.missQ ++ [(n, page)] } }

/-- A look-up of the quarter, its copy of the range table and its parity checked. -/
def lookSecond (n page : Nat) (x : Slot) (s : State) : State :=
  let q := moverQuarter (slotMover n)
  let s1 := copyLookup q s
  match secondLevel s1 q page with
  | .waits => s
  | .noRoot => answerBad n page (l2Charge x) 32 noRootFault (bump 2 q 1 1 s1)
  | .miss => startMiss n page q s1
  | .hit e =>
    if e.range.isSome then answerHit n page 4 (l2Charge x) 32 e s1
    else
      let site := xlateSite q ((quarterX s1 q).lab2.findIdx fun y => y == e)
      let s2 := soundRead .quiet site s1
      if badRead .quiet site s1 then
        startMiss n page q { s2 with xlate := putQX s2 q fun y => { y with lab2 := y.lab2.filter fun z => z != e } }
      else answerHit n page 5 (l2Charge x) 32 e { s2 with xlate := putQX s2 q fun y => { y with lab2 := labTouch y.lab2 e } }

/-- Movers of a quarter with a page that waits for the second level and can be answered. -/
def lookers (s : State) (q : Nat) : List Nat :=
  dedupe ((s.slots.filter fun e =>
    moverQuarter (slotMover e.1) == q && (match missOf e.2 with
      | some page => secondLevel s q page != .waits
      | none => false)).map fun e => slotMover e.1)

/-- The mover's turn at the second level of its quarter (R22). -/
def lookTurn (s : State) (m : Nat) : Bool := (quarterX s (moverQuarter m)).arb.turn (lookers s (moverQuarter m)) == some m

/-- The second level has served the mover. -/
def passLook (m : Nat) (s : State) : State :=
  let q := moverQuarter m
  { s with xlate := putQX s q fun x => { x with arb := x.arb.grant (lookers s q) m } }

/-- SECOND_LEVEL_LOOKUP (R22, R282, R284). -/
def execSecondLevelLookup (slot : Fin 3072) (s : State) : Host.Outcome State Fault Refusal :=
  match Tbl.get? s.slots slot.val with
  | none => .next s
  | some x =>
    match missOf x with
    | none => .next s
    | some page =>
      .next (if inService s && fnTakes s .translation && lookTurn s (slotMover slot.val) &&
            secondLevel s (moverQuarter (slotMover slot.val)) page != .waits then
          lookSecond slot.val page x (passLook (slotMover slot.val) s)
        else s)

/-! PAGE_WALK_START (R284). -/

/-- The walk in progress that covers a page or its group of 16. -/
def walkFor (l : List Walk) (page : Nat) : Option Walk := l.find? fun w => w.page / 16 == page / 16

def joinWalk (n page : Nat) (x : QXlate) : QXlate :=
  match walkFor x.walks page with
  | some w => { x with walks := x.walks.map fun v => if v = w then { v with slots := v.slots ++ [(n, page)] } else v }
  | none => x

/-- A walk that begins below the pointer `p`, which has been used, or at the root. -/
def beginWalk (x : Xlate) (n page : Nat) (p : Option PtrEntry) (y : QXlate) : QXlate :=
  { y with
    ptrs := match p with
      | some e => ptrInstall y.ptrs e
      | none => y.ptrs
    walks := y.walks ++ [{ page := page, slots := [(n, page)], level := (walkStart x p).1, table := (walkStart x p).2, cost := 0, cause := 0 }] }

def dropPtr (e : PtrEntry) (y : QXlate) : QXlate := { y with ptrs := y.ptrs.filter fun v => v != e }

/-- Starts a walk from the walk cache; a pointer whose parity fails is dropped, and the walk begins at the root (R476). -/
def startWalk (q n page : Nat) (s : State) : State :=
  let y := quarterX s q
  match ptrDeepest y.ptrs page with
  | none => { s with xlate := putQX s q (beginWalk s.xlate n page none) }
  | some e =>
    let site := xlateSite q (16384 + y.ptrs.findIdx fun v => v == e)
    let s1 := soundRead .quiet site s
    if badRead .quiet site s then { s1 with xlate := putQX s1 q fun v => beginWalk s1.xlate n page none (dropPtr e v) }
    else { s1 with xlate := putQX s1 q (beginWalk s1.xlate n page (some e)) }

def takeMiss (q : Nat) (s : State) : State :=
  let x := quarterX s q
  match x.missQ with
  | [] => s
  | (n, page) :: rest =>
    let t := { s with xlate := putQX s q fun y => { y with missQ := rest } }
    if (walkFor x.walks page).isSome then { s with xlate := putQX s q fun y => joinWalk n page { y with missQ := rest } }
    else if x.walks.length < 64 then startWalk q n page (bump 2 q 2 1 t)
    else s

/-- PAGE_WALK_START (R284). -/
def execPageWalkStart (q : Fin 4) (s : State) : Host.Outcome State Fault Refusal :=
  .next (if inService s && fnTakes s .translation then takeMiss q.val s else s)

/-! WALK_TABLE_READ (R279, R283, R285). -/

/-- Cycles of one table read: eight more for a stack of another quarter. -/
def tableCost (q table : Nat) : Nat := if table / stackSpan / 6 = q then 118 else 126

def setWalk (w : Walk) (f : Walk → Walk) (x : QXlate) : QXlate :=
  { x with walks := (x.walks.filter fun v => v != w) ++ [f w] }

def endWalk (w : Walk) (x : QXlate) : QXlate := { x with walks := x.walks.filter fun v => v != w }

/-- Slots whose page the walk did not settle wait again. -/
def requeueWalk (q : Nat) (w : Walk) (covers : Nat → Bool) (s : State) : State :=
  { s with xlate := putQX s q fun x => { x with missQ := x.missQ ++ w.slots.filter fun p => !covers p.2 } }

def answerWalk (w : Walk) (covers : Nat → Bool) (f : Nat → Nat → State → State) (s : State) : State :=
  (w.slots.filter fun p => covers p.2).foldl (fun t p => f p.1 p.2 t) s

/-- The walk once a table read and its corrections are charged. -/
def chargeWalk (q : Nat) (r : WalkRead) (w : Walk) : Walk :=
  { w with cost := w.cost + tableCost q w.table + r.charge, cause := w.cause ||| r.cause }

def walkCharge (q : Nat) (r : WalkRead) (w : Walk) : Nat := 12 + (chargeWalk q r w).cost
def walkCause (q : Nat) (r : WalkRead) (w : Walk) : Nat := 64 ||| (chargeWalk q r w).cause

def readTable (q : Nat) (env : Env) (evict : Option Nat) (w : Walk) (s : State) : State :=
  let r := walkRead env w.page w.level w.table s
  let s1 := bump 2 q 3 1 r.st
  match r.step with
  | .table pa =>
    let p : PtrEntry := { level := w.level, va := w.page / 512 ^ w.level, pa := pa }
    let deeper := fun (v : Walk) => { chargeWalk q r v with level := v.level - 1, table := pa }
    { s1 with xlate := putQX s1 q fun x => setWalk w deeper { x with ptrs := ptrInstall x.ptrs p } }
  | .done e =>
    let s2 := if e.run then bump 2 q 4 1 s1 else s1
    let s3 := { s2 with xlate := putQX s2 q fun x => endWalk w { x with lab2 := l2Install x.lab2 e evict } }
    requeueWalk q w (labCovers e) (answerWalk w (labCovers e) (fun n p t => answerHit n p w.level (walkCharge q r w) (walkCause q r w) e t) s3)
  | .fault x =>
    let s2 := { s1 with xlate := putQX s1 q (endWalk w) }
    requeueWalk q w (fun p => p == w.page) (answerWalk w (fun p => p == w.page) (fun n p t => answerBad n p (walkCharge q r w) (walkCause q r w) x t) s2)

/-- The stack that holds a walk's next table takes the read, which crosses to it from the walker's quarter. -/
def tableOpen (s : State) (q : Nat) (w : Walk) : Bool := rowOpen s q (.stack (w.table + 8 * vaIndex w.page w.level) s.xlate.tableKey)

/-- WALK_TABLE_READ: the quarter's oldest walk that nothing holds back makes its next table read. `evict` is the way that
leaves a full set, which is implementation-defined (R282). -/
def execWalkTableRead (q : Fin 4) (env : Env) (evict : Option Nat) (s : State) : Host.Outcome State Fault Refusal :=
  match (quarterX s q.val).walks.find? fun w => !waitsWithdrawal s w.page && tableOpen s q.val w with
  | some w => .next (if inService s && fnTakes s .translation then readTable q.val env evict w s else s)
  | none => .next s

/-! Withdrawals (R293 to R299, R383). -/

/-- A held mapping that a withdrawal takes away. -/
def withdrawn (w : Wd) (p : PageXl) : Bool :=
  decide (w.va / 4096 ≤ p.page ∧ p.page < w.va / 4096 + w.pages) &&
    (match w.kind with
    | .unmap n => p.src.range == some n
    | .mere _ => false
    | _ => p.src.range.isNone) &&
    (match w.domain with
    | some d => p.src.domain == d
    | none => true)

/-- A tile with an access in the Mere pages that are being freed (R383). -/
def usesMere (d : Desc) (t : Tile) (a n : Nat) : Bool :=
  (tileAccesses d t).any fun x => x.sp == spMere && spansMeet x.addr x.n a n

def tileUses (w : Wd) (d : Desc) (t : Tile) : Bool :=
  match w.kind with
  | .mere _ => usesMere d t w.va (w.pages * 4096)
  | _ => t.xl.any (withdrawn w)

/-- A tile that is translated anew (R295 step 4). -/
def renew (t : Tile) : Tile := newTile t.num t.start

def renewSlot (w : Wd) (x : Slot) : Slot :=
  let y := { x with nxt := x.nxt.map fun t => if tileUses w x.desc t then renew t else t }
  match x.cur with
  | some t => if t.issued = 0 && tileUses w x.desc t then { y with cur := none, nxt := some (renew t) } else y
  | none => y

def drains (w : Wd) (x : Slot) : Option Nat :=
  match x.cur with
  | some t => if 0 < t.issued && tileUses w x.desc t then some t.num else none
  | none => none

def drainList (s : State) (w : Wd) : List (Nat × Nat) :=
  s.slots.filterMap fun e => (drains w e.2).map fun t => (e.1, t)

def wdRange (k : WdKind) : Option Nat := match k with | .unmap n => some n | _ => none

/-- Steps 1 to 5: the span is withdrawn everywhere, unissued tiles are renewed, issued ones drain. -/
def spreadWd (w : Wd) (s : State) : State :=
  let page := w.va / 4096
  let xl := { s.xlate with q := s.xlate.q.mapV fun _ x => qxDrop s.xlate x page w.pages w.domain (wdRange w.kind) }
  match w.kind with
  | .mere _ => { s with slots := s.slots.mapV fun _ x => renewSlot w x }
  | _ =>
    { s with
      xlate := xl
      movers := s.movers.mapV fun _ m => { m with lab := labDrop m.lab page w.pages w.domain (wdRange w.kind) }
      slots := s.slots.mapV fun _ x => renewSlot w x }

/-- INVALIDATE_DONE (R299). -/
def wdRec (s : State) (w : Wd) : PeatRec :=
  let e := match w.kind with
    | .unmap n => n
    | _ => 0xFFFF
  mkRec s 0x021 3 islMgmt [w.cmdSeq.toNat, e, w.va]
    [pack [(16, min w.tiles 0xFFFF), (16, w.opcode), (32, w.cmdSeq.toNat)], pack [(48, w.va), (16, e)],
      pack [(28, min (cyclesOf s islMgmt - w.start) 0xFFFFFFF), (36, min w.pages 0xFFFFFFFFF)]]

/-- Lookups that waited for the withdrawal begin anew, under the new state. -/
def wakeLookups (w : Wd) (s : State) : State :=
  let inSpan := fun (p : Nat) => decide (w.va / 4096 ≤ p ∧ p < w.va / 4096 + w.pages)
  let wake := fun (t : Tile) =>
    { t with walking := t.walking.filter fun p => !inSpan p, misses := t.misses ++ t.walking.filter inSpan }
  { s with
    xlate := { s.xlate with q := s.xlate.q.mapV fun _ x =>
      { x with walks := x.walks.filter fun v => !inSpan v.page, missQ := x.missQ.filter fun p => !inSpan p.2 } }
    slots := s.slots.mapV fun _ x => { x with cur := x.cur.map wake, nxt := x.nxt.map wake } }

/-- Pages read as zero, with valid check bits (R382, R383). -/
def zeroPages (a pages : Nat) (s : State) : State :=
  { s with mem := { s.mem with
      mere := cellErase s.mem.mere a (pages * 4096)
      mereBad := s.mem.mereBad.filter fun w => !decide (a / 4 ≤ w ∧ w < a / 4 + pages * 1024) } }

/-- What the withdrawal makes way for (R275, R276, R280, R383). -/
def commitWd (w : Wd) (s : State) : State :=
  match w.kind with
  | .paged => s
  | .unmap n => mirrorSend (.range n none) <| wakeLookups w { s with xlate := { s.xlate with ranges := Tbl.del s.xlate.ranges n } }
  | .map n r => mirrorSend (.range n (some r.mbody)) <| wakeLookups w { s with xlate := { s.xlate with ranges := Tbl.put s.xlate.ranges n r } }
  | .root on pa key => mirrorSend (.paged (BitVec.ofNat 42 pa) on (BitVec.ofNat 4 key)) <| wakeLookups w { s with xlate := { s.xlate with enable := on, root := pa, tableKey := key } }
  | .mere p => mirrorSend (.mereFree p) (zeroPages w.va w.pages { s with allocs := Tbl.del s.allocs p })

/-- Length and value of the result of the command that withdrew (R274, R276, R280, R294). -/
def wdResult (w : Wd) : Nat × Nat :=
  match w.kind with
  | .map n _ => (8, n)
  | .root _ _ _ => (0, 0)
  | .mere _ => (0, 0)
  | _ => (8, pack [(32, w.tiles), (32, w.dropped)])

def noteWd (w : Wd) (s : State) : State :=
  match w.kind with
  | .mere _ => s
  | _ => peatNow (wdRec s w) s

/-- Step 7 (R295, R299): the record, the entry's removal, and DONE. -/
def finishWd (w : Wd) (s : State) : State :=
  let t := commitWd w (noteWd w { s with xlate := { s.xlate with wds := s.xlate.wds.filter fun x => x.id != w.id } })
  finishWait (.withdrawal w.id) stOk (wdResult w).1 (wdResult w).2 t

/-- Starts a withdrawal. Movers that drain nothing acknowledge at once; `start` is when the GO was accepted (R299). -/
def startWd (w0 : Wd) (s : State) : State :=
  let dr := drainList s w0
  let w := { w0 with
    id := s.xlate.nextWd
    drained := dr
    tiles := dr.length
    dropped := match w0.kind with
      | .mere _ => 0
      | _ => droppedBy s (w0.va / 4096) w0.pages w0.domain (wdRange w0.kind)
    acks := dedupe (dr.map fun d => slotMover d.1) }
  let s1 := spreadWd w s
  { s1 with xlate := { s1.xlate with wds := s1.xlate.wds ++ [w], nextWd := s1.xlate.nextWd + 1 } }

/-- Management cycle at which the GO of a mailbox was accepted. -/
def goAt (s : State) (m : Nat) : Nat := (s.mbox[m]?.map Mbox.goAt).getD 0

/-- A row that a slice writes. -/
def ofSlice : Who → Bool
  | .slot _ _ | .area _ _ => true
  | _ => false

/-- Requests of cores and slices for freed pages that have not been answered (R383). -/
def coreDrains (s : State) (w : Wd) : Bool :=
  match w.kind with
  | .mere _ =>
    (s.ports.any fun e => e.2.reads.any fun c => !c.reqs.isEmpty && spansMeet c.addr c.len w.va (w.pages * 4096)) ||
      s.mem.reqs.any fun r => ofSlice r.who && spansMeet r.addr 64 w.va (w.pages * 4096)
  | _ => false

/-- Nothing is left to drain. -/
def wdReady (s : State) (w : Wd) : Bool := w.acks.isEmpty && !coreDrains s w

/-- A command that withdraws answers at once where nothing drains, else when the last mover has acknowledged. -/
def runWd (m : Nat) (w : Wd) (s : State) : State × Reply :=
  let id := s.xlate.nextWd
  let s1 := startWd { w with mbox := some m, start := goAt s m } s
  match s1.xlate.wds.find? fun x => x.id == id with
  | some x =>
    if wdReady s1 x then
      let s2 := { s1 with xlate := { s1.xlate with wds := s1.xlate.wds.filter fun y => y.id != id } }
      (commitWd x (noteWd x s2), okWith (wdResult x).1 (wdResult x).2)
    else (s1, .wait (.withdrawal id))
  | none => (s1, okEmpty)

/-- Drained tiles of a mover that are still in flight. -/
def stillDrains (s : State) (mv : Nat) (w : Wd) : Bool :=
  w.drained.any fun d => slotMover d.1 == mv &&
    (match (Tbl.get? s.slots d.1).bind Slot.cur with
    | some t => t.num == d.2
    | none => false)

def ackWd (mv : Nat) (w : Wd) (s : State) : Wd := if stillDrains s mv w then w else { w with acks := w.acks.filter fun m => m != mv }

/-- Withdrawals with nothing left to drain are done. -/
def settleWds (s : State) : State := (s.xlate.wds.filter (wdReady s)).foldl (fun t w => finishWd w t) s

/-- The mover acknowledges every withdrawal whose tiles it has drained; those with no acknowledgement left are done. -/
def ackAll (mv : Nat) (s : State) : State :=
  let s1 := { s with xlate := { s.xlate with wds := s.xlate.wds.map fun w => ackWd mv w s } }
  settleWds s1

/-- MOVER_DRAIN_ACK (R295). -/
def execMoverDrainAck (mv : Fin 96) (s : State) : Host.Outcome State Fault Refusal :=
  .next (if s.xlate.wds.any (fun w => w.acks.contains mv.val) && mgmtRuns s then ackAll mv.val s else s)

/-! RANGE_MAP, RANGE_UNMAP, PAGE_ROOT_SET and WITHDRAW. -/

def baseWd (c : Cmd) (k : WdKind) (va pages : Nat) (domain : Option Nat) : Wd :=
  { id := 0, mbox := none, job := none, opcode := c.op, cmdSeq := c.seq, kind := k, va := va, pages := pages,
    domain := domain, drained := [], tiles := 0, dropped := 0, acks := [], start := 0 }

def bodyRange (body : Nat) : RangeEntry :=
  { domain := fld body 228 4, key := fld body 224 4, read := fld body 192 1 == 1, write := fld body 193 1 == 1,
    length := fld body 160 32, pa := fld body 64 42, va := fld body 0 48, withdrawing := false,
    mbody := BitVec.ofNat 256 body }

def domainOk (s : State) (j v : Nat) : Bool := if j = 0 then v == 0 || jobActs s v else v == j

def paOk (s : State) (pa n : Nat) : Bool :=
  pa % 65536 == 0 && (inStack s pa n || inHost pa n) && !hitsCtx s pa n

def mapRangeFlds (s : State) (j : Nat) : List (Nat → List Fld) :=
  [fun _ => [
    chk 1 240 16 fun v =>
      if v = 0xFFFF then (if (Tbl.firstFree s.xlate.ranges 0 1024).isSome then .ok else .ends stExhausted)
      else refuseUnless (decide (v < 1024) && !Tbl.has s.xlate.ranges v),
    rsvd 2 232 8,
    chk 3 228 4 fun v => refuseUnless (domainOk s j v),
    chkB 4 224 4 fun b v => refuseUnless (decide (hostBase ≤ fld b 64 42) || keyOf s v (fld b 228 4)),
    rsvd 5 194 30,
    chk 6 193 1 fun _ => .ok,
    chk 7 192 1 fun _ => .ok,
    chk 8 160 32 fun v => refuseUnless (v != 0),
    rsvd 9 106 54,
    chkB 10 64 42 fun b v => refuseUnless (paOk s v (fld b 160 32 * 65536)),
    rsvd 11 48 16,
    chkB 12 0 48 fun b v => refuseUnless (v % 65536 == 0 && decide (v + fld b 160 32 * 65536 ≤ vaEnd))]]

/-- The entry that an entry's VA span, or the PA span of another domain, overlaps (R274). -/
def vaClash (s : State) (r : RangeEntry) : Option Nat :=
  (s.xlate.ranges.find? fun e => spansMeet e.2.va (rangeSpan e.2) r.va (rangeSpan r)).map Prod.fst
def paClash (s : State) (r : RangeEntry) : Option Nat :=
  (s.xlate.ranges.find? fun e => e.2.domain != r.domain && spansMeet e.2.pa (rangeSpan e.2) r.pa (rangeSpan r)).map Prod.fst

/-- The entry is taken and counted from now on; it translates nothing before DONE. -/
def holdRange (n : Nat) (r : RangeEntry) (s : State) : State :=
  { s with xlate := { s.xlate with ranges := Tbl.put s.xlate.ranges n { r with withdrawing := true } } }

def mapRange (c : Cmd) (s : State) : State × Reply :=
  let r := bodyRange c.body
  let v := fld c.body 240 16
  match (if v = 0xFFFF then Tbl.firstFree s.xlate.ranges 0 1024 else some v) with
  | none => (s, endWith stExhausted)
  | some n =>
    match vaClash s r, paClash s r with
    | some k, _ => (s, .done stOverlap 0 0 8 k)
    | none, some k => (s, .done stOverlap 0 0 8 (k + 0x10000))
    | none, none =>
      if mayCreate s r.domain resRanges 1 then runWd c.m (baseWd c (.map n r) r.va (r.length * 16) none) (holdRange n r s)
      else (s, endWith stExhausted)

def specRangeMap : CmdSpec := { op := 0x0301, hw := false, sel := fun _ => true, flds := mapRangeFlds, act := mapRange }

/-- RANGE_MAP (R273 to R275). -/
def execRangeMap (m : Fin 8) (s : State) : Host.Outcome State Fault Refusal := .next (runCmd specRangeMap m s)

/-- The entry covers memory of an existing ring, or of a window that is not FREE (R174, R439). -/
def rangeHeld (s : State) (r : RangeEntry) : Bool :=
  (s.rings.any fun e => !e.2.place && spansMeet e.2.base (ringSize e.2 * 32) r.va (rangeSpan r)) ||
    s.cw.windows.any fun e => e.2.space == 0 && spansMeet e.2.base (e.2.length4k * 4096) r.va (rangeSpan r)

def unmapFlds (s : State) (j : Nat) : List (Nat → List Fld) :=
  [fun _ => [chk 1 0 16 fun v => refuseUnless
    (match Tbl.get? s.xlate.ranges v with
    | some r => mayName j r.domain && !rangeHeld s r && !r.withdrawing
    | none => false)]]

def markRange (n : Nat) (s : State) : State :=
  { s with xlate := { s.xlate with ranges := Tbl.upd s.xlate.ranges n fun r => { r with withdrawing := true } } }

def unmapRange (c : Cmd) (s : State) : State × Reply :=
  let n := fld c.body 0 16
  match Tbl.get? s.xlate.ranges n with
  | some r => runWd c.m (baseWd c (.unmap n) r.va (r.length * 16) none) (markRange n s)
  | none => (s, okEmpty)

def specRangeUnmap : CmdSpec := { op := 0x0302, hw := false, sel := fun _ => true, flds := unmapFlds, act := unmapRange }

/-- RANGE_UNMAP (R276). -/
def execRangeUnmap (m : Fin 8) (s : State) : Host.Outcome State Fault Refusal := .next (runCmd specRangeUnmap m s)

def systemKey (s : State) (k : Nat) : Bool :=
  match keySlot s k with
  | some x => x.state == 1 && x.job == 0
  | none => false

def rootFlds (s : State) (_ : Nat) : List (Nat → List Fld) :=
  [fun _ => [
    rsvd 1 72 56,
    chkB 2 68 4 fun b v => if fld b 64 1 = 0 then .ok else refuseUnless (systemKey s v),
    rsvd 3 65 3,
    chk 4 64 1 fun _ => .ok,
    rsvd 5 42 22,
    chkB 6 0 42 fun b v =>
      if fld b 64 1 = 0 then .ok else refuseUnless (v % 4096 == 0 && inStack s v 4096 && !hitsCtx s v 4096)]]

def setRoot (c : Cmd) (s : State) : State × Reply :=
  runWd c.m (baseWd c (.root (fld c.body 64 1 == 1) (fld c.body 0 42) (fld c.body 68 4)) 0 (2 ^ 36) none) s

def specPageRootSet : CmdSpec := { op := 0x0303, hw := false, sel := fun _ => true, flds := rootFlds, act := setRoot }

/-- PAGE_ROOT_SET (R280). -/
def execPageRootSet (m : Fin 8) (s : State) : Host.Outcome State Fault Refusal := .next (runCmd specPageRootSet m s)

def withdrawFlds (_ : State) (_ : Nat) : List (Nat → List Fld) :=
  [fun _ => [
    rsvd 1 100 28,
    chkB 2 64 36 fun b v => refuseUnless (v != 0 && decide (fld b 0 48 + v * 4096 ≤ vaEnd)),
    rsvd 3 48 16,
    chk 4 0 48 fun v => refuseUnless (v % 4096 == 0)]]

def withdrawSpan (c : Cmd) (s : State) : State × Reply :=
  runWd c.m (baseWd c .paged (fld c.body 0 48) (fld c.body 64 36) (if c.job = 0 then none else some c.job)) s

def specWithdraw : CmdSpec := { op := 0x0304, hw := false, sel := fun _ => true, flds := withdrawFlds, act := withdrawSpan }

/-- WITHDRAW (R294). -/
def execWithdraw (m : Fin 8) (s : State) : Host.Outcome State Fault Refusal := .next (runCmd specWithdraw m s)

/-! XLATE_QUERY (R300). -/

def queryFlds (_ : State) (j : Nat) : List (Nat → List Fld) :=
  [fun _ => [
    rsvd 1 74 54,
    chk 2 72 2 fun v => refuseUnless (v != 3),
    rsvd 3 64 8,
    chkB 4 48 16 fun b v => if fld b 72 2 = 2 ∨ j = 0 then .ok else .setTo (v &&& 2 ^ j),
    chk 5 0 48 fun _ => .ok]]

/-- What a lookup without a look-aside buffer finds: a mapping with where it was found, or a fault; and the state that
the reads left. -/
structure Asked where
  st : State
  found : Option (LabEntry × Nat)
  fault : XFault
deriving DecidableEq, Repr

/-- The range entry is being mapped and does not exist before DONE. -/
def beingMapped (s : State) (n : Nat) : Bool :=
  s.xlate.wds.any fun w =>
    match w.kind with
    | .map k _ => k == n
    | _ => false

/-- The walk of a query, which is counted as one of quarter 0's (log entry 90). -/
def askTables (env : Env) (page : Nat) (s : State) : Asked :=
  let st := walkStart s.xlate (ptrDeepest (quarterX s 0).ptrs page)
  let w := walkAll env page st.1 st.2 (bump 2 0 2 1 (bump 2 0 1 1 s))
  match w.step with
  | .done e => { st := if e.run then bump 2 0 4 1 w.st else w.st, found := some (e, e.level), fault := noRootFault }
  | .fault x => { st := w.st, found := none, fault := x }
  | .table _ => { st := w.st, found := none, fault := noRootFault }

/-- Translates as a mover of quarter 0 would, whose first level is empty, before a withdrawal in progress is done; installs
nothing (R300). -/
def askXlate (env : Env) (va : Nat) (s : State) : Asked :=
  match (rangeAt s va).filter fun e => !beingMapped s e.1 with
  | some (n, r) => { st := s, found := some (rangeLab n r, 4), fault := noRootFault }
  | none =>
    match labFind (quarterX s 0).lab2 (va / 4096) with
    | some e => { st := s, found := some (e, 5), fault := noRootFault }
    | none =>
      if s.xlate.enable then askTables env (va / 4096) s
      else { st := bump 2 0 1 1 s, found := none, fault := noRootFault }

/-- The 32-byte result for KIND 0 and 1. -/
def xlateInfo (a : Asked) (mask : BitVec 16) (va : Nat) (write : Bool) : Nat :=
  match a.found with
  | some (e, f) =>
    let x := permits mask e f (readPa f e) write
    pack [(8, (x.map XFault.status).getD 0), (8, (x.map XFault.reason).getD 0), (8, if e.range.isSome then 0 else 1),
      (8, if e.range.isSome then 3 else e.level), (8, if e.run then 16 else 1), (4, e.domain), (4, e.key),
      (8, b2n e.read + 2 * b2n e.write), (8, 0), (64, labPa e va), (16, e.range.getD 0xFFFF), (48, 0), (64, readPa f e)]
  | none =>
    pack [(8, a.fault.status), (8, a.fault.reason), (8, 2), (8, 0), (8, 1), (4, 0), (4, 0), (8, 0), (8, 0), (64, 0),
      (16, 0xFFFF), (48, 0), (64, a.fault.entryPa)]

/-- The 48-byte physical map of KIND 2. -/
def physicalMap (s : State) : Nat :=
  pack ((List.range 24).flatMap fun k => [(8, (stackAt s k).capGiB), (8, (stackAt s k).state)])

def queryXlate (env : Env) (c : Cmd) (s : State) : State × Reply :=
  if fld c.body 72 2 = 2 then (s, okWith 48 (physicalMap s))
  else
    let a := askXlate env (fld c.body 0 48) s
    (a.st, okWith 32 (xlateInfo a (BitVec.ofNat 16 (fld c.body 48 16)) (fld c.body 0 48) (fld c.body 72 2 == 1)))

def specXlateQuery (env : Env) : CmdSpec :=
  { op := 0x0305, hw := false, sel := fun _ => true, flds := queryFlds, act := queryXlate env }

/-- XLATE_QUERY (R300). -/
def execXlateQuery (m : Fin 8) (env : Env) (s : State) : Host.Outcome State Fault Refusal := .next (runCmd (specXlateQuery env) m s)

end Sys2Proof.Machine
end

