-- ==== Sys2Proof/Machine/Links.lean ====
section
/-! DEFINITION. Causeway: port states, flits and the link layer, routing, forwarding, link loss, and the commands on
device IDs, routes and links (13_causeway.md, R414 to R436, R449). -/

namespace Sys2Proof.Machine

/-! Ports. -/

def cport (s : State) (p : Nat) : CPort := Tbl.getD s.cw.ports p .reset
def setCport (p : Nat) (f : CPort → CPort) (s : State) : State :=
  { s with cw := { s.cw with ports := Tbl.put s.cw.ports p (f (cport s p)) } }

def pentry (s : State) (p : Nat) : PEntry := Tbl.getD s.cw.entries p .reset

def cwUp (s : State) (p : Nat) : Bool := (cport s p).state == 4

/-- The port's state as LINK_QUERY shows it (R414). -/
def linkState (s : State) (p : Nat) : Nat :=
  if !hasEngine s p then 0 else if (cport s p).state = 0 then 1 else (cport s p).state

def cwFn (p : Nat) : Fn := .causeway (Fin.ofNat 4 (p / 8))

/-- The port's group takes work. -/
def cwTakes (s : State) (p : Nat) : Bool := blockUp s && fnTakes s (cwFn p)

def portBump (p idx n : Nat) (s : State) : State := bump 6 p idx n s

/-! Flits (R419). -/

def flitField (f : BitVec 2048) (lo w : Nat) : Nat := fld f.toNat lo w
def flitType (f : BitVec 2048) : Nat := flitField f 60 4
def flitVc (f : BitVec 2048) : Nat := flitField f 34 2
def flitSop (f : BitVec 2048) : Bool := flitField f 7 1 == 1
def flitEop (f : BitVec 2048) : Bool := flitField f 6 1 == 1
def flitDst (f : BitVec 2048) : Nat := flitField f 18 10
def flitPayload (f : BitVec 2048) : BitVec 1920 := BitVec.ofNat 1920 (f.toNat >>> 128)

/-- CRC-32C over flit bytes 7:0 and 255:16. -/
def flitCrc (f : BitVec 2048) : Nat :=
  (crc32c (natToBytes 8 f.toNat ++ natToBytes 240 (f.toNat >>> 128))).toNat

/-- The IV of a flit (R424). -/
def flitIv (device port count : Nat) : Nat := pack [(64, count), (17, 0), (5, port), (10, device)]

def linkKey (s : State) (slot : Nat) : Option (BitVec 256) :=
  match keySlot s slot with
  | some k => if k.state = 2 ∧ slot ≠ 0xFF then some k.lo else none
  | none => none

def phaseSlot (e : PEntry) (phase : Bool) : Nat := if phase then e.slot1 else e.slot0

def tag64 (k : BitVec 256) (iv aad : Nat) (ct : BitVec 1920) : Nat :=
  fld (Config.gcmTag k iv aad (BitVec.ofNat 2048 ct.toNat)).toNat 0 64

def cipher (k : BitVec 256) (iv : Nat) (x : BitVec 1920) : BitVec 1920 :=
  x ^^^ BitVec.ofNat 1920 (Config.gcmStream k iv).toNat

/-- A credit return: the first VC that is owed flits, and how many of up to 15 (R422). -/
def creditOwed (x : CPort) : Nat × Nat :=
  match (List.range 4).find? fun v => decide (0 < x.owed.getD v 0) with
  | some v => (v, min 15 (x.owed.getD v 0))
  | none => (0, 0)

def payOwed (x : CPort) : CPort :=
  { x with owed := updAt x.owed (creditOwed x).1 fun n => n - (creditOwed x).2, ackDue := false }

/-- Header of a DATA flit: what the link layer of the sending port fills in, and the routing fields kept from `f`. -/
def linkHdr (x : CPort) (seq : Nat) (enc phase : Bool) (f : BitVec 2048) : Nat :=
  pack [(4, (creditOwed x).2), (2, (creditOwed x).1), (26, flitField f 6 26), (1, b2n enc), (1, b2n phase), (2, flitVc f),
    (12, x.rxSeq.toNat), (12, seq), (4, 1)]

/-- A DATA flit as the port sends it: sequenced, encrypted where the port's entry asks, and checked. -/
def dressFlit (s : State) (p : Nat) (f : BitVec 2048) : BitVec 2048 :=
  let x := cport s p
  let e := pentry s p
  let key := if e.enc then linkKey s (phaseSlot e e.txPhase) else none
  let hdr := linkHdr x x.txSeq.toNat key.isSome e.txPhase f
  match key with
  | some k =>
    let iv := flitIv s.cw.deviceId p (x.encCount.getD (b2n e.txPhase) 0)
    let ct := cipher k iv (flitPayload f)
    BitVec.ofNat 2048 (hdr + (tag64 k iv hdr ct <<< 64) + (ct.toNat <<< 128))
  | none =>
    let g := BitVec.ofNat 2048 (hdr + ((flitPayload f).toNat <<< 128))
    BitVec.ofNat 2048 (g.toNat + (flitCrc g <<< 64))

/-- A CONTROL flit. The manual gives no layout of its payload; byte 0 holds a kind (0 acknowledgement, 1 RETRY, 2 probe,
3 probe answer, 4 T_LINK echo request, 5 its answer) and the next 16 bits its argument. DESIGN CHOICE (log entry 31). -/
def controlBetween (s : State) (p kind arg src dst hops : Nat) : BitVec 2048 :=
  let x := cport s p
  let hdr := pack [(4, (creditOwed x).2), (2, (creditOwed x).1), (2, 0), (10, src), (10, dst), (4, hops), (4, 0),
    (12, x.rxSeq.toNat), (12, x.txSeq.toNat), (4, 2)]
  let g := BitVec.ofNat 2048 (hdr + (pack [(8, kind), (16, arg)] <<< 128))
  BitVec.ofNat 2048 (g.toNat + (flitCrc g <<< 64))

def controlFlit (s : State) (p kind arg dst : Nat) : BitVec 2048 :=
  controlBetween s p kind arg s.cw.deviceId dst (Tbl.getD s.cw.routes dst { valid := false, hops := 0, timeout := 0, ports := 0 }).hops

/-! Transmission (R420 to R422, R436). -/

/-- Counters that LINK_QUERY reads, kept beside the port's group (R449). -/
def ctrSent : Nat := 16
def ctrReceived : Nat := 17
def ctrReplays : Nat := 18
def ctrFecFixed : Nat := 19
def ctrFecBad : Nat := 20
def ctrAuth : Nat := 21

def sendControl (p kind arg : Nat) (s : State) : State :=
  let f := controlFlit s p kind arg 0
  setCport p (fun x => { payOwed x with out := x.out ++ [f] }) (portBump p ctrSent 1 s)

/-- Share of Causeway that a turn belongs to: a job's CW_SHARE, or the unreserved remainder for 16. -/
def shareOf (s : State) (t : Nat) : Nat :=
  if t = 16 then 100 - reserved s resShare else ((Tbl.get? s.jobs t).map Job.res |>.getD []).getD resShare 0

def waitsOrigin (x : CPort) (j : Nat) : Option TxFlit := x.txq.find? fun f => f.cls == 4 && !f.fwd && f.job == j

/-- Flits of the packet that begins with `f` in the queue. -/
def packetLen (x : CPort) (p : TxFlit → Bool) : Nat :=
  let l := x.txq.filter p
  match l.findIdx? fun f => flitEop f.flit with
  | some i => i + 1
  | none => l.length

/-- The job whose packet a turn would send: its own, or the next in turn of the remainder. -/
def turnJob (x : CPort) (t : Nat) : Option Nat :=
  if t = 16 then ((List.range 16).map fun i => (x.remTurn + 1 + i) % 16).find? fun j => (waitsOrigin x j).isSome
  else if (waitsOrigin x t).isSome then some t
  else none

/-- Moves through the turns until one can send; at most enough rounds for the longest packet at a share of one. -/
def pickTurn (s : State) : Nat → CPort → CPort × Option Nat
  | 0, x => (x, none)
  | fuel + 1, x =>
    match turnJob x x.turn with
    | some j =>
      let n := packetLen x fun f => f.cls == 4 && !f.fwd && f.job == j
      if n ≤ Tbl.getD x.deficit x.turn 0 then
        ({ x with deficit := Tbl.put x.deficit x.turn (Tbl.getD x.deficit x.turn 0 - n),
                  remTurn := if x.turn = 16 then j else x.remTurn }, some j)
      else
        let t := x.turn % 16 + 1
        pickTurn s fuel { x with turn := t, deficit := Tbl.put x.deficit t (Tbl.getD x.deficit t 0 + shareOf s t) }
    | none =>
      let t := x.turn % 16 + 1
      pickTurn s fuel { x with turn := t, deficit := Tbl.put (Tbl.del x.deficit x.turn) t (Tbl.getD x.deficit t 0 + shareOf s t) }

def hasCredit (x : CPort) (vc : Nat) : Bool := decide (0 < x.credits.getD vc 0)

/-- The flit may go: its VC has a credit, and is free or in the middle of the flit's own packet. -/
def mayFollow (x : CPort) (f : TxFlit) : Bool :=
  hasCredit x (flitVc f.flit) &&
    (match x.lock.getD (flitVc f.flit) none with
    | some g => g == (f.fwd, f.job)
    | none => flitSop f.flit)

def ofClass (x : CPort) (c : Nat) : Option TxFlit := x.txq.find? fun f => f.cls == c && mayFollow x f

/-- Choice within REQ level 0: the packet under way, else forwarded and originated in turn (R436). -/
def pickReq0 (s : State) (x : CPort) : CPort × Option TxFlit :=
  if !hasCredit x 0 then (x, none)
  else if (x.lock.getD 0 none).isSome then (x, ofClass x 4)
  else
    let f := x.txq.find? fun f => f.cls == 4 && f.fwd
    let o := x.txq.any fun f => f.cls == 4 && !f.fwd
    if f.isSome && !(o && x.fwdLast) then ({ x with fwdLast := true }, f)
    else
      match pickTurn s 400 x with
      | (y, some j) => ({ y with fwdLast := false }, waitsOrigin y j)
      | (y, none) => (y, f)

/-- The next flit to send (R21, R436): NACK packets, responses by level, then requests by level. -/
def pickFlit (s : State) (x : CPort) : CPort × Option TxFlit :=
  match (ofClass x 0).orElse fun _ => (ofClass x 1).orElse fun _ => (ofClass x 2).orElse fun _ => ofClass x 3 with
  | some f => (x, some f)
  | none => pickReq0 s x

/-- The credits, the sequence and the replay buffer once a DATA flit is sent. -/
def afterSend (phase : Nat) (enc : Bool) (f : TxFlit) (dressed : BitVec 2048) (x : CPort) : CPort :=
  { payOwed x with
    txSeq := x.txSeq + 1
    replay := x.replay ++ [dressed]
    credits := updAt x.credits (flitVc f.flit) fun n => n - 1
    encCount := if enc then updAt x.encCount phase fun n => n + 1 else x.encCount
    txq := x.txq.erase f
    lock := x.lock.set (flitVc f.flit) (if flitEop f.flit then none else some (f.fwd, f.job))
    out := x.out ++ [dressed] }

/-- Sends what credits and the replay buffer allow. -/
def pump (p : Nat) : Nat → State → State
  | 0, s => s
  | fuel + 1, s =>
    let x := cport s p
    if (x.state = 4 || x.state = 5) && decide (x.replay.length < 1024) then
      match pickFlit s x with
      | (y, some f) =>
        let s1 := setCport p (fun _ => y) s
        let d := dressFlit s1 p f.flit
        pump p fuel (setCport p (afterSend (b2n (pentry s p).txPhase) (flitField d 32 1 == 1) f d) (portBump p ctrSent 1 s1))
      | (_, none) => if x.txq.isEmpty then s else portBump p 7 1 s
    else s

/-- Begins a step's transmission: `out` shows what this step sends. -/
def pumpPort (p : Nat) (s : State) : State := pump p ((cport s p).txq.length + 1) (setCport p (fun x => { x with out := [] }) s)

/-- Goes on with a step's transmission, after what it has sent already. -/
def pumpMore (p : Nat) (s : State) : State := pump p ((cport s p).txq.length + 1) s

/-! Packets (R440). -/

def opWrite : Nat := 1
def opRead : Nat := 2
def opMessage : Nat := 3
def opWriteAck : Nat := 0x81
def opReadData : Nat := 0x82
def opMessageResp : Nat := 0x83
def opNack : Nat := 0x84

/-- The transaction header. -/
def packetHdr (status op tag len window offset : Nat) : BitVec 128 :=
  BitVec.ofNat 128 (pack [(20, 0), (40, offset), (12, window), (11, 0), (13, len - 1), (16, tag), (8, op), (8, status)])

def Packet.op (k : Packet) : Nat := fld k.hdr.toNat 112 8
def Packet.status (k : Packet) : Nat := fld k.hdr.toNat 120 8
def Packet.tag (k : Packet) : Nat := fld k.hdr.toNat 96 16
def Packet.len (k : Packet) : Nat := fld k.hdr.toNat 83 13 + 1
def Packet.window (k : Packet) : Nat := fld k.hdr.toNat 60 12
def Packet.offset (k : Packet) : Nat := fld k.hdr.toNat 20 40

def isRequest (op : Nat) : Bool := op == opWrite || op == opRead || op == opMessage

/-- Data bytes that the packet of an operation carries. -/
def carries (op : Nat) (len : Nat) : Nat :=
  if op = opWrite ∨ op = opReadData ∨ op = opMessage ∨ op = opMessageResp then len else 0

def chunks (l : List Byte) : Nat → List (List Byte)
  | 0 => []
  | n + 1 => l.take 240 :: chunks (l.drop 240) n

/-- The flits of a packet, before the link layer dresses them. -/
def packetFlits (k : Packet) : List (BitVec 2048) :=
  let bytes := natToBytes 16 k.hdr.toNat ++ k.data
  let n := ceilDiv bytes.length 240
  (chunks bytes n).mapIdx fun i c =>
    BitVec.ofNat 2048 (pack [(6, 0), (1, b2n (i + 1 == n)), (1, b2n (i == 0)), (10, k.src), (10, k.dst), (4, k.hops), (2, 0),
      (2, k.vc)] + (bytesToNat c <<< 128))

/-- The packet that the flits of one VC make, first flit first. -/
def packetOf (l : List (BitVec 2048)) : Packet :=
  let bytes := l.flatMap fun f => natToBytes 240 (flitPayload f).toNat
  let h := l.headD 0
  let hdr := BitVec.ofNat 128 (bytesToNat (bytes.take 16))
  { src := flitField h 8 10, dst := flitDst h, hops := flitField h 28 4, vc := flitVc h, hdr := hdr,
    data := (bytes.drop 16).take (carries (fld hdr.toNat 112 8) (fld hdr.toNat 83 13 + 1)), job := none }

/-- Discarded as R440 gives: a reserved OP, a LEN beyond its flits, or a WRITE run that crosses 4 KiB. -/
def malformed (l : List (BitVec 2048)) : Bool :=
  let k := packetOf l
  !(isRequest k.op || (0x81 ≤ k.op && k.op ≤ 0x84)) ||
    (k.op != opRead && decide (l.length * 240 < 16 + carries k.op k.len)) || decide (4096 < k.len) ||
    (k.op == opWrite && k.offset / 4096 != (k.offset + k.len - 1) / 4096)

/-! Routing (R433). -/

def routeOf (s : State) (dst : Nat) : Route := Tbl.getD s.cw.routes dst { valid := false, hops := 0, timeout := 0, ports := 0 }

/-- UP ports of a destination's mask. -/
def routePorts (s : State) (dst : Nat) : List Nat :=
  if (routeOf s dst).valid && dst != s.cw.deviceId then
    (List.range 32).filter fun p => (routeOf s dst).ports.getLsbD p && cwUp s p
  else []

/-- The hash chooses among several. -/
def choosePort (l : List Nat) (key : List Nat) : Option Nat :=
  match l with
  | [] => none
  | [p] => some p
  | l => l[Config.routeHash key % l.length]?

def routeFor (s : State) (dst : Nat) (key : List Nat) : Option Nat := choosePort (routePorts s dst) key

/-- Class of a packet in the order of R21 and R436. -/
def classVc (op vc : Nat) : Nat := if op = opNack ∧ 2 ≤ vc then 0 else [4, 3, 2, 1].getD vc 4

def queuePacket (p : Nat) (k : Packet) (fwd : Bool) (s : State) : State :=
  let fl := (packetFlits k).map fun f =>
    ({ cls := classVc k.op k.vc, fwd := fwd, job := k.job.getD 0, flit := f } : TxFlit)
  setCport p (fun x => { x with txq := x.txq ++ fl }) s

/-- Sends a packet that the device originates; false where no port of the mask is UP. -/
def sendPacket (p : Nat) (k : Packet) (s : State) : State := pumpPort p (queuePacket p k false s)

/-- A response toward the source of a request, on RSP level 0; with no way back it is lost, and its sender times out. -/
def respondTo (k : Packet) (status op len : Nat) (data : List Byte) (s : State) : State :=
  match routeFor s k.src [s.cw.deviceId, k.src] with
  | none => s
  | some p =>
    let r : Packet := { src := s.cw.deviceId, dst := k.src, hops := (routeOf s k.src).hops, vc := 2,
                        hdr := packetHdr status op k.tag (max len 1) k.window k.offset, data := data, job := none }
    sendPacket p r s

/-- A response made in quarter `q` can cross to the port that it leaves by (R71). -/
def replyOpen (s : State) (q : Nat) (k : Packet) : Bool :=
  (routeFor s k.src [s.cw.deviceId, k.src]).all fun p => crossOpen s q (p / 8)

def nack (p : Nat) (k : Packet) (status : Nat) (s : State) : State :=
  respondTo k status opNack 1 [] (if status = stUnreachable then portBump p 2 1 s else s)

/-! Tags (R443): a transaction tag is the sending port's number × 1,024 and one of its 1,024 tags. -/

def freeTag (x : CPort) : Option Nat := Tbl.firstFree x.tags 0 1024

def tagUse (s : State) (tag : Nat) : Option TagUse := Tbl.get? (cport s (tag / 1024)).tags (tag % 1024)

def dropTag (tag : Nat) (s : State) : State :=
  setCport (tag / 1024) (fun x => { x with tags := Tbl.del x.tags (tag % 1024) }) s

def putTag (p t : Nat) (u : TagUse) (s : State) : State := setCport p (fun x => { x with tags := Tbl.put x.tags t u }) s

/-! Going DOWN (R426, R428). -/

/-! Header fields of a message that name its queue and its sender (R389). -/

def hdrQueue (h : BitVec 256) : Nat := fld h.toNat 36 16
def hdrGen (h : BitVec 256) : Nat := fld h.toNat 52 8
def hdrSource (h : BitVec 256) : Nat := fld h.toNat 64 20

def handle (n gen : Nat) : Nat := n + gen <<< 16

/-- Hash key of a message: its source core and queue handle (R433). -/
def msgKey (h : BitVec 256) : List Nat := [hdrSource h % 1024, handle (hdrQueue h) (hdrGen h)]

/-- The stream that a burst serves. -/
def burstStream (s : State) (bid : Nat) : Nat :=
  (((Tbl.get? s.bursts bid).bind fun b => Tbl.get? s.slots b.slot).map Slot.stream).getD 0

/-- Hash key of a packet, given its first flit: a forwarded one by SRC, DST and VC, a stream's by its index, a message's by
its source and queue, a response by SRC and DST (R433, R434). -/
def hashKey (s : State) (f : TxFlit) : List Nat :=
  let k := packetOf [f.flit]
  if f.fwd then [k.src, k.dst, k.vc]
  else
    match (if isRequest k.op then tagUse s k.tag else none) with
    | some u =>
      match u.owner with
      | .burst b => [burstStream s b, k.dst]
      | .msg m _ => msgKey m.hdr
      | .heartbeat => [k.src, k.dst]
    | none => [k.src, k.dst]

/-- What names the packet of a queued flit: no two packets of one name are queued in turns. -/
def TxFlit.name (f : TxFlit) : Nat × Bool × Nat := (f.cls, f.fwd, f.job)

/-- The way that each packet of a lost port goes, while its flits are moved; the requests that have no way: the device's own
by tag, others by their header. -/
structure Rerouted where
  st : State
  ways : List ((Nat × Bool × Nat) × Nat)
  lost : List Nat
  nacks : List Packet

def Rerouted.wayOf (r : Rerouted) (f : TxFlit) : Option Nat := (r.ways.find? fun w => w.1 == f.name).map Prod.snd

/-- A request with no way: the tag is given back, or the sender is answered. -/
def Rerouted.lose (f : TxFlit) (r : Rerouted) : Rerouted :=
  let k := packetOf [f.flit]
  if !flitSop f.flit || !isRequest k.op then r
  else if f.fwd then { r with nacks := r.nacks ++ [k] }
  else { r with lost := r.lost ++ [k.tag] }

/-- A packet's first flit is routed again and the others follow it; the rest of a packet already begun is lost. -/
def Rerouted.move (r : Rerouted) (f : TxFlit) : Rerouted :=
  let left := r.ways.filter fun w => w.1 != f.name
  match (if flitSop f.flit then routeFor r.st (flitDst f.flit) (hashKey r.st f) else r.wayOf f) with
  | some p =>
    { r with st := setCport p (fun x => { x with txq := x.txq ++ [f] }) r.st
             ways := if flitEop f.flit then left else (f.name, p) :: left }
  | none => Rerouted.lose f { r with ways := left }

def reroute (s : State) (l : List TxFlit) : Rerouted := l.foldl Rerouted.move { st := s, ways := [], lost := [], nacks := [] }

/-- A port that is out of service is dark and holds nothing (R46, R426). -/
def emptyPort (x : CPort) : CPort :=
  { darken x with
    state := 1
    armed := true
    replay := []
    asm := [[], [], [], []]
    inq := []
    fwd := []
    txq := []
    wanted := none
    retries := 0
    ackDue := false
    authFails := 0
    owed := [0, 0, 0, 0]
    dropping := [false, false, false, false]
    via := [none, none, none, none]
    lock := [none, none, none, none] }

/-- Takes a port DOWN. The caller answers the requests that it lost. -/
def portDown (p reason : Nat) (s : State) : Rerouted :=
  reroute (linkDownNoted false p reason (setCport p emptyPort s)) (cport s p).txq

/-- The port is in a state that carries flits (R426). -/
def carriesFlits (s : State) (p : Nat) : Bool := decide (3 ≤ (cport s p).state) && hasEngine s p

/-! Training (R100, R416, R417, R427). -/

/-- A port of the pair, which carries Withy traffic once it is up (R458). -/
def isWithy (s : State) (p : Nat) : Bool := s.mirror.paired && (p == s.mirror.portA || p == s.mirror.portB)

/-- The state an identity exchange ends in (R417). -/
def identityState (s : State) (p : Nat) (x : CPort) : Nat :=
  if (pentry s p).enc != x.farEnc || (s.cw.idValid && x.farValid && x.farId == some s.cw.deviceId) then 6
  else if !s.cw.idValid || !x.farValid then 3
  else if isWithy s p then 5
  else 4

/-- Repeats the identity exchange of a port in UP_NO_ID, UP or MISMATCH. -/
def reidentify (p : Nat) (s : State) : State :=
  let x := cport s p
  if x.state = 3 ∨ x.state = 4 ∨ x.state = 6 then
    let n := identityState s p x
    let s1 := setCport p (fun y => { y with state := n }) s
    if n = 6 ∧ x.state ≠ 6 then linkDownNoted false p 5 s1 else s1
  else s

def trainedPort (res : PortTrain) (x : CPort) : CPort :=
  { x with farPort := res.farPort.toNat, farId := some res.farId.toNat, farValid := res.farValid, farEnc := res.farEnc,
           tlink := res.tlink, txSeq := 0, rxSeq := 0, replay := [], wanted := none, retries := 0,
           credits := [128, 128, 128, 128], owed := [0, 0, 0, 0], state := 3, laserEn := true, clocked := true, los := 0 }

/-- The port joins: its state follows the identity exchange. -/
def joinPort (p : Nat) (res : PortTrain) (attempts : Nat) (s : State) : State :=
  let s1 := setCport p (trainedPort res) s
  let n := identityState s1 p (cport s1 p)
  let s2 := setCport p (fun y => { y with state := n }) s1
  let s3 := unitNoted 2 2 p 0 attempts s2
  if n = 6 then linkDownNoted false p 5 s3 else s3

def failPort (p attempts : Nat) (s : State) : State :=
  unitNoted 3 2 p 0 attempts (linkDownNoted false p 0 (setCport p (fun x => { darken x with state := 1 }) s))

/-- The far end's ID or ENC_REQUIRED has changed, and both ends exchange identities again (R417; log entry 102). -/
def farChanged (p : Nat) (res : PortTrain) (s : State) : State :=
  if carriesFlits s p then
    reidentify p (setCport p (fun x => { x with farId := some res.farId.toNat, farValid := res.farValid, farEnc := res.farEnc }) s)
  else s

/-- An attempt ends. In S4, and for a JOIN_RETRY, a failed one is repeated once; the attempt of R427 is not. -/
def portAttempt (p : Nat) (ok : Bool) (res : PortTrain) (s : State) : State :=
  let x := cport s p
  if x.state ≠ 2 then (if ok then farChanged p res s else s)
  else
    match retryAttempts s false p with
    | some n =>
      if ok then exitS4 (finishWait (.joinPort p n) stOk 1 0 (joinPort p res (n + 1) s))
      else if n = 0 then bumpRetry (.joinPort p n) (.joinPort p 1) (setCport p (fun y => beginTraining y 2) s)
      else exitS4 (finishWait (.joinPort p n) stOk 1 1 (failPort p 2 s))
    | none =>
      if ok then exitS4 (joinPort p res x.attempts s)
      else if x.attempts = 1 ∧ s.bring.stage = 4 ∧ !s.bring.s4Exited then setCport p (fun y => beginTraining y 2) s
      else exitS4 (failPort p x.attempts s)

/-- PORT_TRAIN_DONE (R100, R416, R417). -/
def execPortTrainDone (p : Fin 32) (res : PortTrain) (s : State) : Host.Outcome State Fault Refusal :=
  .next (if blockUp s then portAttempt p.val res.ok res s else s)

def noTrain : PortTrain := { ok := false, farPort := 0, farId := 0, farValid := false, farEnc := false, tlink := 0 }

/-- PORT_TRAIN_TIMEOUT (R416). -/
def execPortTrainTimeout (p : Fin 32) (s : State) : Host.Outcome State Fault Refusal :=
  .next (if blockUp s then portAttempt p.val false noTrain s else s)

/-- LASER_ENABLE: 10 µs after CW_OE_EN (R66, R416). -/
def execLaserEnable (p : Fin 32) (s : State) : Host.Outcome State Fault Refusal :=
  .next (if blockUp s && (cport s p.val).oeEn && (cport s p.val).faultN then setCport p.val (fun x => { x with laserEn := true }) s else s)

/-- A port that has trained counts as in service, in MISMATCH too. A held port is noted as a stack is. A port that trains
already goes on, and its attempt is the command's first. DESIGN CHOICE (log entry 83). -/
def joinPortAct (c : Cmd) (s : State) : State × Reply :=
  let p := fld c.body 8 8
  if !hasEngine s p then (s, okWith 1 2)
  else if decide (3 ≤ (cport s p).state) then (s, okWith 1 4)
  else if !(cport s p).faultN then (unitNoted 4 2 p 0 0 s, okWith 1 3)
  else if (cport s p).state = 2 then (s, .wait (.joinPort p 0))
  else (setCport p (fun x => beginTraining x 1) s, .wait (.joinPort p 0))

def specJoinRetryPort : CmdSpec :=
  { op := 0x0130, hw := false, sel := fun b => fld b 0 8 == 1,
    flds := fun s j => joinFlds (fun k => k == 1) 32 s j, act := joinPortAct }

/-- JOIN_RETRY with KIND port (R105, R106, R427). -/
def execJoinRetryPort (m : Fin 8) (s : State) : Host.Outcome State Fault Refusal := .next (runCmd specJoinRetryPort m s)

/-- LIGHT_WATCH_EXPIRY: light on all Wisps for 10 ms (R427). -/
def execLightWatchExpiry (p : Fin 32) (s : State) : Host.Outcome State Fault Refusal :=
  let x := cport s p.val
  .next (if cwTakes s p.val && inService s && hasEngine s p.val && x.faultN && decide (x.state ≤ 1) && x.los == 0 && x.armed then
      setCport p.val (fun y => beginTraining y 1) s
    else s)

/-- CW_LOS_CHANGE: a bit set arms the one attempt of R427 again. -/
def execCwLosChange (p : Fin 32) (los : BitVec 8) (s : State) : Host.Outcome State Fault Refusal :=
  .next (setCport p.val (fun x => { x with los := los, armed := x.armed || los != 0 }) s)

/-- TLINK_MEASURE (R418). -/
def execTlinkMeasure (p : Fin 32) (tlink : Word32) (s : State) : Host.Outcome State Fault Refusal :=
  .next (if cwTakes s p.val && (cport s p.val).state == 4 then setCport p.val (fun x => { x with tlink := tlink }) s else s)

/-- ACK_TIMER: 64 Causeway cycles without a flit sent (R420). -/
def execAckTimer (p : Fin 32) (s : State) : Host.Outcome State Fault Refusal :=
  .next (if cwTakes s p.val && carriesFlits s p.val && (cport s p.val).ackDue then
      sendControl p.val 0 0 (setCport p.val (fun x => { x with out := [] }) s)
    else s)

/-- An interface begins to retrain: traffic across it waits (R71). -/
def beginRetrain (u : Nat) (s : State) : State :=
  { s with cw := { s.cw with ucieRetraining := u :: s.cw.ucieRetraining.filter fun v => v != u } }

/-- Retraining ends; point 0x0036 fails it, and so does the interface itself (R71). -/
def endRetrain (u : Nat) (ok : Bool) (s : State) : State :=
  let forced := (injFires s [0x36] u).isSome
  let n := injNeeds [0x36] u 3 islMgmt s
  let s1 := injEvent [0x36] u 3 islMgmt s
  let s2 := { s1 with cw := { s1.cw with ucieRetraining := s1.cw.ucieRetraining.filter fun v => v != u } }
  if ok && !forced then s2
  else setCause 5 (32 + u) (offer n (linkRec s2 true u 6) { s2 with cw := { s2.cw with ucieDown := u :: s2.cw.ucieDown } })

/-- UCIE_RETRAIN: an interface in service begins to retrain, or ends it with a result (R71). -/
def execUcieRetrain (u : Fin 6) (ended : Option Bool) (s : State) : Host.Outcome State Fault Refusal :=
  .next (if inService s && (ucieNeeded s.straps.split).contains u.val && !s.cw.ucieDown.contains u.val then
      match ended with
      | none => beginRetrain u.val s
      | some ok => endRetrain u.val ok s
    else s)

/-! DEVICE_ID_SET and ROUTE_SET (R429 to R432). -/

def setDeviceId (v : Nat) (s : State) : State :=
  if s.cw.idValid then s
  else (List.range 32).foldl (fun t p => reidentify p t) { s with cw := { s.cw with idValid := true, deviceId := v } }

def specDeviceIdSet : CmdSpec :=
  { op := 0x0701, hw := false, sel := fun _ => true,
    flds := fun s _ => [fun _ => [rsvd 1 10 6, chk 2 0 10 fun v => refuseUnless (!s.cw.idValid || v == s.cw.deviceId)]],
    act := fun c s => (setDeviceId (fld c.body 0 10) s, okEmpty) }

/-- DEVICE_ID_SET (R429). -/
def execDeviceIdSet (m : Fin 8) (s : State) : Host.Outcome State Fault Refusal := .next (runCmd specDeviceIdSet m s)

def routeLo (i lo : Nat) : Nat := 64 + 64 * i + lo

def routeHead (kindOk : Nat → Bool) (bound : Nat) : List Fld :=
  [rsvd 1 40 24, chk 2 32 8 fun v => refuseUnless (kindOk v), chk 3 16 16 (clampIn 1 27),
    chkB 4 0 16 fun b v => refuseUnless (decide (v + fld b 16 16 ≤ bound))]

def deviceFlds (i : Nat) : List Fld :=
  [inEntry i (chk 1 (routeLo i 63) 1 fun _ => .ok),
    inEntry i (rsvd 2 (routeLo i 60) 3),
    inEntry i (chkB 3 (routeLo i 56) 4 fun b v => if fld b (routeLo i 63) 1 = 1 then .setTo (max v 1) else .ok),
    inEntry i (chkB 4 (routeLo i 48) 8 fun b v => if fld b (routeLo i 63) 1 = 1 then .setTo (max v 1) else .ok),
    inEntry i (rsvd 5 (routeLo i 32) 16)]

def bodyRoute (body i : Nat) : Route :=
  { valid := fld body (routeLo i 63) 1 == 1, hops := fld body (routeLo i 56) 4, timeout := fld body (routeLo i 48) 8,
    ports := BitVec.ofNat 32 (fld body (routeLo i 0) 32) }

def setRoutes (body : Nat) (s : State) : State :=
  { s with cw := { s.cw with routes :=
      (List.range (fld body 16 16)).foldl (fun t i => Tbl.put t (fld body 0 16 + i) (bodyRoute body i)) s.cw.routes } }

/-- The row also carries out a reserved KIND, which it refuses. -/
def specRouteDevice : CmdSpec :=
  { op := 0x0702, hw := false, sel := fun b => fld b 32 8 != 1,
    flds := fun _ _ => [fun _ => routeHead (fun k => k == 0) 1024, fun body => (List.range (fld body 16 16)).flatMap deviceFlds],
    act := fun c s => (setRoutes c.body s, okEmpty) }

/-- ROUTE_SET with KIND 0 (R430, R431). -/
def execRouteSetDevice (m : Fin 8) (s : State) : Host.Outcome State Fault Refusal := .next (runCmd specRouteDevice m s)

def linkSlotOk (s : State) (v : Nat) : Bool :=
  v == 0xFF || (match keySlot s v with | some k => k.state == 2 && k.job == 0 | none => false)

def portFlds (s : State) (i : Nat) : List Fld :=
  [inEntry i (chkB 1 (routeLo i 63) 1 fun b v =>
      if v = 1 && fld b (routeLo i (if fld b (routeLo i 61) 1 = 1 then 48 else 40)) 8 == 0xFF then .no else .ok),
    inEntry i (rsvd 4 (routeLo i 56) 5),
    inEntry i (chk 5 (routeLo i 48) 8 fun v => refuseUnless (linkSlotOk s v)),
    inEntry i (chk 6 (routeLo i 40) 8 fun v => refuseUnless (linkSlotOk s v)),
    inEntry i (rsvd 7 (routeLo i 0) 40)]

def bodyEntry (body i : Nat) : PEntry :=
  { enc := fld body (routeLo i 63) 1 == 1, dateline := fld body (routeLo i 62) 1 == 1, txPhase := fld body (routeLo i 61) 1 == 1,
    slot1 := fld body (routeLo i 48) 8, slot0 := fld body (routeLo i 40) 8 }

/-- A newly bound slot's IV count restarts (R424). -/
def bindCounts (old new : PEntry) (x : CPort) : CPort :=
  let keep := fun (l : List Nat) => [if old.slot0 = new.slot0 then l.getD 0 0 else 0, if old.slot1 = new.slot1 then l.getD 1 0 else 0]
  { x with encCount := keep x.encCount, decCount := keep x.decCount }

def setEntry (body : Nat) (s : State) (i : Nat) : State :=
  let p := fld body 0 16 + i
  let e := bodyEntry body i
  let s1 := setCport p (bindCounts (pentry s p) e) s
  let s2 := { s1 with cw := { s1.cw with entries := Tbl.put s1.cw.entries p e } }
  if e.enc = (pentry s p).enc then s2 else reidentify p s2

def specRoutePort : CmdSpec :=
  { op := 0x0702, hw := false, sel := fun b => fld b 32 8 == 1,
    flds := fun s _ => [fun _ => routeHead (fun k => k == 1) 32, fun body => (List.range (fld body 16 16)).flatMap (portFlds s)],
    act := fun c s => ((List.range (fld c.body 16 16)).foldl (setEntry c.body) s, okEmpty) }

/-- ROUTE_SET with KIND 1 (R430, R432). -/
def execRouteSetPort (m : Fin 8) (s : State) : Host.Outcome State Fault Refusal := .next (runCmd specRoutePort m s)

/-! LINK_QUERY (R449). -/

def linkInfo (s : State) (p tpath : Nat) : Nat :=
  let x := cport s p
  let e := pentry s p
  pack ([(8, linkState s p), (8, x.farPort), (16, if x.farValid then x.farId.getD 0xFFFF else 0xFFFF), (8, x.los.toNat), (1, b2n e.txPhase), (1, b2n e.enc),
    (6, 0), (16, 0), (32, x.tlink.toNat), (32, tpath)] ++
    [ctrSent, ctrReceived, ctrReplays, ctrFecFixed, ctrFecBad, ctrAuth].map fun k => (64, (counterOf s 6 p k).toNat))

def noPath : Nat := 0xFFFFFFFF

/-- With PROBE, the CONTROL probe leaves along the device's route and the answer is awaited. -/
def queryLink (c : Cmd) (s : State) : State × Reply :=
  let p := fld c.body 0 5
  let d := fld c.body 32 10
  if fld c.body 16 1 = 0 then (s, okWith 64 (linkInfo s p noPath))
  else
    match routeFor s d [s.cw.deviceId, d] with
    | none => (s, okWith 64 (linkInfo s p noPath))
    | some out =>
      let f := controlFlit s out 2 c.m d
      (setCport out (fun x => { payOwed x with out := [f] }) (portBump out ctrSent 1 s), .wait (.probe p d))

def specLinkQuery : CmdSpec :=
  { op := 0x0720, hw := false, sel := fun _ => true,
    flds := fun _ _ => [fun _ => [rsvd 1 42 6, rsvd 3 17 15, rsvd 5 5 11]], act := queryLink }

/-- LINK_QUERY (R449). -/
def execLinkQuery (m : Fin 8) (s : State) : Host.Outcome State Fault Refusal := .next (runCmd specLinkQuery m s)

def endProbe (m : Nat) (tpath : Nat) (s : State) : State :=
  match busyBox s m with
  | some b =>
    match b.wait with
    | .probe p d =>
      if mgmtRuns s then
        respond m stOk 0 0 64 (linkInfo s p tpath)
          (if tpath = noPath then s else { s with cw := { s.cw with paths := Tbl.put s.cw.paths d tpath } })
      else s
    | _ => s
  | none => s

/-- LINK_PROBE_ANSWER (R449). -/
def execLinkProbeAnswer (m : Fin 8) (cycles : Word32) (s : State) : Host.Outcome State Fault Refusal :=
  .next (endProbe m.val cycles.toNat s)

/-- PROBE_TIMEOUT (R449). -/
def execProbeTimeout (m : Fin 8) (s : State) : Host.Outcome State Fault Refusal := .next (endProbe m.val noPath s)

end Sys2Proof.Machine
end

