-- ==== Sys2Proof/Machine/Data.lean ====
section
/-! DEFINITION. What a burst carries: the cut of a tile into bursts, the lines it reads, the value of each element, the
rows and packets it writes, and the bytes its completion counts (R186, R194, R208 to R213, R227, R237, R249, R250, R440). -/

namespace Sys2Proof.Machine

def runElems (d : Desc) (ix : Nat → Nat) (l : List (Nat × Nat)) : List Elem :=
  l.flatMap fun g => (segElems g).map (elemAt d ix)

/-- Elements with the number of their segment. -/
def taggedElems (d : Desc) (ix : Nat → Nat) (l : List (Nat × Nat)) : List (Nat × Elem) :=
  (l.mapIdx fun i g => (segElems g).map fun n => (i, elemAt d ix n)).flatten

/-! Lines (R213, R249). -/

def srcLines (d : Desc) (e : Elem) : List Nat :=
  if isExpand d then [] else (srcAccesses d e).flatMap fun a => linesOf a.addr a.n

/-- Datapath load of a run: source bytes in lines, destination bits, elements written. -/
structure Load where
  src : Nat
  dst : Nat
  elems : Nat
  seg : Nat
  lines : List Nat
deriving DecidableEq, Repr

def Load.zero : Load := { src := 0, dst := 0, elems := 0, seg := 0, lines := [] }

/-- Adds an element of segment `g`; lines are shared within a segment only. -/
def Load.add (d : Desc) (g : Nat) (l : Load) (e : Elem) : Load :=
  let seen := if g = l.seg then l.lines else []
  let new := (dedupe (srcLines d e)).filter fun x => !seen.contains x
  { src := l.src + 64 * new.length, dst := l.dst + (if e.dst.isSome then dstBits d else 0),
    elems := l.elems + b2n e.dst.isSome, seg := g, lines := new ++ seen }

def loadOf (d : Desc) (l : List (Nat × Elem)) : Load := l.foldl (fun x p => x.add d p.1 p.2) .zero

/-- Source bytes of a tile's index reads, which its first burst carries (R213, R227). -/
def indexBytes (d : Desc) (t : Tile) : Nat :=
  64 * (dedupe ((t.idx.map Prod.fst).flatMap fun j => linesOf (indexByte d j) (indexSize d))).length

/-- What the tile's next burst already carries: the index lines, before the first. -/
def startLoad (d : Desc) (t : Tile) : Load := { Load.zero with src := if t.issued = 0 ∧ !isExpand d then indexBytes d t else 0 }

/-! Bursts of a tile (R227, R330). -/

/-- A transposed tile that uses the transpose buffer goes as one burst (R202, R227). -/
def viaBuffer (d : Desc) : Bool :=
  d.transpose && (dimAt d 0).srcStride == 1 && (d.dstSpace == spCore || (dimAt d 0).dstStride == 1)

def cutLen (d : Desc) : List (Nat × Elem) → Load → Nat
  | [], _ => 0
  | (g, e) :: rest, l =>
    let m := l.add d g e
    if 4096 < m.src || 32768 < m.dst then 0 else 1 + cutLen d rest m

/-- A stretch of elements of no block. -/
def blankLen (d : Desc) : List (Nat × Elem) → Nat
  | [] => 0
  | (_, e) :: rest => if (blockOfElem d e).isNone then 1 + blankLen d rest else 0

/-- Elements of the occurrence of a block that begins the list: a repeat of the block is another (R330). -/
def blockLen (d : Desc) : List Elem → Nat
  | [] => 0
  | e :: es => 1 + (es.takeWhile fun x => blockOfElem d x == blockOfElem d e && !blockHead d x).length

/-- A burst to a core ends on a byte; a block keeps to itself (log entry 89). -/
def byteEdge (d : Desc) (n left : Nat) : Nat :=
  if d.dstSpace = spCore ∧ dstBits d = 4 ∧ n % 2 = 1 ∧ n < left then n - 1 else n

/-- Number of elements of the burst that begins a list. -/
def burstLen (d : Desc) (l : List (Nat × Elem)) (start : Load) : Nat :=
  if viaBuffer d then l.length
  else
    match l with
    | [] => 0
    | (_, e) :: _ =>
      if (blockOfElem d e).isSome then blockLen d (l.map Prod.snd)
      else
        let n := if isExpand d then min (blankLen d l) (cutLen d l start) else cutLen d l start
        min (max 1 (byteEdge d n l.length)) l.length

def Tile.rest (t : Tile) : List (Nat × Nat) := dropRuns t.segs t.issued

/-- The runs of the tile's next burst. -/
def nextRuns (d : Desc) (t : Tile) : List (Nat × Nat) :=
  takeRuns t.rest (burstLen d (taggedElems d (ixOf t.idx) t.rest) (startLoad d t))

def tileSpent (t : Tile) : Bool := decide (runsLen t.segs ≤ t.issued)

/-! Mover time (R212, R213). -/

def firstOf (l : List Nat) : Option Nat := l.head?

/-- Every segment of the tile starts on 64-byte boundaries on both sides. -/
def tileAligned (d : Desc) (t : Tile) : Bool :=
  t.segs.all fun g =>
    let es := (segElems g).map (elemAt d (ixOf t.idx))
    let src := firstOf (es.filterMap fun e => if isExpand d || d.srcSpace = spCore then none else e.src.map (srcByte d))
    let dst := firstOf (es.filterMap fun e => if d.dstSpace = spCore then none else e.dst.map (dstByte d))
    src.all (fun a => a % 64 == 0) && dst.all (fun a => a % 64 == 0)

def contiguous (d : Desc) : Bool :=
  ((dimAt d 0).srcStride == 1 || (dimAt d 0).srcStride == 0) && (d.dstSpace == spCore || (dimAt d 0).dstStride == 1)

/-- Bytes a gathered or scattered block of dimension 0 spans. -/
def blockSpan (d : Desc) : Nat := d.g.block * (if d.g.scatter then dstBits d else srcBits d) / 8

/-- Class rate in bytes per mover cycle. -/
def classRate (d : Desc) (t : Tile) : Nat :=
  if d.mode = 2 then 128
  else if d.gather && d.g.dim == 0 then (if blockSpan d < 64 then 64 else if tileAligned d t then 512 else 256)
  else if viaBuffer d || (!d.transpose && contiguous d) then (if tileAligned d t then 512 else 256)
  else 64

/-- The run begins the tile, whose index lines it carries. -/
def beginsTile (t : Tile) (runs : List (Nat × Nat)) : Bool := (t.segs.head?.map Prod.fst) == (runs.head?.map Prod.fst)

/-- Mover cycles of a run of a tile. -/
def moverTime (d : Desc) (t : Tile) (runs : List (Nat × Nat)) : Nat :=
  let l := loadOf d (taggedElems d (ixOf t.idx) runs)
  let src := l.src + (if beginsTile t runs then indexBytes d t else 0)
  if d.ordered then ceilDiv l.elems 16 else ceilDiv (max src (ceilDiv l.dst 8)) (classRate d t)

/-! Values. -/

/-- Rows a burst has read, by twice the row's address, plus one for a merge read. -/
abbrev Got := List (Nat × BitVec 512)

def rowKey (merge : Bool) (a : Nat) : Nat := a / 64 * 64 * 2 + b2n merge

def gotRow (g : Got) (merge : Bool) (a : Nat) : BitVec 512 := ((g.find? fun x => x.1 == rowKey merge a).map Prod.snd).getD 0

def gotByte (g : Got) (merge : Bool) (a : Nat) : Byte := BitVec.ofNat 8 (fld (gotRow g merge a).toNat (8 * (a % 64)) 8)

def gotBytes (g : Got) (merge : Bool) (a n : Nat) : List Byte := (List.range n).map fun i => gotByte g merge (a + i)

/-- The code of the element at `off`, of `bits` bits, whose bytes are `l` (R186). -/
def codeIn (bits : Nat) (off : Int) (l : List Byte) : Nat :=
  if bits = 4 then fld (bytesToNat l) (if off % 2 = 0 then 0 else 4) 4 else bytesToNat l

/-- Source element as read. -/
def srcCode (d : Desc) (g : Got) (off : Int) : Nat :=
  codeIn (srcBits d) off (gotBytes g false (srcByte d off) (elemBytes (srcBits d)))

/-- The written value before accumulation: FILL as it stands, or the element cast (R194, R196, R200). -/
def castCode (d : Desc) (code : Int → Nat) (e : Elem) : Nat :=
  match e.src with
  | none => fld d.fill 0 (dstBits d)
  | some off => castElem d.srcType d.dstType d.cast (code off)

/-- `n` bytes at `a` meet the span of everything that a scatter can write. -/
def reachMeets (d : Desc) (a n : Nat) : Bool :=
  match reach (dstReach d) with
  | none => false
  | some (lo, hi) => decide (dstByte d lo < a + n ∧ a < dstByte d hi + elemBytes (dstBits d))

/-- Bytes of the descriptor's destination meet `n` bytes at `a` (R210). What a scatter writes later is not known yet, so the
whole span it can reach counts (log entry 92). -/
def writesMeet (d : Desc) (a n : Nat) : Bool :=
  if isScatter d then reachMeets d a n
  else
    (List.range (total d)).any fun k =>
      match (elemAt d (fun _ => 0) k).dst with
      | some o => spansMeet (dstByte d o) (elemBytes (dstBits d)) a n
      | none => false

/-- The element's source lies in bytes that the descriptor writes, so that its result is undefined (R210). -/
def selfFed (d : Desc) (e : Elem) : Bool :=
  d.srcSpace == d.dstSpace && (srcAccesses d e).any fun a => writesMeet d a.addr a.n

/-- An element of an ACCUMULATE descriptor that one of the descriptors `l`, not ordered against it, accumulates too (R211). -/
def sharedSum (l : List Desc) (d : Desc) (e : Elem) : Bool :=
  match e.dst with
  | some off => d.mode == 2 && l.any fun r => r.mode == 2 && r.dstSpace == d.dstSpace && writesMeet r (dstByte d off) (elemBytes (dstBits d))
  | none => false

/-! Transposed tiles whose rows are longer than a tile's pieces leave canonical order (R192, R197). -/

/-- Elements of a band: canonical numbers of the rows of a tile's pieces. -/
def bandElems (d : Desc) (segs : List (Nat × Nat)) : List Nat :=
  segs.flatMap fun g => (List.range (points d 0)).map fun c => g.1 / points d 0 * points d 0 + c

/-- Column at which the tile's pieces begin. -/
def bandCol (d : Desc) (segs : List (Nat × Nat)) : Nat := ((segs.head?).map fun g => g.1 % points d 0).getD 0

def sameDst (d : Desc) (e : Elem) (n : Nat) : Bool := e.dst.isSome && (elemAt d (fun _ => 0) n).dst == e.dst

/-- An earlier tile of the band has written the same place for an element later in canonical order, which stays (R207). -/
def bandOverlaid (d : Desc) (segs : List (Nat × Nat)) (e : Elem) : Bool :=
  d.transpose && (bandElems d segs).any fun n => decide (e.n < n ∧ n % points d 0 < bandCol d segs) && sameDst d e n

/-- Tiles of the band add to the place of `e` in another order than the canonical one; the sum is left free (log entry 93). -/
def bandMixed (d : Desc) (segs : List (Nat × Nat)) (e : Elem) : Bool :=
  d.transpose && d.mode == 2 &&
    (bandElems d segs).any fun n =>
      decide ((e.n < n ∧ n % points d 0 < e.n % points d 0) ∨ (n < e.n ∧ e.n % points d 0 < n % points d 0)) && sameDst d e n

/-! Rows to write. -/

def RowOut.at (a : Nat) : RowOut := { addr := a / 64 * 64, data := 0, mask := 0, adds := [], codes := [] }

def putField (x : BitVec 512) (lo w v : Nat) : BitVec 512 := BitVec.ofNat 512 (setFld x.toNat lo w v)

/-- The row with `w` bits `v` put at bit `lo` of byte `a`. -/
def RowOut.put (a lo w v : Nat) (r : RowOut) : RowOut :=
  let pos := 8 * (a % 64) + lo
  { r with data := putField r.data pos w v, mask := putField r.mask pos w (2 ^ w - 1) }

/-- Writes `w` bits `v` at bit `lo` of the row of byte `a`. -/
def putOut (l : List RowOut) (a lo w v : Nat) : List RowOut :=
  if l.any fun r => r.addr == a / 64 * 64 then l.map fun r => if r.addr = a / 64 * 64 then r.put a lo w v else r
  else l ++ [(RowOut.at a).put a lo w v]

def putBytes (l : List RowOut) (a : Nat) : List Byte → List RowOut
  | [] => l
  | b :: bs => putBytes (putOut l a 0 8 b.toNat) (a + 1) bs

/-- Writes an element of the destination type at offset `off`. -/
def putElem (d : Desc) (l : List RowOut) (off : Int) (v : Nat) : List RowOut :=
  let a := dstByte d off
  if dstBits d = 4 then putOut l a (if off % 2 = 0 then 0 else 4) 4 v
  else putBytes l a (natToBytes (dstBits d / 8) v)

/-- A byte of the destination as the burst has left it so far, its rows given latest first: written by it, or as the mover's
own read found it. -/
def outByte (l : List RowOut) (g : Got) (a : Nat) : Byte :=
  match l.find? fun r => r.addr == a / 64 * 64 && fld r.mask.toNat (8 * (a % 64)) 8 != 0 with
  | some r => BitVec.ofNat 8 (fld r.data.toNat (8 * (a % 64)) 8)
  | none => gotByte g true a

/-- The rows so far, and the code written for each written element. -/
structure Written where
  rows : List RowOut
  codes : List Nat
deriving DecidableEq, Repr

/-- Free bits for the element at place `i` of a burst. -/
def freeCode (free : Nat) (bits i : Nat) : Nat := fld free (32 * i) bits

/-- Writes elements in no order of their own, each with its value; one whose result is undefined takes free bits. -/
def writeElems (d : Desc) (undef : Elem → Bool) (free : Nat) : Nat → List (Elem × Nat) → Written → Written
  | _, [], w => w
  | i, (e, v) :: es, w =>
    match e.dst with
    | none => writeElems d undef free (i + 1) es w
    | some off =>
      let x := if undef e then freeCode free (dstBits d) i else v
      writeElems d undef free (i + 1) es
        { rows := if d.dstSpace = spCore then w.rows else putElem d w.rows off x, codes := w.codes ++ [x] }

/-! Rows that land one after another, in canonical order (R192, R207, R208). They are kept latest first. -/

/-- Puts bits in the latest row where it is the same and nothing is added there, else in a new row. -/
def putLast (a lo w v : Nat) : List RowOut → List RowOut
  | r :: rs => if r.addr = a / 64 * 64 ∧ r.adds = [] then r.put a lo w v :: rs else (RowOut.at a).put a lo w v :: r :: rs
  | [] => [(RowOut.at a).put a lo w v]

def putLastBytes (a : Nat) : List Byte → List RowOut → List RowOut
  | [], l => l
  | b :: bs, l => putLastBytes (a + 1) bs (putLast a 0 8 b.toNat l)

/-- The code is counted once the latest row has landed. -/
def countLast (v : Nat) : List RowOut → List RowOut
  | r :: rs => { r with codes := r.codes ++ [v] } :: rs
  | [] => []

def addField (pos w c : Nat) (r : RowOut) : RowOut :=
  { r with mask := putField r.mask pos w (2 ^ w - 1), adds := r.adds ++ [(pos, c)] }

/-- Adds a code of `w` bits at byte `a`, in the latest row where it is the same and only adds. -/
def addLast (a w c : Nat) : List RowOut → List RowOut
  | r :: rs =>
    if r.addr = a / 64 * 64 ∧ r.adds ≠ [] then addField (8 * (a % 64)) w c r :: rs else addField (8 * (a % 64)) w c (RowOut.at a) :: r :: rs
  | [] => [addField (8 * (a % 64)) w c (RowOut.at a)]

/-- The mover has read the row of the byte itself. -/
def moverRead (g : Got) (a : Nat) : Bool := g.any fun x => x.1 == rowKey true a

/-- Puts an element's code; a nibble whose row the mover has read makes its byte whole. -/
def putOrdered (d : Desc) (g : Got) (off : Int) (v : Nat) (l : List RowOut) : List RowOut :=
  let a := dstByte d off
  if dstBits d ≠ 4 then putLastBytes a (natToBytes (dstBits d / 8) v) l
  else
    let lo := if off % 2 = 0 then 0 else 4
    if moverRead g a then putLast a 0 8 (setFld (outByte l g a).toNat lo 4 v) l else putLast a lo 4 v l

/-- Applies one element after another. `undef` marks a result that is undefined, `covered` one that a later element's stands over. -/
def orderElems (d : Desc) (undef covered : Elem → Bool) (g : Got) (free : Nat) : Nat → List (Elem × Nat) → List RowOut → List RowOut
  | _, [], l => l
  | i, (e, v) :: es, l =>
    match e.dst with
    | none => orderElems d undef covered g free (i + 1) es l
    | some off =>
      let a := dstByte d off
      let next := fun (l : List RowOut) => orderElems d undef covered g free (i + 1) es l
      if undef e then next (countLast (freeCode free (dstBits d) i) (putOrdered d g off (freeCode free (dstBits d) i) l))
      else if d.mode = 2 then
        if moverRead g a then
          let old := bytesToNat ((List.range (elemBytes (dstBits d))).map fun k => outByte l g (a + k))
          let x := accumulate d.dstType d.cast old v
          next (countLast x (putOrdered d g off x l))
        else next (addLast a (dstBits d) v l)
      else if covered e then next (countLast v (match l with | [] => [RowOut.at a] | r :: rs => r :: rs))
      else next (countLast v (putOrdered d g off v l))

/-! Counted bytes (R237). -/

/-- Counted bytes of 4-bit elements, given offset and code in canonical order; an even element waits for its odd one. -/
def countNibbles : Option (Int × Nat) → List (Int × Nat) → List Byte
  | none, [] => []
  | some (_, u), [] => [BitVec.ofNat 8 u]
  | none, (o, v) :: rest =>
    if o % 2 = 0 then countNibbles (some (o, v)) rest else BitVec.ofNat 8 (16 * v) :: countNibbles none rest
  | some (p, u), (o, v) :: rest =>
    if o = p + 1 then BitVec.ofNat 8 (u + 16 * v) :: countNibbles none rest
    else if o % 2 = 0 then BitVec.ofNat 8 u :: countNibbles (some (o, v)) rest
    else BitVec.ofNat 8 u :: BitVec.ofNat 8 (16 * v) :: countNibbles none rest

/-- Counted bytes of written elements. A burst keeps one byte for each 4-bit element; the tile counts them. -/
def codeBytes (d : Desc) (codes : List Nat) : List Byte :=
  codes.flatMap fun v => natToBytes (elemBytes (dstBits d)) v

/-- The counted bytes of a run, from what its burst kept. -/
def countRun (d : Desc) (es : List Elem) (kept : List Byte) : List Byte :=
  if dstBits d = 4 then countNibbles none ((es.filterMap Elem.dst).zip (kept.map BitVec.toNat)) else kept

/-- Bytes of the dense packing of a CORE destination (R205). -/
def packedBytes (d : Desc) (es : List Elem) (codes : List Nat) : List Byte :=
  countRun d es (codeBytes d codes)

/-! Remote runs (R440). -/

/-- Runs of consecutive bytes, each within 4 KiB of offset. -/
def byteRuns : List Nat → List (Nat × Nat) → List (Nat × Nat)
  | [], acc => acc.reverse
  | a :: as, [] => byteRuns as [(a, 1)]
  | a :: as, (b, n) :: acc =>
    if a + 1 = b + n then byteRuns as ((b, n) :: acc)
    else if a = b + n ∧ a % 4096 ≠ 0 then byteRuns as ((b, n + 1) :: acc)
    else byteRuns as ((a, 1) :: (b, n) :: acc)

def readRuns (d : Desc) (es : List Elem) : List (Nat × Nat) :=
  byteRuns ((dedupe (es.flatMap (srcLines d))).flatMap fun a => (List.range 64).map fun i => a + i) []

def writeRuns (d : Desc) (es : List Elem) : List (Nat × Nat) :=
  byteRuns ((es.filterMap Elem.dst).flatMap fun o => (List.range (elemBytes (dstBits d))).map fun i => dstByte d o + i) []

end Sys2Proof.Machine
end

