-- ==== Sys2Proof/Machine/Bursts.lean ====
section
/-! DEFINITION. Bursts: their choice and issue, the requests and packets they make, their landing, and how a tile, an
entry or a failure follows from it (07_movers.md, R223 to R245; 10_compression.md, R330 to R333). -/

namespace Sys2Proof.Machine

def updBurst (id : Nat) (f : Burst → Burst) (s : State) : State := { s with bursts := Tbl.upd s.bursts id f }
def setExpander (x : Nat) (f : Expander → Expander) (s : State) : State :=
  { s with expanders := Tbl.put s.expanders x (f (Tbl.getD s.expanders x .reset)) }

def moverFn (mv : Nat) : Fn := .mover (Fin.ofNat 4 (moverQuarter mv))
def expanderFn (x : Nat) : Fn := .expander (Fin.ofNat 4 (x / 8))

/-! Failures (R239, R244). -/

/-- Keeps the failure that comes first in the order of the tile. -/
def Failure.first (f : Failure) (g : Option Failure) : Failure :=
  match g with
  | some h => if h.seq ≤ f.seq then h else f
  | none => f

/-- Place in its tile's order (R287) of the access at byte `a` that is number `k` of element `n`. -/
def accessSeq (n k a : Nat) : Nat := (4 * n + k) * 2 ^ 64 + a

def accessMeets (a n : Nat) (x : Access) : Bool := decide (x.addr < a + n ∧ a < x.addr + x.n)

/-- The first element of a run, in canonical order, that reads or writes some of `n` bytes at `a`. -/
def firstAt (d : Desc) (t : Tile) (segs : List (Nat × Nat)) (write : Bool) (a n : Nat) : Option Elem :=
  (runElems d (ixOf t.idx) segs).find? fun e => (if write then dstAccesses d e else srcAccesses d e).any (accessMeets a n)

/-- Place of a failing access of `n` bytes at `a`; one that no element makes comes last. -/
def accessOrder (d : Desc) (t : Tile) (segs : List (Nat × Nat)) (write : Bool) (a n : Nat) : Nat :=
  match firstAt d t segs write a n with
  | some e => accessSeq e.n (if write then (srcAccesses d e).length else (srcAccesses d e).findIdx (accessMeets a n)) a
  | none => accessSeq ((segs.getLast?.map fun g => g.1 + g.2).getD 0) 3 a

/-- The failing address of a row (R239): a bus error on a write is at the first byte of the row that the write fails at, any
other failure at the row. -/
def latchOf (d : Desc) (t : Tile) (segs : List (Nat × Nat)) (status row : Nat) : Nat :=
  if status = stBusWrite then
    match (firstAt d t segs true row 64).bind Elem.dst with
    | some off => max row (dstByte d off)
    | none => row
  else row

/-- The slot of a burst and its tile. -/
def burstAt (s : State) (b : Burst) : Option (Slot × Tile) := (Tbl.get? s.slots b.slot).bind fun x => x.cur.map fun t => (x, t)

def noteFail (id : Nat) (f : Failure) (s : State) : State :=
  match Tbl.get? s.bursts id with
  | none => s
  | some b =>
    updSlot b.slot (fun x => { x with failing := some (f.first x.failing) })
      (updBurst id (fun y => { y with fail := some (f.first y.fail) }) s)

/-! The end of a tile and of an entry (R158, R238). -/

def slotBurstsOf (s : State) (n : Nat) : List Burst := (s.bursts.filter fun e => e.2.slot == n).map Prod.snd

/-- Nothing of the burst is under way; once the slot fails, remote packets and deliveries are not waited for (R443). -/
def burstQuiet (failing : Bool) (b : Burst) : Bool :=
  b.reads.isEmpty && b.writes.isEmpty && ((b.issuedWrites && b.todo.isEmpty && b.side.isEmpty) || b.fail.isSome) &&
    (failing || (b.packets.isEmpty && b.deliveries == 0))

def slotQuiet (s : State) (n : Nat) (failing : Bool) : Bool := (slotBurstsOf s n).all (burstQuiet failing)

def insertBurst (b : Burst) : List Burst → List Burst
  | [] => [b]
  | c :: cs => if b.num < c.num then b :: c :: cs else c :: insertBurst b cs

/-- What the tile's bursts kept, in order. -/
def tileKept (s : State) (n : Nat) : List Byte := ((slotBurstsOf s n).foldl (fun l b => insertBurst b l) []).flatMap Burst.bytes

/-- The tile leaves canonical order (R197). -/
def outOfOrder (d : Desc) : Bool := d.transpose && d.dstSpace != spCore

def writtenIn (es : List Elem) : Nat := (es.filterMap Elem.dst).length

/-- One piece per segment of an out-of-order tile. -/
def pieces (d : Desc) : List (Nat × Nat) → List Byte → List CanonPiece
  | [], _ => []
  | g :: gs, kept =>
    let es := runElems d (fun _ => 0) [g]
    let n := writtenIn es * elemBytes (dstBits d)
    { first := g.1, count := g.2, bytes := countRun d es (kept.take n) } :: pieces d gs (kept.drop n)

/-- The CRC takes the pieces that have become next in canonical order (R238). -/
def absorb : Nat → Stream → Stream
  | 0, x => x
  | fuel + 1, x =>
    match x.canon.find? fun p => p.first == x.crcElem with
    | some p =>
      absorb fuel { x with crc := crcRun x.crc p.bytes, crcElem := x.crcElem + p.count,
                           canon := x.canon.filter fun q => q.first != p.first }
    | none => x

/-- CRC, BYTES and TILE advance at the tile's end (R238). -/
def foldTile (d : Desc) (t : Tile) (kept : List Byte) (x : Stream) : Stream :=
  let es := runElems d (ixOf t.idx) t.segs
  let drop := (es.filter Elem.dropped).length
  let y := { x with tile := x.tile + 1, cursor := t.next, dropped := satAdd 32 x.dropped drop }
  if outOfOrder d then
    let ps := pieces d t.segs kept
    absorb (x.canon.length + ps.length)
      { y with canon := x.canon ++ ps, bytes := x.bytes + (ps.map fun p => p.bytes.length).sum }
  else
    let l := countRun d es kept
    { y with crc := crcRun x.crc l, bytes := x.bytes + l.length }

def nextTile (x : Slot) : Slot :=
  match x.nxt with
  | some t => if t.translated then { x with cur := some t, nxt := none } else { x with cur := none }
  | none => { x with cur := none }

/-- The completion of an entry that has moved all its data (R157). -/
def okCompletion (x : Stream) : Completion :=
  { status := stOk, mover := x.mover, faultValid := false, faultDir := false, crc := crcFinal x.crc,
    bytes := BitVec.ofNat 64 x.bytes, faultAddr := 0 }

/-- The entry of a slot is done once every tile has landed. -/
def endEntry (n : Nat) (s : State) : State :=
  match Tbl.get? s.slots n with
  | some x =>
    match Tbl.get? s.streams x.stream with
    | some st => if x.allFormed && x.cur.isNone && x.nxt.isNone && feedDone s x.stream then settleEntry x.ring x.pos (okCompletion st) s else s
    | none => s
  | none => s

def dropBursts (n : Nat) (s : State) : State := { s with bursts := s.bursts.filter fun e => e.2.slot != n }

def finishTile (n : Nat) (x : Slot) (t : Tile) (s : State) : State :=
  endEntry n (updSlot n nextTile (dropBursts n (dropReplays x.stream (updStream x.stream (foldTile x.desc t (tileKept s n)) s))))

/-- What follows in a slot from a burst's progress: a halt, the end of a tile, or nothing yet. -/
def advanceSlot (n : Nat) (s : State) : State :=
  match Tbl.get? s.slots n with
  | none => s
  | some x =>
    match x.failing with
    | some f => if slotQuiet s n true then haltStream x.stream f ((x.cur.map Tile.landedAny).getD false) f.needs s else s
    | none =>
      match x.cur with
      | some t => if t.translated && tileSpent t && slotQuiet s n false then finishTile n x t s else s
      | none => s

/-- A byte of the burst's tile has landed (R240). -/
def markLanded (n : Nat) (s : State) : State :=
  updSlot n (fun x => { x with cur := x.cur.map fun t => { t with landedAny := true } }) s

/-! Requests. -/

def targetOf (l : RowAt) : Target × Nat × Nat :=
  match l with
  | .stack pa key => (.stack (pa / stackSpan), pa, key)
  | .mere a _ => (.mere (bankOf a), a, 0)
  | .host a _ => (.host, a, 0)

/-- A request of mover `m` for the row behind an access byte. -/
def rowReq (id : Nat) (l : RowAt) (latch : Nat) (write merge merged : Bool) (data mask : BitVec 512) (who : Who)
    (m : Nat) : MemReq :=
  { id := id, target := (targetOf l).1, addr := (targetOf l).2.1, latch := latch, write := write, merge := merge,
    merged := merged, key := (targetOf l).2.2, oldKey := none, data := data, mask := mask,
    adds := [], addTyp := 0, addCast := 0, sums := [], who := who, unit := m,
    segment := m / 24, res := none,
    charge := 0, cause := 0, needs := none }

def addReqs (l : List MemReq) (s : State) : State :=
  { s with mem := { s.mem with reqs := s.mem.reqs ++ l, nextReq := s.mem.nextReq + l.length } }

/-! Arrival of a burst's data and its writes. -/

def isHost (l : Option RowAt) : Bool := match l with | some (.host _ _) => true | _ => false

/-- Masks of the rows that elements write, without their values. -/
def outMasks (d : Desc) (es : List Elem) : List RowOut :=
  (es.filterMap Elem.dst).foldl (fun l o => putElem d l o 0) []

/-- Rows that elements across two rows touch. -/
def splitRows (d : Desc) (es : List Elem) : List Nat :=
  es.flatMap fun e =>
    match e.dst with
    | some off =>
      let a := dstByte d off
      if a / 64 = (a + elemBytes (dstBits d) - 1) / 64 then [] else [a / 64 * 64, a / 64 * 64 + 64]
    | none => []

/-- Rows of the destination that the mover itself reads before it writes: in host memory for an addition or a lone nibble
(R250); elsewhere those of sums whose element lies across two rows, since a target adds within a row. DESIGN CHOICE (log entry
91). -/
def mergeRows (d : Desc) (t : Tile) (es : List Elem) : List Nat :=
  if d.dstSpace = spCore ∨ d.dstSpace = spWindow then []
  else
    let cut := if d.mode = 2 then splitRows d es else []
    ((outMasks d es).filter fun r =>
      cut.contains r.addr ||
        (isHost (rowOf 0 t d.dstSpace r.addr) && (d.mode == 2 || (dstBits d == 4 && partly r.mask 8)))).map RowOut.addr

/-- The write request of a row; a byte of host memory is written whole. -/
def writeReq (d : Desc) (t : Tile) (b : Burst) (bid id : Nat) (r : RowOut) : Option MemReq :=
  (rowOf (moverQuarter b.mover) t d.dstSpace r.addr).map fun l =>
    let had := b.got.any fun g => g.1 == rowKey true r.addr
    let data := if had then blend (gotRow b.got true r.addr) r.data r.mask else r.data
    { rowReq id l r.addr true false had data r.mask (.burst bid) b.mover with adds := r.adds, addTyp := d.dstType, addCast := d.cast }

/-- The write request of a row of the Mere beside the destination (R366). -/
def sideReq (b : Burst) (bid id : Nat) (r : RowOut) : Option MemReq :=
  some (rowReq id (.mere r.addr (moverQuarter b.mover)) r.addr true false false r.data r.mask (.burst bid) b.mover)

def readReq (d : Desc) (t : Tile) (bid mv id : Nat) (r : Nat × Bool) : Option MemReq :=
  (rowOf (moverQuarter mv) t (if r.2 then d.dstSpace else d.srcSpace) r.1).map fun l => rowReq id l r.1 false r.2 false 0 0 (.burst bid) mv

/-- Requests for a list, numbered from `i`. -/
def reqList {α : Type} (f : Nat → α → Option MemReq) : Nat → List α → List MemReq
  | _, [] => []
  | i, r :: rs =>
    match f i r with
    | some q => q :: reqList f (i + 1) rs
    | none => reqList f i rs

/-- Data of a remote run, byte by byte; the other nibble of a lone 4-bit element is undefined there. -/
def runData (l : List RowOut) (free : BitVec 512) (a n : Nat) : List Byte :=
  (List.range n).map fun i =>
    match l.find? fun r => r.addr == (a + i) / 64 * 64 with
    | some r => BitVec.ofNat 8 (fld (blend free r.data r.mask).toNat (8 * ((a + i) % 64)) 8)
    | none => 0

def windowDevice (a : Nat) : Nat := fld a 52 10
def windowNo (a : Nat) : Nat := fld a 40 12

/-- A request packet of a burst under its tag. -/
def requestPacket (s : State) (addr op tag len offset : Nat) (data : List Byte) (job : Nat) : Packet :=
  { src := s.cw.deviceId, dst := windowDevice addr, hops := (routeOf s (windowDevice addr)).hops, vc := 0,
    hdr := packetHdr 0 op tag len (windowNo addr) offset, data := data, job := some job }

/-- Sends the packets of a burst, one for each tag and run. -/
def sendAll (addr op job : Nat) (rows : List RowOut) (free : BitVec 512) : List (Nat × Nat × Nat) → State → State
  | [], s => s
  | (tag, a, n) :: rest, s =>
    let data := if op = opWrite then runData rows free a n else []
    sendAll addr op job rows free rest (sendPacket (tag / 1024) (requestPacket s addr op tag n a data job) s)

def feedDelivery (bytes : List Byte) (b : Burst) (d : Delivery) : Delivery :=
  { d with data := bytes, ready := true, events := satAdd 16 d.events b.charge, cause := d.cause ||| b.cause }

def updDelivery (id : Nat) (f : Delivery → Delivery) (p : Port) : Port :=
  { p with dlvs := p.dlvs.map fun d => if d.id = id then f d else d }

/-- The rows beside the destination go once the rest has gone. -/
def sendSide (bid : Nat) (b : Burst) (s : State) : State :=
  let l := reqList (sideReq b bid) s.mem.nextReq b.side
  updBurst bid (fun y => { y with writes := y.writes ++ l.map MemReq.id, todo := [], side := [] }) (addReqs l s)

/-- The next of the rows that land one after another; after the last, those beside the destination. -/
def sendRow (bid : Nat) (b : Burst) (d : Desc) (t : Tile) : List RowOut → State → State
  | [], s => sendSide bid b s
  | r :: rs, s =>
    match writeReq d t b bid s.mem.nextReq r with
    | some q => updBurst bid (fun y => { y with todo := r :: rs, writes := [q.id] }) (addReqs [q] s)
    | none => sendRow bid b d t rs s

/-- The written part of a burst leaves the mover: to the port, to Causeway, or to memory. -/
def sendOut (bid : Nat) (b : Burst) (d : Desc) (t : Tile) (job : Nat) (w : Written) (es : List Elem) (s : State) : State :=
  if d.dstSpace = spCore then
    match b.grant with
    | some g =>
      updBurst bid (fun y => { y with deliveries := 1 })
        (setPort g.port (updDelivery g.id (feedDelivery (packedBytes d es w.codes) b)) s)
    | none => s
  else if d.dstSpace = spWindow then
    freeNext (sendAll d.dstAddr opWrite job w.rows (freeVal 512 s) ((b.packets).zip (writeRuns d es)) s)
  else
    let l := reqList (writeReq d t b bid) s.mem.nextReq w.rows
    updBurst bid (fun y => { y with writes := l.map MemReq.id }) (addReqs l s)

/-! Values and their writes. -/

/-- The descriptor's writes apply in canonical order (R207, R208). -/
def inOrderDesc (d : Desc) : Bool := d.ordered || d.mode == 2

/-- Descriptors of other streams that accumulate meanwhile: nothing orders them against this one (R211). -/
def otherSums (s : State) (i : Nat) : List Desc :=
  (s.streams.filter fun e => e.1 != i && (e.2.state == stRunning || e.2.state == stHalted || e.2.state == stQueued)).filterMap fun e =>
    e.2.desc.filter fun d => d.mode == 2

/-- The element's result is undefined (R210, R211), or left free where its tiles add out of order (log entry 93). -/
def undefElem (s : State) (i : Nat) (d : Desc) (t : Tile) (e : Elem) : Bool :=
  selfFed d e || sharedSum (otherSums s i) d e || bandMixed d t.segs e

/-- The reads of the destination that the mover makes itself. -/
def askMerges (bid : Nat) (b : Burst) (d : Desc) (t : Tile) (rows : List Nat) (s : State) : State :=
  let l := reqList (readReq d t bid b.mover) s.mem.nextReq (rows.map fun a => (a, true))
  updBurst bid (fun y => { y with reads := l.map MemReq.id, merging := true }) (addReqs l s)

/-- The values of the burst's elements go out. -/
def issueWrites (bid : Nat) (b : Burst) (x : Slot) (t : Tile) (es : List (Elem × Nat)) (s : State) : State :=
  let d := x.desc
  let free := (freeVal (32 * es.length) s).toNat
  let undef := undefElem s b.stream d t
  let job := streamJob s b.stream
  if inOrderDesc d then
    sendRow bid b d t (orderElems d undef (fun e => d.ordered && bandOverlaid d t.segs e) b.got free 0 es []).reverse
      (updBurst bid (fun y => { y with issuedWrites := true }) (freeNext s))
  else
    let w := writeElems d undef free 0 es { rows := [], codes := [] }
    sendSide bid b (sendOut bid b d t job w (es.map Prod.fst)
      (updBurst bid (fun y => { y with issuedWrites := true, bytes := codeBytes d w.codes }) (freeNext s)))

/-- A burst whose values are known is written, after the reads of the destination that the mover makes itself. -/
def writeStage (bid : Nat) (s : State) : State :=
  match Tbl.get? s.bursts bid with
  | none => s
  | some b =>
    match burstAt s b, b.vals with
    | some (x, t), some vs =>
      let es := runElems x.desc (ixOf t.idx) b.segs
      let m := if b.merging then [] else mergeRows x.desc t es
      if m.isEmpty then issueWrites bid b x t (es.zip vs) s else askMerges bid b x.desc t m s
    | _, _ => s

/-- Nothing of the burst's writes is still to land. -/
def burstWritten (b : Burst) : Bool := (b.issuedWrites && b.todo.isEmpty && b.writes.isEmpty) || b.fail.isSome

/-- The burst may write: its values are known, and where writes apply in order those before it have landed. -/
def mayWrite (s : State) (b : Burst) : Bool :=
  b.vals.isSome && !b.issuedWrites && b.reads.isEmpty && b.fail.isNone &&
    (match burstAt s b with
    | some (x, _) => !inOrderDesc x.desc || (slotBurstsOf s b.slot).all fun c => decide (b.num ≤ c.num) || burstWritten c
    | none => false)

def nextWriter (s : State) (n : Nat) : Option Nat := (s.bursts.find? fun e => e.2.slot == n && mayWrite s e.2).map Prod.fst

def writeAll (n : Nat) : Nat → State → State
  | 0, s => s
  | fuel + 1, s =>
    match nextWriter s n with
    | some bid => writeAll n fuel (writeStage bid s)
    | none => s

/-- Every burst of the slot that may write does, and the slot goes on. -/
def writeReady (n : Nat) (s : State) : State := advanceSlot n (writeAll n (2 * (slotBurstsOf s n).length + 1) s)

/-- All data of the burst is there: the values of its elements are computed. -/
def takeData (bid : Nat) (code : Int → Nat) (s : State) : State :=
  match Tbl.get? s.bursts bid with
  | none => s
  | some b =>
    match burstAt s b with
    | none => s
    | some (x, t) =>
      let es := runElems x.desc (ixOf t.idx) b.segs
      writeReady b.slot (updBurst bid (fun y => { y with vals := some (es.map (castCode x.desc code)) }) s)

/-- The burst's reads are all back: it goes to its expander, or its values are computed and written; a failed one writes
nothing (R244). -/
def arrive (bid : Nat) (s : State) : State :=
  match Tbl.get? s.bursts bid with
  | none => s
  | some b =>
    match (Tbl.get? s.slots b.slot).map Slot.desc with
    | none => s
    | some d =>
      if !b.reads.isEmpty || (d.srcSpace == spWindow && !b.packets.isEmpty) then s
      else if b.fail.isSome || b.vals.isSome then writeReady b.slot s
      else if b.block.isSome then setExpander b.expander (fun x => { x with input := x.input ++ [bid] }) s
      else takeData bid (srcCode d b.got) s

/-- The failure of a row of a burst (R239, R244). -/
def rowFailure (s : State) (b : Burst) (write : Bool) (status row detail : Nat) (needs : Option Nat) : Failure :=
  match burstAt s b with
  | some (x, t) =>
    { status := status, addr := latchOf x.desc t b.segs status row, write := write, seq := accessOrder x.desc t b.segs write row 64,
      detail := detail, needs := needs }
  | none => { status := status, addr := row, write := write, seq := 0, detail := detail, needs := needs }

/-- A row of a burst has landed: the next of the rows that land in order goes. -/
def rowGoes (bid : Nat) (b : Burst) (sums : List Nat) (s : State) : State :=
  match b.todo, burstAt s b with
  | r :: rest, some (x, t) =>
    let codes := if r.adds.isEmpty then r.codes else sums
    sendRow bid b x.desc t rest (updBurst bid (fun y => { y with bytes := y.bytes ++ codeBytes x.desc codes }) s)
  | _, _ => s

end Sys2Proof.Machine
end

