-- ==== Sys2Proof/Machine/Issue.lean ====
section
/-! DEFINITION. BURST_BOUNDARY: slots are released and the next burst is chosen and issued (07_movers.md, R226 to R232;
10_compression.md, R330, R333; 13_causeway.md, R433, R443; 14_mirroring.md, R462). -/

namespace Sys2Proof.Machine

/-! Expander credits of a burst. -/

/-- The expander that serves a burst of a slot (R332). -/
def expanderOf (s : State) (mv : Nat) (d : Desc) : Nat :=
  if d.dstSpace = spCore then
    let p := ((coreAt s (coreOf d.dstAddr)).map CoreEntry.port).getD 0
    p / 16 * 8 + p % 16 / 2
  else moverQuarter mv * 8 + mv % 24 / 3

def expanderAt (s : State) (x : Nat) : Expander := Tbl.getD s.expanders x .reset

/-- Block of the next burst of a tile. -/
def nextBlock (d : Desc) (t : Tile) : Option Nat :=
  (nextRuns d t).head?.bind fun g => blockOfElem d (elemAt d (ixOf t.idx) g.1)

def isEscape (d : Desc) (t : Tile) (va : Nat) : Bool :=
  match escBit d va with
  | some k => Tbl.getD t.esc k false
  | none => false

/-- The block's base block is read through the expander's cache. -/
def needsBase (d : Desc) (t : Tile) (va : Nat) : Bool := xBase d != 0 && !isEscape d t va

def lineFor (x : Expander) (base block : Nat) : Option BaseLine := x.cache.find? fun l => l.base == base && l.block == block

/-! Eligibility (R228, R333, R443, R462). -/

def windowSide (d : Desc) : Option (Nat × Bool) :=
  if d.srcSpace = spWindow then some (d.srcAddr, false) else if d.dstSpace = spWindow then some (d.dstAddr, true) else none

def nextElems (d : Desc) (t : Tile) : List Elem := runElems d (ixOf t.idx) (nextRuns d t)

def windowRuns (d : Desc) (es : List Elem) : List (Nat × Nat) := if d.srcSpace = spWindow then readRuns d es else writeRuns d es

def windowPort (s : State) (stream : Nat) (a : Nat) : Option Nat := routeFor s (windowDevice a) [stream, windowDevice a]

/-- Tags are free for the packets of the burst, and its quarter reaches the port (R71); where no port is UP none is needed. -/
def tagsFree (s : State) (q : Nat) (x : Slot) (t : Tile) : Bool :=
  match windowSide x.desc with
  | none => true
  | some (a, _) =>
    match windowPort s x.stream a with
    | some p => fnTakes s (cwFn p) && crossOpen s q (p / 8) && decide ((windowRuns x.desc (nextElems x.desc t)).length + (cport s p).tags.length ≤ 1024)
    | none => true

/-- The next burst is the entry's last. -/
def lastBurst (x : Slot) (t : Tile) : Bool :=
  x.allFormed && x.nxt.isNone && decide (runsLen t.rest = runsLen (nextRuns x.desc t))

/-- The lag limit holds the burst back (R462). -/
def lagHolds (s : State) (x : Slot) (t : Tile) : Bool :=
  s.mirror.lagStop && ((s.mirror.dataMirror && (x.desc.dstSpace == spVa || x.desc.dstSpace == spMere)) || lastBurst x t)

def creditOk (x : Slot) (t : Tile) : Bool :=
  !isExpand x.desc || (nextBlock x.desc t).isNone || x.creditHeld.isSome

/-- Quantiser of a QUANT_OUT descriptor. -/
def quantOfDesc (s : State) (d : Desc) : Nat := quantOfCore s (coreOf d.srcAddr)

def replayOf (s : State) (k stream tile : Nat) : Option Replay :=
  (quantAt s k).replay.find? fun r => r.stream == stream && r.tile == tile

/-- The replay buffer of a QUANT_OUT tile holds the elements of its next burst (R367). -/
def quantHeld (s : State) (x : Slot) (t : Tile) : Bool :=
  x.desc.op != 3 ||
    (fnTakes s (quantFn (quantOfDesc s x.desc)) && fnTakes s .mere &&
      (replayOf s (quantOfDesc s x.desc) x.stream t.num).any fun p => decide (t.issued + runsLen (nextRuns x.desc t) ≤ p.done))

/-- Destination bytes of elements, each run by its first byte and number. -/
def dstSpans (d : Desc) (es : List Elem) : List (Nat × Nat) := es.filterMap fun e => e.dst.map fun o => (dstByte d o, elemBytes (dstBits d))

/-- The space of a destination and, for a window, its device and number. -/
def dstRegion (d : Desc) : Nat × Nat := (d.dstSpace, if d.dstSpace = spWindow then d.dstAddr / 2 ^ 40 else 0)

/-- Blocks that a mover has scattered and not yet seen land hold back a burst that overlaps them (R204). Every such block is in
the window (log entry 94). -/
def windowHolds (s : State) (mv : Nat) (x : Slot) (t : Tile) : Bool :=
  isScatter x.desc && s.bursts.any fun e =>
    e.2.mover == mv && !(burstWritten e.2 && e.2.packets.isEmpty) &&
      (match burstAt s e.2 with
      | some (y, u) =>
        isScatter y.desc && dstRegion y.desc == dstRegion x.desc &&
          (dstSpans y.desc (runElems y.desc (ixOf u.idx) e.2.segs)).any fun a =>
            (dstSpans x.desc (nextElems x.desc t)).any fun b => spansMeet a.1 a.2 b.1 b.2
      | none => false)

/-- A tile has missed and is not translated yet. -/
def missedTile (t : Tile) : Bool :=
  !t.translated && !t.faulted && !(t.xl.isEmpty && t.bad.isEmpty && t.misses.isEmpty && t.walking.isEmpty)

/-- The slot's next tile has missed and is not translated yet (R232, R288). -/
def parked (x : Slot) : Bool := x.nxt.any missedTile

/-- The slot holds a tile that a withdrawal drains (R295). -/
def drainedSlot (s : State) (n : Nat) : Bool := s.xlate.wds.any fun w => w.drained.any fun d => d.1 == n

/-- Slot `n` may issue its next burst. A parked one may not, but to drain a tile (R288, R296; log entry 95). -/
def eligible (s : State) (x : Slot) (n : Nat) : Bool :=
  match x.cur, Tbl.get? s.streams x.stream with
  | some t, some st =>
    st.state == stRunning && !x.release && x.failing.isNone && t.translated && !tileSpent t && (!parked x || drainedSlot s n) &&
      (if x.desc.dstSpace = spCore then x.grant.isSome else !st.paced) && creditOk x t && quantHeld s x t && tagsFree s (moverQuarter (slotMover n)) x t &&
      !lagHolds s x t && xlateUp s x.desc && !windowHolds s (slotMover n) x t
  | _, _ => false

/-! The choice (R229, R296). -/

def prioOf (s : State) (x : Slot) : Nat := ((Tbl.get? s.streams x.stream).map Stream.prio).getD 7
def weightOf (s : State) (x : Slot) : Nat := ((Tbl.get? s.streams x.stream).map Stream.weight).getD 1

/-- Eligible slots of a mover at a level, by number within the mover. -/
def eligibleAt (s : State) (mv level : Nat) : List Nat :=
  (List.range 32).filter fun k =>
    match Tbl.get? s.slots (mv * 32 + k) with
    | some x => prioOf s x == level && eligible s x (mv * 32 + k)
    | none => false

/-- The chosen slot of a level and the mover's visit afterwards. -/
def pickSlot (s : State) (mv level : Nat) (m : Mover) : Option (Nat × Mover) :=
  let e := eligibleAt s mv level
  let r := m.rr.getD level 31
  if e.isEmpty then none
  else if e.contains r && Tbl.getD m.left r 0 != 0 then some (r, { m with left := Tbl.put m.left r (Tbl.getD m.left r 0 - 1) })
  else
    match ((List.range 32).map fun i => (r + 1 + i) % 32).find? fun k => e.contains k with
    | some k =>
      let w := ((Tbl.get? s.slots (mv * 32 + k)).map (weightOf s)).getD 1
      some (k, { m with rr := m.rr.set level k, left := Tbl.put m.left k (w - 1) })
    | none => none

/-- A slot that drains a tile goes before every level, in cyclic order after the slot served last. -/
def drainChoice (s : State) (mv : Nat) : Option (Nat × Mover) :=
  let m := moverAt s mv
  (((List.range 32).map fun i => (m.last.getD 31 + 1 + i) % 32).find? fun k =>
    drainedSlot s (mv * 32 + k) && (Tbl.get? s.slots (mv * 32 + k)).any fun x => eligible s x (mv * 32 + k)).map fun k => (k, m)

def chooseBurst (s : State) (mv : Nat) : Option (Nat × Mover) :=
  (drainChoice s mv).orElse fun _ => (List.range 8).findSome? fun l => pickSlot s mv l (moverAt s mv)

/-! Issue. -/

/-- Rows of a block: its payload, or its whole place, and its base block where the expander lacks it (R330). -/
def blockReads (s : State) (d : Desc) (t : Tile) (va x : Nat) : List Nat :=
  if isEscape d t va then linesOf va 4096
  else
    linesOf va (payloadLen d) ++
      (if needsBase d t va && !((lineFor (expanderAt s x) (xBase d) (baseNumber s d va)).any fun l => !l.data.isEmpty) then
        linesOf (baseVa d va) 4096
      else [])

/-- Source rows of a burst. -/
def burstReads (s : State) (d : Desc) (t : Tile) (es : List Elem) (blk : Option Nat) (x : Nat) : List Nat :=
  match blk with
  | some va => blockReads s d t va x
  | none => if d.srcSpace = spWindow then [] else dedupe (es.flatMap (srcLines d))

/-- Takes a tag for each packet of a burst. -/
def takeTags (p bid dst : Nat) (write : Bool) : List (Nat × Nat) → State → State × List Nat
  | [], s => (s, [])
  | (a, _) :: rest, s =>
    match freeTag (cport s p) with
    | none => (s, [])
    | some t =>
      let r := takeTags p bid dst write rest (putTag p t { owner := .burst bid, write := write, offset := a, dst := dst } s)
      (r.1, (p * 1024 + t) :: r.2)

/-- The remote side of a burst: tags taken and, for a read, packets sent; with no way out it fails at once (R433). -/
def goRemote (bid : Nat) (x : Slot) (t : Tile) (es : List Elem) (job : Nat) (s : State) : State :=
  match windowSide x.desc with
  | none => s
  | some (a, write) =>
    let runs := windowRuns x.desc es
    if runs.isEmpty then s
    else
      match windowPort s x.stream a with
      | none =>
        noteFail bid { status := stUnreachable, addr := ((runs.head?).map Prod.fst).getD 0, write := write,
                       seq := accessOrder x.desc t t.rest write (((runs.head?).map Prod.fst).getD 0) (if write then 1 else 64), detail := 0, needs := none } s
      | some p =>
        let r := takeTags p bid (windowDevice a) write runs s
        let s1 := updBurst bid (fun b => { b with packets := r.2 }) r.1
        if write then s1 else sendAll a opRead job [] 0 (r.2.zip runs) s1

def newBurst (mv n : Nat) (x : Slot) (t : Tile) (runs : List (Nat × Nat)) (blk : Option Nat) (ex : Nat) (reads : List Nat) : Burst :=
  { slot := n, mover := mv, stream := x.stream, ring := x.ring, pos := x.pos, tile := t.num, num := t.bursts, segs := runs,
    last := decide (runsLen t.rest = runsLen runs), reads := reads, got := [], writes := [], packets := [], deliveries := 0,
    block := blk, expander := ex, pin := x.pin, charge := if t.bursts = 0 then t.charge else 0, cause := if t.bursts = 0 then t.cause else 0,
    grant := x.grant, issuedWrites := false, vals := none, merging := false, todo := [], side := [], fail := none, bytes := [] }

/-- The slot once its burst has gone: grant and credit are the burst's. -/
def spendSlot (n : Nat) (x : Slot) : Slot :=
  { x with cur := x.cur.map fun t => { t with issued := t.issued + n, bursts := t.bursts + 1 }, grant := none,
           grantAsked := false, creditHeld := none, creditAsked := false, pin := none }

/-- The transpose buffer of a mover (R476). -/
def transposeSite (mv : Nat) : EccSite := soundSite 0x07 mv 0 4096 (islMover mv) 0 0 [0x0A]

/-- The reads of a transposed tile whose buffer held an uncorrectable word are issued again. -/
def againReads (l : List MemReq) : List MemReq := l ++ l.map fun r => { r with id := r.id + l.length }

/-- Charged as a corrected stack beat at the pin rate in force (R258, R476). -/
def chargeAgain (s : State) (b : Burst) : Burst :=
  { b with charge := satAdd 16 b.charge (if s.power.pinRate = 1 then 10 else if s.power.pinRate = 0 then 15 else 8), cause := b.cause ||| 2 }

def sideRows (l : List Host.Cell) : List RowOut := l.foldl (fun r c => putOut r c.1 0 8 c.2.toNat) []

/-- A burst of QUANT_OUT carries the codes of its replay buffer, the tile's last burst its side rows too (R366). -/
def fillReplay (s : State) (x : Slot) (t : Tile) (es : List Elem) (b : Burst) : Burst :=
  match if x.desc.op = 3 then replayOf s (quantOfDesc s x.desc) x.stream t.num else none with
  | some p => { b with vals := some (es.map fun e => Tbl.getD p.main e.n 0), side := if b.last then sideRows p.side else [] }
  | none => b

/-- Issues the next burst of a slot. -/
def issueBurst (mv n : Nat) (x : Slot) (t : Tile) (s0 : State) : State :=
  let bad := x.desc.transpose && badRead .quiet (transposeSite mv) s0
  let s := if x.desc.transpose then soundRead .quiet (transposeSite mv) s0 else s0
  let runs := nextRuns x.desc t
  let es := runElems x.desc (ixOf t.idx) runs
  let ex := x.creditHeld.getD (expanderOf s mv x.desc)
  let blk := nextBlock x.desc t
  let bid := s.nextBurst
  let rq0 := reqList (readReq x.desc t bid mv) s.mem.nextReq ((burstReads s x.desc t es blk ex).map fun a => (a, false))
  let rq := if bad then againReads rq0 else rq0
  let b := fillReplay s x t es (newBurst mv n x t runs blk ex (rq.map MemReq.id))
  let s1 := addReqs rq (updSlot n (spendSlot (runsLen runs)) { s with
    bursts := Tbl.put s.bursts bid (if bad then chargeAgain s b else b)
    nextBurst := bid + 1 })
  let job := streamJob s x.stream
  arrive bid (goRemote bid x t es job s1)

/-! The boundary. -/

/-- Released slots become free (R226). -/
def releaseSlots (mv : Nat) (s : State) : State :=
  { s with slots := s.slots.filterV fun n x => !(slotMover n == mv && x.release) }

/-- The first slot of the mover with a RUNNING stream. -/
def runningSlot (s : State) (mv : Nat) : Option (Nat × Slot) :=
  s.slots.find? fun e => slotMover e.1 == mv && runningCtx s e.2.stream && !e.2.release

def slotSite (mv k : Nat) : EccSite := soundSite 0x06 mv k 1 (islMover mv) 0 0 [7]

/-- Slot-state parity: point 0x0007 sets the stream's disable bit (R476, R503). -/
def slotParity (mv : Nat) (s : State) : State :=
  match runningSlot s mv with
  | none => s
  | some (n, x) =>
    let site := slotSite mv (n % 32)
    if badRead .quiet site s then disableStream x.stream (soundRead .quiet site s) else soundRead .quiet site s

def boundary (mv : Nat) (s : State) : State :=
  let s1 := releaseSlots mv (slotParity mv s)
  match chooseBurst s1 mv with
  | none => s1
  | some (k, m) =>
    match Tbl.get? s1.slots (mv * 32 + k) with
    | some x =>
      match x.cur with
      | some t => issueBurst mv (mv * 32 + k) x t (setMover mv (fun _ => { m with last := some k }) s1)
      | none => s1
    | none => s1

/-- BURST_BOUNDARY (R226 to R232). -/
def execBurstBoundary (mv : Fin 96) (s : State) : Host.Outcome State Fault Refusal :=
  .next (if inService s && fnTakes s (moverFn mv.val) then boundary mv.val s else s)

end Sys2Proof.Machine
end

