-- ==== Sys2Proof/Machine/Service.lean ====
section
/-! DEFINITION. The service of requests by the stacks and the Mere, and the responses to the movers (R18, R19, R21, R49 to
R51, R244, R250, R272, R384 to R387). -/

namespace Sys2Proof.Machine

/-! Mirror items of landed rows (R460). -/

/-- The masked bytes of a row as runs of addresses. -/
def maskRuns (a : Nat) (mask : BitVec 512) : List (Nat × Nat) := byteRuns ((rowBytes mask mask).map fun e => a + e.1) []

def stackItem (s : State) (key : Nat) (mat : BitVec 256 × BitVec 256) (r : Nat × Nat) : MirrorItem :=
  .stackWrite r.1 (BitVec.ofNat 4 key) (stackBytes s.mem mat r.1 r.2)

def mereItem (s : State) (r : Nat × Nat) : MirrorItem := .mereWrite r.1 (zeroBytes s.mem.mere r.1 r.2)

/-- Queues what a landed row wrote, where the pair mirrors data. -/
def mirrorRow (l : RowAt) (mat : BitVec 256 × BitVec 256) (mask : BitVec 512) (s : State) : State :=
  match l with
  | .stack pa key => (maskRuns pa mask).foldl (fun t r => mirrorWrite (stackItem t key mat r) t) s
  | .mere a _ => (maskRuns a mask).foldl (fun t r => mirrorWrite (mereItem t r) t) s
  | .host _ _ => s

/-- Key material of a row in stack memory. -/
def rowMaterial (s : State) : RowAt → BitVec 256 × BitVec 256
  | .stack _ key => material s key
  | _ => (0, 0)

/-- Writes a row for a unit that writes within its own step, with its mirror items. -/
def landRow (env : Env) (l : RowAt) (data mask : BitVec 512) (s : State) : RowWrite :=
  let w := writeRowAt env l data mask s
  if w.status = stOk then { w with st := mirrorRow l (rowMaterial s l) mask w.st } else w

/-! Requests. -/

def reqOf (s : State) (id : Nat) : Option MemReq := s.mem.reqs.find? fun r => r.id == id
def dropReq (id : Nat) (s : State) : State := { s with mem := { s.mem with reqs := s.mem.reqs.filter fun r => r.id != id } }
def updReq (id : Nat) (f : MemReq → MemReq) (s : State) : State :=
  { s with mem := { s.mem with reqs := s.mem.reqs.map fun r => if r.id = id then f r else r } }

def answerRead (r : RowRead) (q : MemReq) : MemReq :=
  { q with res := some (r.status, r.row), charge := satAdd 16 q.charge r.charge, cause := q.cause ||| r.cause, needs := r.needs }

def answerWrite (w : RowWrite) (q : MemReq) : MemReq :=
  { q with res := some (w.status, 0), charge := satAdd 16 q.charge w.charge, cause := q.cause ||| w.cause, needs := w.needs }

def reqRow (q : MemReq) : RowAt :=
  match q.target with
  | .stack _ => .stack q.addr q.key
  | .mere _ => .mere q.addr q.segment
  | .host => .host q.addr q.segment

/-- READER of a request's record (R491). -/
def readerOf (q : MemReq) : Nat :=
  match q.who with
  | .core _ _ => 3
  | .slot _ _ => 4
  | .area _ _ => 5
  | .burst _ => if q.merge then 1 else 0

/-- READER of the read that an adding write makes. -/
def addReader (q : MemReq) : Nat := if ofSlice q.who then readerOf q else 1

/-- What lands is mirrored, but for the messages of queues (R460). -/
def whoMirrors : Who → Bool
  | .slot _ _ => false
  | _ => true

/-- The material a request is served under: that of its key slot, as the slot was when the request reached the controller. -/
def reqMaterial (s : State) (q : MemReq) : BitVec 256 × BitVec 256 := q.oldKey.getD (material s q.key)

/-- Adds codes to the elements of a row one after another (R208): the row and the sums. -/
def sumRow (typ cast : Nat) : List (Nat × Nat) → BitVec 512 → BitVec 512 × List Nat
  | [], row => (row, [])
  | (lo, c) :: rest, row =>
    let v := accumulate typ cast (fld row.toNat lo (typeBits typ)) c
    let r := sumRow typ cast rest (BitVec.ofNat 512 (setFld row.toNat lo (typeBits typ) v))
    (r.1, v :: r.2)

/-- A write that adds: the target reads the row, adds, and writes it back as one access (R250). -/
def addedWrite (q : MemReq) (r : RowRead) (put : BitVec 512 → State → State) : RowWrite × List Nat :=
  let a := sumRow q.addTyp q.addCast q.adds r.row
  if r.status = stOk then
    ({ st := put a.1 r.st, status := stOk, charge := r.charge, cause := r.cause, needs := none }, a.2)
  else ({ st := r.st, status := r.status, charge := r.charge, cause := r.cause, needs := r.needs }, [])

/-- A write at a stack: put, or added by a merge read of its controller. -/
def stackWrite (env : Env) (k : Nat) (q : MemReq) (s : State) : RowWrite × List Nat :=
  let key := reqMaterial s q
  if q.adds.isEmpty then (writeStackRow env k q.addr key q.data q.mask q.merged s, [])
  else if (stackAt s k).state ≠ 1 then ({ st := s, status := stBusWrite, charge := 0, cause := 0, needs := none }, [])
  else
    addedWrite q (readStackRow env k q.addr key 1 (bump 8 k 2 1 s))
      fun row t => { t with mem := putRowStack key t.mem q.addr row q.mask }

/-- A write at a bank. -/
def mereWrite (env : Env) (q : MemReq) (s : State) : RowWrite × List Nat :=
  if q.adds.isEmpty then (writeMereRow env q.addr q.data q.mask q.merged s, [])
  else addedWrite q (readMereRow env q.addr (addReader q) true s) fun row t => { t with mem := putRowMere t.mem q.addr row q.mask }

/-- The write is answered, and what it landed is queued for the mirror. -/
def writeServed (q : MemReq) (mat : BitVec 256 × BitVec 256) (w : RowWrite × List Nat) : State :=
  updReq q.id (fun r => { answerWrite w.1 r with sums := w.2 })
    (if w.1.status = stOk ∧ whoMirrors q.who = true then mirrorRow (reqRow q) mat q.mask w.1.st else w.1.st)

/-- Serves one request at its stack or bank. -/
def serveReq (env : Env) (q : MemReq) (s : State) : State :=
  match q.target with
  | .stack k =>
    if q.write then writeServed q (reqMaterial s q) (stackWrite env k q s)
    else
      let r := readStackRow env k q.addr (reqMaterial s q) (readerOf q) s
      updReq q.id (answerRead r) r.st
  | .mere _ =>
    if q.write then writeServed q (0, 0) (mereWrite env q s)
    else
      let r := readMereRow env q.addr (readerOf q) true s
      updReq q.id (answerRead r) r.st
  | .host => s

/-! Stacks (R21). -/

def waitingAt (s : State) (t : Target) (write : Bool) : List MemReq :=
  s.mem.reqs.filter fun r => r.target == t && r.res.isNone && r.write == write

/-- Writes go first from 48 queued of 64 until 16 are left. The queue holds at most 64. -/
def drainingNow (was : Bool) (writes : Nat) : Bool := if 48 ≤ writes then true else was && decide (16 < writes)

/-- Requests that have reached their controller and that it may serve: none while the PHY updates (R50), only those older than
a change of pin rate that is waited for (R102), none whose way between the quarters is down (R71). -/
def servable (s : State) (k : Nat) (q : MemReq) : Bool :=
  !(stackAt s k).updating && (stackAt s k).switching.all (fun m => decide (q.id < m)) && crossOpen s q.segment (k / 6)

/-- Where a request comes from: its quarter and its unit. -/
def askerOf (q : MemReq) : Nat × Nat := (q.segment, q.unit)

/-- The oldest request of the requester whose turn it is (R22, R23). -/
def firstByTurn (s : State) (k : Nat) (l : List MemReq) : Option MemReq :=
  (turnOf (stackAt s k).arb s.mem.links (k / 6) (l.map askerOf)).bind fun x => l.find? fun q => askerOf q == x

/-- The requests among which a stack controller chooses: reads before writes, or while it drains the other way round (R21). -/
def stackClass (s : State) (k : Nat) : List MemReq :=
  let w := (waitingAt s (.stack k) true).filter (servable s k)
  let r := (waitingAt s (.stack k) false).filter (servable s k)
  if drainingNow (stackAt s k).draining w.length then (if w.isEmpty then r else w) else if r.isEmpty then w else r

/-- The request a stack controller serves next. -/
def nextAtStack (s : State) (k : Nat) : Option MemReq := firstByTurn s k (stackClass s k)

/-- The arbiters of the stack and of the links once a request is served. -/
def turnStack (s : State) (k : Nat) (q : MemReq) : State :=
  let l := (stackClass s k).map askerOf
  let n := ((waitingAt s (.stack k) true).filter (servable s k)).length
  setStack k (fun x => { x with draining := drainingNow x.draining n, arb := x.arb.serve (k / 6) l (askerOf q) })
    { s with mem := { s.mem with links := serveLinks (k / 6) l (askerOf q) s.mem.links } }

def serveStack (k : Nat) (env : Env) (s : State) : State :=
  match nextAtStack s k with
  | none => s
  | some q => serveReq env q (turnStack s k q)

/-- STACK_REQUEST (R21, R49, R526). -/
def execStackRequest (k : Fin 24) (env : Env) (s : State) : Host.Outcome State Fault Refusal :=
  .next (if blockUp s then serveStack k.val env s else s)

/-- STACK_REFRESH: a refresh goes before every request (R21). -/
def execStackRefresh (k : Fin 24) (s : State) : Host.Outcome State Fault Refusal :=
  .next (if blockUp s && (stackAt s k.val).state == 1 then setStack k.val (fun x => { x with refreshes := x.refreshes + 1 }) s else s)

/-- The acknowledgement of DFI_PHYUPD_REQ (R50): high from the request until it falls. -/
def phyupdAck (s : State) (k : Nat) : Bool := blockUp s && (stackAt s k).updating

/-- DFI_PHYUPD_REQ changes level: the controller acknowledges it and holds the stack idle until it falls; the delay counts as a
refresh (R50). -/
def execDfiPhyupdReq (req : PhyupdReq) (s : State) : Host.Outcome State Fault Refusal :=
  .next (if blockUp s && (stackAt s req.stack.val).state == 1 && req.level != (stackAt s req.stack.val).updating then
      setStack req.stack.val
        (fun x => { x with updating := req.level, refreshes := if req.level then x.refreshes else x.refreshes + 1 }) s
    else s)

/-! A thermal trip of a stack (R51). -/

def tripReq (k : Nat) (q : MemReq) : MemReq :=
  if q.target = .stack k ∧ q.res.isNone then { q with res := some (if q.write then stBusWrite else stStackUnc, 0) } else q

/-- A JOIN_RETRY trains the stack. -/
def retryTrains (s : State) (k : Nat) : Bool :=
  s.mbox.any fun b => b.busy && (match b.wait with | .joinStack j _ => j == k | _ => false)

/-- The stack is in service, or trains: in S3, or for a JOIN_RETRY. -/
def stackWorks (s : State) (k : Nat) : Bool :=
  (stackAt s k).state == 1 || (s.bring.stage == 3 && (stackAt s k).state == 0) || retryTrains s k

/-- The trip is seen: accepted requests fail, a record is written, and the stack leaves service, or fails the training it is in. -/
def tripStack (k : Nat) (needs : Option Nat) (s : State) : State :=
  if stackWorks s k then
    let left := fun (x : Stack) => if x.state = 1 then 2 else x.state
    let s1 := setStack k (fun x => { x with state := left x, tripped := true, switching := none, draining := false, updating := false }) s
    setCause 7 0 (offer needs (thermalRec s1 1 (islStack k) 4 k 0 0)
      { s1 with mem := { s1.mem with reqs := s1.mem.reqs.map (tripReq k) } })
  else s

/-- STK_CATTRIP changes level (R46, R51). -/
def execStkCattrip (k : Fin 24) (level : Bool) (s : State) : Host.Outcome State Fault Refusal :=
  let s1 := setStack k.val (fun x => { x with cattrip := level }) s
  .next (if level && !(stackAt s k.val).cattrip && blockUp s then tripStack k.val none s1 else s1)

/-! The Mere (R18, R384). -/

/-- The request a bank serves next: its segments in turn after the one served last. -/
def nextAtBank (s : State) (b : Nat) : Option MemReq :=
  let l := s.mem.reqs.filter fun r => r.target == .mere b && r.res.isNone && crossOpen s r.segment (b / 512)
  ((List.range 4).map fun i => (Tbl.getD s.mem.bankRr b 3 + 1 + i) % 4).findSome? fun g => l.find? fun r => r.segment == g

def serveBank (b : Nat) (env : Env) (s : State) : State :=
  match nextAtBank s b with
  | none => s
  | some q => serveReq env q { s with mem := { s.mem with bankRr := Tbl.put s.mem.bankRr b q.segment } }

/-- MERE_BANK_ACCESS (R18, R19, R385, R386). -/
def execMereBankAccess (b : Fin 2048) (env : Env) (s : State) : Host.Outcome State Fault Refusal :=
  .next (if inService s && fnTakes s .mere then serveBank b.val env s else s)

/-- Address of a row of a bank. -/
def bankRow (b row : Nat) : Nat := row * 131072 + b * 64

/-- A bank with no request waiting checks its next row; a pass is counted for its quarter (R387). -/
def scrubBank (b : Nat) (env : Env) (s : State) : State :=
  if (nextAtBank s b).isSome then s
  else
    let row := Tbl.getD s.mem.scrub b 0
    let s1 := (readMereRow env (bankRow b row) 6 false s).st
    let s2 := { s1 with mem := { s1.mem with scrub := Tbl.put s1.mem.scrub b ((row + 1) % 2048) } }
    if row = 2047 then bump 7 (b / 512) 2 1 s2 else s2

/-- PATROL_SCRUB (R387). -/
def execPatrolScrub (b : Fin 2048) (env : Env) (s : State) : Host.Outcome State Fault Refusal :=
  .next (if inService s && fnTakes s .mere then scrubBank b.val env s else s)

/-! Responses to the movers (R239, R244, R272). -/

/-- A host read or write is answered as its response arrives; points 0x0020 and 0x0021 make it an error (R503). -/
def hostAnswer (env : Env) (q : MemReq) (s : State) : State × Nat × BitVec 512 × Option Nat :=
  let pt := if q.write then 0x21 else 0x20
  let needs := hostNeeds pt q.segment s
  let s1 := hostEvent pt q.segment s
  if hostFails env pt q.segment q.addr s then (s1, if q.write then stBusWrite else stBusRead, 0, needs)
  else if q.write then ({ s1 with mem := putHost s1.mem q.addr q.data q.mask }, stOk, 0, none)
  else (freeNext s1, stOk, hostRow env s1 q.addr, none)

/-- A request's answer: what its target left, or the host's now. -/
def answerOf (env : Env) (q : MemReq) (s : State) : Option (State × Nat × BitVec 512 × Option Nat) :=
  match q.target with
  | .host => some (hostAnswer env q s)
  | _ => q.res.map fun r => (s, r.1, r.2, q.needs)

def chargeBurst (q : MemReq) (b : Burst) : Burst := { b with charge := satAdd 16 b.charge q.charge, cause := b.cause ||| q.cause }

/-- DETAIL of STREAM_HALT: the physical address of a failing stack row (R492). -/
def rowDetail (q : MemReq) : Nat :=
  match q.target with
  | .stack _ => q.addr
  | _ => 0

/-- The quarter of a request's target; the host's link is the requester's own. -/
def targetQuarter (q : MemReq) : Nat :=
  match q.target with
  | .stack k => k / 6
  | .mere b => b / 512
  | .host => q.segment

/-- A response crosses back to its requester (R71). -/
def backOpen (s : State) (q : MemReq) : Bool := crossOpen s (targetQuarter q) q.segment

/-- A row has been read for a burst. -/
def rowArrived (q : MemReq) (bid status : Nat) (row : BitVec 512) (needs : Option Nat) (s : State) : State :=
  match Tbl.get? s.bursts bid with
  | none => s
  | some b =>
    let s1 := updBurst bid (fun y => chargeBurst q { y with
      reads := y.reads.filter fun i => i != q.id
      got := if status = stOk then y.got ++ [(rowKey q.merge q.latch, row)] else y.got }) s
    let s2 := if status = stOk then s1
      else noteFail bid (rowFailure s1 b q.merge status q.latch (rowDetail q) needs) s1
    arrive bid s2

/-- A row of a core's read or write has been served; a write that landed whole is over (R380). -/
def coreRow (q : MemReq) (p rd status : Nat) (row : BitVec 512) (s : State) : State :=
  let step := fun (c : CoreReq) =>
    if c.id = rd then
      { c with reqs := c.reqs.filter fun i => i != q.id, rows := if q.write then c.rows else c.rows ++ [(q.addr, row)],
               failed := c.failed || status != stOk }
    else c
  setPort p (fun x => { x with reads := (x.reads.map step).filter fun c => !(c.write && c.reqs.isEmpty && !c.failed) }) s

/-! The rows of queues (R394, R404). -/

def queueAt (s : State) (n : Nat) : Option Queue := Tbl.get? s.queues n
def updQueue (n : Nat) (f : Queue → Queue) (s : State) : State := { s with queues := Tbl.upd s.queues n f }
def queueGenOf (s : State) (n : Nat) : Nat := Tbl.getD s.queueGen n 0

/-- An addition of the round is lost; the first status stays (R405). A later generation has begun a round of its own. -/
def loseAdd (n gen status : Nat) (s : State) : State :=
  if queueGenOf s n = gen then updQueue n (fun q => { q with roundErr := if q.roundErr = 0 then status else q.roundErr }) s else s

/-- A row of a contribution has been answered; one with an uncorrectable word took no addition (R386, R404). -/
def rowAdded (n gen status : Nat) (s : State) : State := if status = stOk then s else loseAdd n gen status s

def takeRead (env : Env) (q : MemReq) (s : State) : State :=
  match answerOf env q s with
  | none => s
  | some (s1, status, row, needs) =>
    let s2 := dropReq q.id s1
    match q.who with
    | .burst bid => rowArrived q bid status row needs s2
    | .core p rd => settleWds (coreRow q p rd status row s2)
    | .slot _ _ | .area _ _ => s2

/-- READ_RESPONSE (R25, R26, R29, R239). -/
def execReadResponse (req : Nat) (env : Env) (s : State) : Host.Outcome State Fault Refusal :=
  .next (match reqOf s req with
    | some q => if inService s && !q.write && backOpen s q then takeRead env q s else s
    | none => s)

/-- A row of a burst's write has been answered: it has landed, or for the host may have (R240, R244). -/
def rowLanded (q : MemReq) (bid status : Nat) (needs : Option Nat) (s : State) : State :=
  match Tbl.get? s.bursts bid with
  | none => s
  | some b =>
    let s1 := updBurst bid (fun y => chargeBurst q { y with writes := y.writes.filter fun i => i != q.id }) s
    let s2 := if status = stOk ∨ q.target = .host then markLanded b.slot s1 else s1
    writeReady b.slot (if status = stOk then rowGoes bid b q.sums s2 else noteFail bid (rowFailure s2 b true status q.latch (rowDetail q) needs) s2)

def takeWrite (env : Env) (q : MemReq) (s : State) : State :=
  match answerOf env q s with
  | none => s
  | some (s1, status, row, needs) =>
    let s2 := dropReq q.id s1
    match q.who with
    | .burst bid => rowLanded q bid status needs s2
    | .core p rd => settleWds (coreRow q p rd status row s2)
    | .slot _ _ => settleWds s2
    | .area n gen => settleWds (rowAdded n gen status s2)

/-- WRITE_RESPONSE (R239, R240, R244). -/
def execWriteResponse (req : Nat) (env : Env) (s : State) : Host.Outcome State Fault Refusal :=
  .next (match reqOf s req with
    | some q => if inService s && q.write && backOpen s q then takeWrite env q s else s
    | none => s)

end Sys2Proof.Machine
end

