-- ==== Sys2Proof/Machine/Quant.lean ====
section
/-! DEFINITION. Quantisers: bindings, scale registers and statistics, the checks of a QUANT_OUT entry, and the mapping of
rows to codes (11_quantisation.md, R342 to R374). -/

namespace Sys2Proof.Machine

def bindKey (core engine : Nat) : Nat := core * 4 + engine

def rowDynamic : Nat := 0
def channelStatic : Nat := 1

/-- Bindings that a quantiser holds. -/
def bindingsOf (s : State) (k : Nat) : List Binding := (s.bindings.filter fun e => quantOfCore s (e.1 / 4) == k).map Prod.snd

/-- History slots that a binding keeps: only ROW_DYNAMIC keeps any (R356). -/
def historySlots (mode rows history : Nat) : Nat := if mode = rowDynamic then rows * history else 0

def historyFree (s : State) (k : Nat) : Nat :=
  32768 - ((bindingsOf s k).map fun b => historySlots b.scaleMode b.maxRows b.history).sum
def chanFree (s : State) (k : Nat) : Nat := 8192 - ((bindingsOf s k).map Binding.chanStats).sum

/-! QNT_CONFIG (R344 to R346). -/

def minFloor : Nat := 0x0D800000
def maxCeil : Nat := 0x71800000

/-- A positive FP32 value within bounds; a NaN and what lies below go to the lower bound. -/
def boundFp (lo v : Nat) : Nat :=
  if fld v 31 1 = 1 ∨ 0x7F800000 < v ∨ v < lo then lo else if maxCeil < v then maxCeil else v

def blockOwner (s : State) (k reg : Nat) : Option Nat := Tbl.get? (quantAt s k).blocks (reg / 256)

/-- Every register of a run lies in blocks of a job. -/
def ownsRegs (s : State) (k job first n : Nat) : Bool :=
  (List.range 16).all fun b => !decide (b * 256 < first + n ∧ first < b * 256 + 256 ∧ 0 < n) || Tbl.get? (quantAt s k).blocks b == some job

def bodyKey (body : Nat) : Nat := bindKey (fld body 0 10) (fld body 10 2)
def bodyQuant (s : State) (body : Nat) : Nat := quantOfCore s (fld body 0 10)

def bindStreamOk (s : State) (j v : Nat) : Bool :=
  handleOk s j v && ((Tbl.get? s.streams (fld v 0 20)).map Stream.state).getD 0 == stIdle &&
    !(s.bindings.any fun e => e.2.stream == fld v 0 20)

def bindFlds (s : State) (j : Nat) : List (Nat → List Fld) :=
  [fun _ => [
    chk 1 224 32 fun v => .setTo (boundFp minFloor v),
    chkB 2 192 32 fun b v => .setTo (boundFp (fld b 224 32) v),
    rsvd 3 176 16,
    chk 4 160 16 fun v => .setTo (min v 8192),
    chk 5 144 16 (clampIn 1 32768),
    chkB 6 131 13 fun b v => .setTo (min v (4096 - fld b 116 12)),
    rsvd 7 128 3,
    chkB 8 116 12 fun b v => refuseUnless (fld b 131 13 == 0 ||
      ownsRegs s (bodyQuant s b) (streamJob s (fld b 64 20)) v (fld b 131 13)),
    rsvd 10 112 2,
    chk 12 96 4 (clampIn 1 8),
    chk 13 94 2 fun v => refuseUnless (v != 3),
    rsvd 15 92 1,
    chk 16 64 28 fun v => refuseUnless (bindStreamOk s j v),
    rsvd 17 18 46,
    chk 18 16 2 fun v => refuseUnless (v == 0),
    rsvd 19 12 4,
    chkB 21 0 10 fun b v => refuseUnless ((coreAt s v).isSome && !Tbl.has s.bindings (bodyKey b))]]

def newBinding (s : State) (body : Nat) : Binding :=
  let i := fld body 64 20
  { stream := i, gen := fld body 84 8, job := streamJob s i, minAbs := BitVec.ofNat 32 (fld body 224 32),
    initAbs := BitVec.ofNat 32 (fld body 192 32), chanStats := fld body 160 16, maxRows := fld body 144 16,
    feedCount := fld body 131 13, feedBase := fld body 116 12, feedEngine := fld body 114 2, regBase := fld body 100 12,
    history := fld body 96 4, scaleMode := fld body 94 2, ties := fld body 93 1 == 1, hist := [], rows := 0, elements := 0,
    saturated := 0, nonfinite := 0, sideBytes := 0, scaleEntries := 0, lastAbs := 0, chan := [], window := 0, threshold := 0,
    held := [], heldBeats := [], acc := none, mbody := BitVec.ofNat 256 body }

def bindSource (c : Cmd) (s : State) : State × Reply :=
  let k := bodyQuant s c.body
  if chanFree s k < fld c.body 160 16 ∨ historyFree s k < historySlots (fld c.body 94 2) (fld c.body 144 16) (fld c.body 96 4) then (s, endWith stExhausted)
  else
    (mirrorSend (.binding (fld c.body 0 10) (fld c.body 10 2) (some (BitVec.ofNat 256 c.body)))
      { s with bindings := Tbl.put s.bindings (bodyKey c.body) (newBinding s c.body) }, okEmpty)

/-- The row also carries out a reserved ACTION, which it refuses. -/
def specQntBind : CmdSpec :=
  { op := 0x0501, hw := false, sel := fun b => fld b 16 2 != 1, flds := bindFlds, act := bindSource }

/-- QNT_CONFIG with ACTION BIND (R344 to R346). -/
def execQntConfigBind (m : Fin 8) (s : State) : Host.Outcome State Fault Refusal := .next (runCmd specQntBind m s)

/-- A binding that a command of job `j` may name. -/
def bindingOk (s : State) (j k : Nat) : Bool :=
  match Tbl.get? s.bindings k with
  | some b => mayName j b.job
  | none => false

def unbindOk (s : State) (j k : Nat) : Bool :=
  bindingOk s j k &&
    (match (Tbl.get? s.bindings k).bind fun b => Tbl.get? s.streams b.stream with
    | some x => !(decide (2 ≤ x.state ∧ x.state ≤ 4))
    | none => true)

def unbindFlds (s : State) (j : Nat) : List (Nat → List Fld) :=
  [fun _ => [rsvd 17 18 46, chk 18 16 2 fun _ => .ok, rsvd 19 12 4,
    chkB 21 0 10 fun b v => refuseUnless ((coreAt s v).isSome && unbindOk s j (bodyKey b))]]

/-- Removes a binding; beats it still holds are dropped, and counted (R374). -/
def unbind (k : Nat) (s : State) : State :=
  let s1 := match Tbl.get? s.bindings k with
    | some b => dropHeld k b s
    | none => s
  mirrorSend (.binding (k / 4) (k % 4) none) { s1 with bindings := Tbl.del s1.bindings k }

def specQntUnbind : CmdSpec :=
  { op := 0x0501, hw := false, sel := fun b => fld b 16 2 == 1, flds := unbindFlds,
    act := fun c s => (unbind (bodyKey c.body) s, okEmpty) }

/-- QNT_CONFIG with ACTION UNBIND (R345, R346). -/
def execQntConfigUnbind (m : Fin 8) (s : State) : Host.Outcome State Fault Refusal := .next (runCmd specQntUnbind m s)

/-! SCALE_LOAD (R360, R361). -/

def regAt (q : Quantiser) (r : Nat) : Nat := (Tbl.getD q.scales r 0).toNat

def setReg (q : Quantiser) (r : Nat) (v : Nat) : Quantiser :=
  { q with scales := if v = 0 then Tbl.del q.scales r else Tbl.put q.scales r (BitVec.ofNat 32 v) }

def putRegs (q : Quantiser) (r : Nat) : List Nat → Quantiser
  | [] => q
  | v :: vs => putRegs (setReg q r v) (r + 1) vs

def touched (first n : Nat) : List Nat := (List.range 16).filter fun b => decide (b * 256 < first + n ∧ first < b * 256 + 256)
def wholly (first n : Nat) : List Nat := (List.range 16).filter fun b => decide (first ≤ b * 256 ∧ b * 256 + 256 ≤ first + n)

def loadHead (actionOk : Nat → Bool) (firstOk : Nat → Bool) (srcOk : Nat → Nat → Bool) : List (Nat → List Fld) :=
  [fun _ => [
    rsvd 1 100 28,
    chkB 2 72 28 fun b v => refuseUnless (srcOk b v),
    chkB 3 59 13 fun b v => clampIn 1 (4096 - fld b 44 12) v,
    rsvd 4 56 3,
    chkB 5 44 12 fun b _ => refuseUnless (firstOk b),
    rsvd 6 42 2,
    chk 7 40 2 fun v => refuseUnless (actionOk v),
    rsvd 8 37 3,
    chk 9 32 5 fun _ => .ok,
    rsvd 10 0 32]]

/-- COUNT as it is clamped, which SRC is checked against. -/
def scaleCount (b : Nat) : Nat := max 1 (min (fld b 59 13) (4096 - fld b 44 12))

/-- No block that the run touches is owned by a job that `j` may not name (R132). -/
def blocksNamed (s : State) (j b : Nat) : Bool :=
  (touched (fld b 44 12) (fld b 59 13)).all fun k => (Tbl.get? (quantAt s (fld b 32 5)).blocks k).all (mayName j)

def loadFlds (s : State) (j : Nat) : List (Nat → List Fld) :=
  loadHead (fun v => v == 0)
    (blocksNamed s j)
    (fun b v => v % 4 == 0 && decide (v + 4 * scaleCount b ≤ mereSize) && inAllocs s j v (4 * scaleCount b))

/-- Words of a Mere span as Hexob reads them: rows one by one; none where a row is uncorrectable. -/
structure MereSpan where
  st : State
  fail : Bool
  bytes : List Byte
deriving DecidableEq, Repr

def readMereSpan (env : Env) (reader : Nat) : Nat → Nat → Nat → State → MereSpan
  | 0, _, _, s => { st := s, fail := false, bytes := [] }
  | fuel + 1, a, n, s =>
    if n = 0 then { st := s, fail := false, bytes := [] }
    else
      let r := readMereRow env (a / 64 * 64) reader true s
      if r.status ≠ stOk then { st := r.st, fail := true, bytes := [] }
      else
        let k := min n (64 - a % 64)
        let rest := readMereSpan env reader fuel (a + k) (n - k) r.st
        { rest with bytes := rowPart r.row (a % 64) (a % 64 + k) ++ rest.bytes }

def words (l : List Byte) : Nat → List Nat
  | 0 => []
  | n + 1 => bytesToNat (l.take 4) :: words (l.drop 4) n

def loadScales (env : Env) (c : Cmd) (s : State) : State × Reply :=
  let n := fld c.body 59 13
  let first := fld c.body 44 12
  let x := readMereSpan env 0xC 300 (fld c.body 72 28) (4 * n) s
  if x.fail then (x.st, endWith stMereUnc)
  else
    let k := fld c.body 32 5
    let own := fun (t : Tbl Nat) (b : Nat) => if Tbl.has t b then t else Tbl.put t b c.job
    (setQuant k (fun q => putRegs { q with blocks := (touched first n).foldl own q.blocks } first (words x.bytes n)) x.st,
      okWith 8 n)

/-- The row also carries out a reserved ACTION, which it refuses. -/
def specScaleLoad (env : Env) : CmdSpec :=
  { op := 0x0502, hw := false, sel := fun b => fld b 40 2 != 1, flds := loadFlds, act := loadScales env }

/-- SCALE_LOAD with ACTION LOAD (R361). -/
def execScaleLoadLoad (m : Fin 8) (env : Env) (s : State) : Host.Outcome State Fault Refusal :=
  .next (runCmd (specScaleLoad env) m s)

/-- A register run in use: a FEED range, or the channels of a running CHANNEL_STATIC entry. -/
def regsUsed (s : State) (k b : Nat) : Bool :=
  s.bindings.any fun e =>
    quantOfCore s (e.1 / 4) == k &&
      (spansMeet e.2.feedBase e.2.feedCount (b * 256) 256 ||
        (e.2.scaleMode == channelStatic &&
          (match Tbl.get? s.streams e.2.stream with
          | some x => x.state == stRunning &&
              (match x.desc with
              | some d => d.op == 3 && spansMeet e.2.regBase (dimAt d 0).extent (b * 256) 256
              | none => false)
          | none => false)))

def releaseFlds (s : State) (j : Nat) : List (Nat → List Fld) :=
  loadHead (fun v => v == 1)
    (fun b => blocksNamed s j b && (wholly (fld b 44 12) (fld b 59 13)).all fun k => !regsUsed s (fld b 32 5) k)
    (fun _ _ => true)

def freeBlock (q : Quantiser) (b : Nat) : Quantiser :=
  { q with blocks := Tbl.del q.blocks b, scales := q.scales.filter fun e => e.1 / 256 != b }

def releaseScales (c : Cmd) (s : State) : State × Reply :=
  let k := fld c.body 32 5
  let l := (wholly (fld c.body 44 12) (fld c.body 59 13)).filter fun b => Tbl.has (quantAt s k).blocks b
  (setQuant k (fun q => l.foldl freeBlock q) s, okWith 8 l.length)

def specScaleRelease : CmdSpec :=
  { op := 0x0502, hw := false, sel := fun b => fld b 40 2 == 1, flds := releaseFlds, act := releaseScales }

/-- SCALE_LOAD with ACTION RELEASE (R361). -/
def execScaleLoadRelease (m : Fin 8) (s : State) : Host.Outcome State Fault Refusal := .next (runCmd specScaleRelease m s)

/-! QNT_STATS and QNT_THRESHOLD (R370 to R372). -/

def chanStatsOf (s : State) (k : Nat) : Nat := ((Tbl.get? s.bindings k).map Binding.chanStats).getD 0

def statsFlds (s : State) (j : Nat) : List (Nat → List Fld) :=
  [fun _ => [
    rsvd 1 100 28,
    chkB 2 72 28 fun b v =>
      if fld b 65 1 = 0 then .ok
      else refuseUnless (v % 64 == 0 && inAllocs s j v (4 * chanStatsOf s (bodyKey b)) &&
        decide (v + 4 * chanStatsOf s (bodyKey b) ≤ mereSize)),
    rsvd 3 66 6,
    rsvd 6 12 52,
    chkB 7 0 12 fun b _ => refuseUnless (bindingOk s j (bodyKey b))]]

def statsOf (b : Binding) : Nat :=
  pack [(64, b.rows), (64, b.elements), (64, b.saturated), (64, b.nonfinite), (64, b.sideBytes), (64, b.scaleEntries),
    (32, b.lastAbs.toNat), (32, 0)]

def clearStats (b : Binding) : Binding :=
  { b with rows := 0, elements := 0, saturated := 0, nonfinite := 0, sideBytes := 0, scaleEntries := 0, lastAbs := 0, chan := [],
           window := 0 }

def chanBytes (b : Binding) : List Byte := (List.range b.chanStats).flatMap fun c => natToBytes 4 (Tbl.getD b.chan c 0).toNat

/-- Hexob writes bytes to the Mere, whole words. -/
def putMere (a : Nat) (l : List Byte) (s : State) : State :=
  { s with mem := { s.mem with
      mere := zeroPutAll s.mem.mere a l
      mereBad := s.mem.mereBad.filter fun w => !(decide (a / 4 ≤ w ∧ w * 4 < a + l.length)) } }

def readStats (c : Cmd) (s : State) : State × Reply :=
  match Tbl.get? s.bindings (bodyKey c.body) with
  | none => (s, okEmpty)
  | some b =>
    let a := fld c.body 72 28
    let s1 := if fld c.body 65 1 = 1 then mirrorWrite (.mereWrite a (chanBytes b)) (putMere a (chanBytes b) s) else s
    (if fld c.body 64 1 = 1 then { s1 with bindings := Tbl.put s1.bindings (bodyKey c.body) (clearStats b) } else s1,
      okWith 56 (statsOf b))

def specQntStats : CmdSpec := { op := 0x0503, hw := false, sel := fun _ => true, flds := statsFlds, act := readStats }

/-- QNT_STATS (R370, R371). -/
def execQntStats (m : Fin 8) (s : State) : Host.Outcome State Fault Refusal := .next (runCmd specQntStats m s)

def setThreshold (c : Cmd) (s : State) : State :=
  { s with bindings := Tbl.upd s.bindings (bodyKey c.body) fun b => { b with threshold := fld c.body 32 32, window := 0 } }

def specQntThreshold : CmdSpec :=
  { op := 0x0504, hw := false, sel := fun _ => true,
    flds := fun s j => [fun _ => [rsvd 2 12 20, chkB 3 0 12 fun b _ => refuseUnless (bindingOk s j (bodyKey b))]],
    act := fun c s => (setThreshold c s, okEmpty) }

/-- QNT_THRESHOLD (R372). -/
def execQntThreshold (m : Fin 8) (s : State) : Host.Outcome State Fault Refusal := .next (runCmd specQntThreshold m s)

end Sys2Proof.Machine
end

