-- ==== Sys2Proof/Machine/QuantRows.lean ====
section
/-! DEFINITION. QUANT_OUT: the checks of an entry, the mapping of its rows to codes, and its tiles (11_quantisation.md,
R347 to R370). -/

namespace Sys2Proof.Machine

/-! The extension granule (R349). -/

def qRowScale (d : Desc) : Nat := fld d.ext.toNat 0 28
def qSide (d : Desc) : Nat := fld d.ext.toNat 64 28
def qRowOff (d : Desc) : Nat := fld d.ext.toNat 96 16
def qFeed (d : Desc) : Bool := fld d.ext.toNat 120 1 == 1
def qResetHist (d : Desc) : Bool := fld d.ext.toNat 121 1 == 1
def qCount (d : Desc) : Nat := fld d.ext.toNat 124 4
def qChannel (d : Desc) (j : Nat) : Nat := fld d.ext.toNat (128 + 16 * j) 16
def qChannels (d : Desc) : List Nat := (List.range (qCount d)).map (qChannel d)

def qReserved (d : Desc) : Bool :=
  let x := d.ext.toNat
  fld x 28 36 != 0 || fld x 92 4 != 0 || fld x 112 8 != 0 || fld x 122 2 != 0

def qSource (d : Desc) : Nat := bindKey (coreOf d.srcAddr) (engineOf d.srcAddr)

/-- E[0], and the number of interior rows. -/
def rowElems (d : Desc) : Nat := (dimAt d 0).extent
def rowCount (d : Desc) : Nat := (((dimsOf d).drop 1).map (inner d)).foldl (· * ·) 1

/-- Types with a scale (R351). -/
def scaledType (t : Nat) : Bool := decide (3 ≤ t ∧ t ≤ 9)
def floatOut (t : Nat) : Bool := (fpOf t).isSome

def distinct : List Nat → Bool
  | [] => true
  | x :: xs => !xs.contains x && distinct xs

/-- The checks of R350 after the binding's own. -/
def boundFault (s : State) (job : Nat) (d : Desc) (b : Binding) : Option Nat :=
  if (!([0, 1, 2] : List Nat).contains d.srcType || d.dstType == 10 || d.dstType == 11 || (scaledType d.dstType && b.scaleMode == 2) ||
      (b.scaleMode == channelStatic && (d.dstType == 6 || d.dstType == 8))) then some stTypeUnsup
  else if ((d.dims.any fun x => x.start != 0 || x.srcStride != 0 || x.srcLimit != 0) || (dimAt d 0).dstStride != 1 ||
      d.mode != 0 || d.gather || d.transpose) then some stMalformed
  else if (!distinct (qChannels d) || (qChannels d).any fun c => decide (rowElems d ≤ c)) then some stMalformed
  else if b.scaleMode = rowDynamic ∧ b.maxRows < qRowOff d + rowCount d then some stMalformed
  else if b.scaleMode = channelStatic ∧ (4096 < b.regBase + rowElems d ∨
      !ownsRegs s (quantOfCore s (coreOf d.srcAddr)) job b.regBase (rowElems d)) then some stMalformed
  else if (b.scaleMode == rowDynamic && scaledType d.dstType &&
      (qRowScale d % 8 != 0 || decide (mereSize < qRowScale d + 8 * rowCount d) || !inAllocs s job (qRowScale d) (8 * rowCount d))) then
    some stMalformed
  else if (qCount d != 0 && (qSide d % 2 != 0 || decide (mereSize < qSide d + 2 * qCount d * rowCount d) ||
      !inAllocs s job (qSide d) (2 * qCount d * rowCount d))) then some stMalformed
  else none

/-- The checks of R350, in order. -/
def quantFault (s : State) (job stream : Nat) (d : Desc) : Option Nat :=
  if qReserved d || 8 < qCount d || ((List.range 8).any fun j => decide (qCount d ≤ j) && qChannel d j != 0) then some stMalformed
  else
    match (Tbl.get? s.bindings (qSource d)).filter fun b => b.stream == stream with
    | none => some stMalformed
    | some b => boundFault s job d b

/-! Numbers (R352 to R357). -/

/-- `m × 2 ^ e ÷ n`, held with more bits than FP32 keeps and a sticky bit, so that one rounding of it is exact. -/
def quotient (m n : Nat) (e : Int) : Num :=
  let k := 80 + Nat.log2 n
  .fin false (2 * (m * 2 ^ k / n) + b2n (m * 2 ^ k % n != 0)) (e - k - 1)

/-- rne of a quotient of positive numbers, as FP32. -/
def divRne (a b : Num) : Nat :=
  match a, b with
  | .fin _ m e, .fin _ n f => fp32.write .nearest (quotient m n (e - f))
  | _, _ => 0

def numOfNat (n : Nat) : Num := .fin false n 0

/-- D of R351: by type and sign flag. -/
def divisor (t : Nat) (nonneg : Bool) : Num :=
  match fpOf t with
  | some f => f.read f.maxCode
  | none => numOfNat (if nonneg then 2 ^ typeBits t - 1 else 2 ^ (typeBits t - 1) - 1)

/-- Zero point of R351. -/
def zeroPoint (t : Nat) (nonneg : Bool) : Int :=
  if floatOut t then 0
  else if typeSigned t then (if nonneg then intMin t else 0)
  else (if nonneg then 0 else (2 ^ (typeBits t - 1) : Nat))

def tieRound (b : Binding) : Round := if b.ties then .nearestSat else .away

/-- A code and whether it was clamped. -/
structure Coded where
  code : Nat
  sat : Bool
deriving DecidableEq, Repr

/-- An exact value as an integer code: rounded, moved by the zero point, clamped. -/
def intCode (t : Nat) (r : Round) (zp lo hi : Int) (v : Num) : Coded :=
  match v with
  | .nan => { code := ofSigned (typeBits t) zp, sat := false }
  | .inf neg => { code := ofSigned (typeBits t) (if neg then lo else hi), sat := true }
  | .fin neg m e =>
    let x := signedM neg (roundAt r m e 0) + zp
    { code := ofSigned (typeBits t) (max lo (min x hi)), sat := decide (x < lo ∨ hi < x) }

/-- An exact value as a float code (R352 to R355); `passed` keeps infinities. -/
def fpCode (f : Fp) (r : Round) (passed : Bool) (v : Num) : Coded :=
  match v with
  | .nan => { code := f.write .nearest .nan, sat := false }
  | .inf neg => if passed then { code := f.write .nearest (.inf neg), sat := false } else { code := withSign f neg f.maxCode, sat := true }
  | .fin _ m e => { code := f.write r v, sat := decide (m ≠ 0 ∧ f.maxCode < f.code r m e) }

/-- The code of 0.0 in the main tensor (R358). -/
def zeroCode (t : Nat) (zp : Int) : Nat := if floatOut t then 0 else ofSigned (typeBits t) zp

/-- The code of a value under reciprocal `r` (R352, R353). -/
def scaledCode (b : Binding) (t : Nat) (static nonneg : Bool) (recip : Nat) (x : Num) : Coded :=
  let v := x.mul (fp32.read recip)
  match fpOf t with
  | some f => fpCode f (tieRound b) false v
  | none =>
    if static then intCode t (tieRound b) 0 (-(intMax t)) (intMax t) v
    else intCode t (tieRound b) (zeroPoint t nonneg) (intMin t) (intMax t) v

def passedCode (b : Binding) (t : Nat) (x : Num) : Coded :=
  match fpOf t with
  | some f => fpCode f (tieRound b) true x
  | none => { code := 0, sat := false }

/-- The side-tensor value of an outlier (R358). -/
def sideCode (b : Binding) (x : Num) : Nat :=
  match x with
  | .fin _ _ _ => bf16.write (tieRound b) x
  | _ => bf16.write .nearest x

/-- A value as FP32, and its magnitude (R356). -/
def asFp32 (srcType code : Nat) : Nat := castElem srcType 0 0 code
def magnitude (code : Nat) : Nat := fld code 0 31
def finite32 (code : Nat) : Bool := decide (magnitude code < 0x7F800000)

/-! Rows (R356). -/

def rowSlots (b : Binding) (row : Nat) : List (Word32 × Bool) := Tbl.getD b.hist row []

def maxMag (l : List (Word32 × Bool)) : Nat := l.foldl (fun m x => max m x.1.toNat) 0

/-- The running maximum, sign flag and seed of a row as it starts; `blind` takes its slots as empty (R476). -/
def startRow (b : Binding) (row : Nat) (history blind : Bool) : RowAcc :=
  let l := if blind then [] else rowSlots b row
  let a := if l.isEmpty then b.initAbs.toNat else max (maxMag l) b.minAbs.toNat
  { row := row, elems := 0, absmax := 0, any := false, neg := false, sat := false, saturated := 0, nonfinite := 0, chan := [], side := [],
    a := BitVec.ofNat 32 (if history then a else 0), nonneg := history && !l.isEmpty && l.all fun x => !x.2,
    seeded := history && l.isEmpty }

/-- Fills the row's slot; the oldest goes once all are filled. -/
def fillHistory (r : RowAcc) (b : Binding) : Binding :=
  let l := rowSlots b r.row ++ [(r.absmax, r.neg)]
  { b with hist := Tbl.put b.hist r.row (l.drop (l.length - b.history)) }

/-- Empties the slots of an entry's rows (R356). -/
def emptyHistory (first n : Nat) (b : Binding) : Binding :=
  { b with hist := b.hist.filter fun e => !decide (first ≤ e.1 ∧ e.1 < first + n) }

/-! One tile. -/

/-- What quantising has produced so far; codes latest first. -/
structure Run where
  st : State
  bind : Binding
  codes : List (Nat × Nat)
  side : List Host.Cell
deriving DecidableEq, Repr

/-- Interior row of a point, and its channel (R350). -/
def rowIndex (d : Desc) (u : List Nat) : List Nat → Nat
  | [] => 0
  | k :: ks => (u.getD k 0 - (dimAt d k).padBefore) + inner d k * rowIndex d u ks

def interiorRow (d : Desc) (u : List Nat) : Nat := rowIndex d u ((dimsOf d).drop 1)
def channelOf (d : Desc) (u : List Nat) : Nat := u.getD 0 0 - (dimAt d 0).padBefore

def histOn (d : Desc) (b : Binding) : Bool := b.scaleMode == rowDynamic && scaledType d.dstType

def histSite (k row : Nat) : EccSite := soundSite 0x0C k row 1 (islQuantiser k) 0 0 [0x0F]

/-- A row starts: RESET_HISTORY before the entry's first row, then the history is read (R356, R476). -/
def beginRow (env : Env) (k : Nat) (d : Desc) (i : Nat) (r : Run) : Run :=
  let row := qRowOff d + i
  let b := if i = 0 ∧ qResetHist d then emptyHistory (qRowOff d) (rowCount d) r.bind else r.bind
  if !histOn d b then { r with bind := { b with acc := some (startRow b row false false) } }
  else
    let x := histSite k row
    { r with st := soundRead env x r.st, bind := { b with acc := some (startRow b row true (badRead env x r.st)) } }

def putCells (l : List Host.Cell) (a : Nat) : List Byte → List Host.Cell
  | [] => l
  | b :: bs => putCells (cellPut l a b) (a + 1) bs

/-- Channel maxima of a row join those of the binding. -/
def mergeChan (l : Tbl Word32) (t : Tbl Word32) : Tbl Word32 :=
  l.foldl (fun u e => Tbl.put u e.1 (BitVec.ofNat 32 (max e.2.toNat (Tbl.getD u e.1 0).toNat))) t

/-- The binding once a row has ended: its slot is filled and its statistics are counted (R356, R367, R370). -/
def countRow (d : Desc) (a : RowAcc) (b : Binding) : Binding :=
  let on := histOn d b
  let y := if on then fillHistory a b else b
  { y with rows := y.rows + 1, elements := y.elements + a.elems, saturated := y.saturated + a.saturated, nonfinite := y.nonfinite + a.nonfinite,
           sideBytes := y.sideBytes + 2 * qCount d, scaleEntries := y.scaleEntries + b2n on, lastAbs := a.absmax,
           chan := mergeChan a.chan y.chan, acc := none }

/-- A row has ended: it is counted, and its side bytes and its row-scale entry go with this tile (R359, R366). -/
def finishRow (d : Desc) (i : Nat) (r : Run) : Run :=
  match r.bind.acc with
  | none => r
  | some a =>
    let scale := divRne (fp32.read a.a.toNat) (divisor d.dstType a.nonneg)
    let ent := pack [(32, scale), (16, ofSigned 16 (zeroPoint d.dstType a.nonneg)), (1, b2n a.nonneg), (1, b2n a.sat), (1, b2n a.seeded), (13, 0)]
    let side := a.side.foldl (fun l c => cellPut l c.1 c.2) r.side
    { r with bind := countRow d a r.bind, side := if histOn d r.bind then putCells side (qRowScale d + 8 * i) (natToBytes 8 ent) else side }

/-- QNT_SATURATION (R373). -/
def satRec (s : State) (k key : Nat) (b : Binding) (a : RowAcc) (scale x : Nat) (abs : Nat) : PeatRec :=
  mkRec s 0x050 1 (islQuantiser k) [k, key / 4, key % 4]
    [pack [(16, a.row), (3, 0), (2, key % 4), (10, key / 4), (5, k), (8, b.gen), (20, b.stream)],
      pack [(32, scale), (32, b.threshold)], pack [(32, x), (32, abs)]]

/-- A saturation: counted, and the window may cross its threshold (R372). -/
def saturateOnce (k key : Nat) (a : RowAcc) (scale x abs : Nat) (needs : Option Nat) (r : Run) : Run :=
  let b := { r.bind with acc := some { a with saturated := a.saturated + 1 } }
  let st := bump 4 k 1 1 r.st
  if b.threshold != 0 && decide (b.threshold ≤ b.window + 1) then
    { r with st := setCause 3 k (offer needs (satRec st k key b a scale x abs) st), bind := { b with window := 0 } }
  else { r with st := st, bind := { b with window := b.window + 1 } }

/-- The row counts an element of channel `c`: it, a value that is not finite, and the channel's maximum (R370). -/
def noteElem (chans c x : Nat) (a : RowAcc) : RowAcc :=
  { a with
    elems := a.elems + 1
    nonfinite := a.nonfinite + b2n (!finite32 x)
    chan := if c < chans ∧ finite32 x then Tbl.put a.chan c (BitVec.ofNat 32 (max (magnitude x) (Tbl.getD a.chan c 0).toNat)) else a.chan }

/-- The row's maximum and sign take a finite element that is no outlier (R355, R356). -/
def noteMax (x : Nat) (sat : Bool) (a : RowAcc) : RowAcc :=
  if finite32 x then
    { a with absmax := BitVec.ofNat 32 (max (magnitude x) a.absmax.toNat), any := true,
             neg := a.neg || (fld x 31 1 == 1 && magnitude x != 0), sat := a.sat || sat }
  else { a with sat := a.sat || sat }

/-- The scale of an element and the reciprocal it is multiplied by. -/
def elemScale (d : Desc) (static : Bool) (regs : List Nat) (c : Nat) (a : RowAcc) : Nat × Nat :=
  if static then (regs.getD c 0, divRne (numOfNat 1) (fp32.read (regs.getD c 0)))
  else (divRne (fp32.read a.a.toNat) (divisor d.dstType a.nonneg), divRne (divisor d.dstType a.nonneg) (fp32.read a.a.toNat))

/-- Quantises one interior element (R352 to R358); point 0x0025 clamps an element of a scaled type to qmax. -/
def quantElem (k key : Nat) (d : Desc) (regs : List Nat) (n i c : Nat) (outlier : Option Nat) (raw : Nat) (r : Run) : Run :=
  match r.bind.acc with
  | none => r
  | some a0 =>
    let b := r.bind
    let x := readNum d.srcType raw
    let x32 := asFp32 d.srcType raw
    let a := noteElem b.chanStats c x32 a0
    let static := b.scaleMode == channelStatic
    let scaled := scaledType d.dstType
    let st1 := bump 4 k 2 (b2n (!finite32 x32)) (bump 4 k 0 1 r.st)
    match outlier with
    | some j =>
      let zp := if static then 0 else zeroPoint d.dstType a.nonneg
      { r with st := st1, codes := (n, zeroCode d.dstType zp) :: r.codes,
               bind := { b with acc := some { a with side := putCells a.side (qSide d + 2 * qCount d * i + 2 * j) (natToBytes 2 (sideCode b x)) } } }
    | none =>
      let sc := elemScale d static regs c a
      let forced := scaled && (injFires st1 [0x25] k).isSome
      let needs := if forced then injNeeds [0x25] k 1 (islQuantiser k) st1 else none
      let st2 := if scaled then injEvent [0x25] k 1 (islQuantiser k) st1 else st1
      let top := match fpOf d.dstType with
        | some f => f.maxCode
        | none => ofSigned (typeBits d.dstType) (intMax d.dstType)
      let q := if forced then { code := top, sat := true }
        else if scaled then scaledCode b d.dstType static a.nonneg sc.2 x
        else passedCode b d.dstType x
      let a2 := noteMax x32 q.sat a
      let r2 : Run := { r with st := st2, bind := { b with acc := some a2 }, codes := (n, q.code) :: r.codes }
      if q.sat then saturateOnce k key a2 (if scaled then sc.1 else 0) x32 (if scaled && !static then a.a.toNat else 0) needs r2 else r2

/-- Takes the bytes of one element from the held stream (R347). -/
def takeHeld : Nat → List (Nat × Nat) → List (Nat × Nat)
  | _, [] => []
  | n, (stamp, x) :: xs => if n < x then (stamp, x - n) :: xs else takeHeld (n - x) xs

def consume (n : Nat) (b : Binding) : Nat × Binding :=
  (bytesToNat (b.held.take n), { b with held := b.held.drop n, heldBeats := takeHeld n b.heldBeats })

/-- Elements of a tile in order, as far as bytes are held: interior ones are consumed, pads are FILL. -/
def quantElems (env : Env) (k key : Nat) (d : Desc) (regs : List Nat) : List Elem → Run → Run
  | [], r => r
  | e :: es, r =>
    let u := coords d e.n
    if isInner d u then
      if r.bind.held.length < elemBytes (srcBits d) then r
      else
        let i := interiorRow d u
        let c := channelOf d u
        let r1 := if c = 0 then beginRow env k d i r else r
        let t := consume (elemBytes (srcBits d)) r1.bind
        let r2 := quantElem k key d regs e.n i c ((qChannels d).findIdx? fun x => x == c) t.1 { r1 with bind := t.2 }
        quantElems env k key d regs es (if c + 1 = rowElems d then finishRow d i r2 else r2)
    else quantElems env k key d regs es { r with codes := (e.n, fld d.fill 0 (dstBits d)) :: r.codes }

def tileElems (d : Desc) (t : Tile) : List Elem := runElems d (fun _ => 0) t.segs

/-! Scale registers of a tile (R353, R362, R368). -/

def tileChannels (d : Desc) (t : Tile) : List Nat :=
  dedupe (((tileElems d t).filter fun e => isInner d (coords d e.n)).map fun e => channelOf d (coords d e.n))

def regValid (v : Nat) : Bool := decide (0x00800000 ≤ v ∧ v < 0x7F800000)

def scaleSite (k r : Nat) : EccSite := soundSite 0x0B k r 1 (islQuantiser k) 0 0 [0x0E]

/-- A read of the registers watches point 0x000E only where its register is among them. -/
def scalesWatched (s : State) (k : Nat) (l : List Nat) : Option Nat :=
  (s.inject.find? fun a => a.point == 0x0E && a.unit == k && l.contains (fld a.arg.toNat 16 12)).map fun a => fld a.arg.toNat 16 12

structure Regs where
  st : State
  bad : Option Nat
deriving DecidableEq, Repr

/-- Reads registers: the state after, and a register whose word was uncorrectable. -/
def readRegs (env : Env) (k : Nat) (l : List Nat) (s : State) : Regs :=
  let other := l.find? fun r => !(envFlips env 0x0B k r).isEmpty
  match scalesWatched s k l with
  | some r =>
    { st := soundRead .quiet (scaleSite k r) s, bad := if badRead .quiet (scaleSite k r) s then some r else none }
  | none =>
    match other with
    | some r =>
      let x := { scaleSite k r with points := [] }
      { st := soundRead env x s, bad := if badRead env x s then some r else none }
    | none => { st := s, bad := none }

/-! QNT_TILE. -/

/-- Puts a replay buffer of a tile, in place of the tile's own. -/
def putReplay (k : Nat) (p : Replay) (s : State) : State :=
  setQuant k (fun q => { q with replay := (q.replay.filter fun r => !(r.stream == p.stream && r.tile == p.tile)) ++ [p] }) s

def bufferSite (k : Nat) : EccSite := soundSite 0x0A k 0 1024 (islQuantiser k) 0 0 [0x0D]

/-- Quantises what is held of a tile into its replay buffer; a bad buffer disables the stream once the tile is there (R476). -/
def fillTile (env : Env) (k : Nat) (x : Slot) (t : Tile) (b : Binding) (p : Replay) (s : State) : State :=
  let key := qSource x.desc
  let es := tileElems x.desc t
  let r := quantElems env k key x.desc p.regs (es.drop p.done) { st := s, bind := b, codes := [], side := p.side }
  let done := p.done + r.codes.length
  let s1 := putReplay k { p with done := done, main := p.main ++ r.codes.reverse, side := r.side }
    { r.st with bindings := Tbl.put r.st.bindings key r.bind }
  if done < es.length then s1
  else if badRead env (bufferSite k) s1 then disableStream x.stream (soundRead env (bufferSite k) s1)
  else soundRead env (bufferSite k) s1

/-- The registers of a CHANNEL_STATIC tile, valid or not (R353, R368). -/
def tileRegs (d : Desc) (b : Binding) (t : Tile) : List Nat :=
  if b.scaleMode = channelStatic ∧ scaledType d.dstType then (tileChannels d t).map fun c => b.regBase + c else []

/-- The registers by channel, as the tile sees them (R362). -/
def regsAt (s : State) (k : Nat) (b : Binding) (n : Nat) : List Nat := (List.range n).map fun c => regAt (quantAt s k) (b.regBase + c)

def scaleFailure : Failure := { status := stScaleInvalid, addr := 0, write := false, seq := 0, detail := 0, needs := none }

/-- Starts a tile: registers are checked before a byte is consumed. -/
def startQuant (env : Env) (k : Nat) (x : Slot) (t : Tile) (b : Binding) (s : State) : State :=
  let l := tileRegs x.desc b t
  let g := readRegs env k l s
  if g.bad.isSome || l.any fun r => !regValid (regAt (quantAt s k) r) then haltStream x.stream scaleFailure false none g.st
  else fillTile env k x t b { stream := x.stream, tile := t.num, done := 0, regs := regsAt g.st k b (rowElems x.desc), main := [], side := [] } g.st

/-- A QUANT_OUT slot whose tile may go to its quantiser. -/
def quantReady (s : State) (x : Slot) (t : Tile) : Bool :=
  x.desc.op == 3 && t.translated && !x.release && x.failing.isNone && runningCtx s x.stream && fnTakes s .mere

/-- Something of the tile can be quantised now: an element is held, or only pads are left, and a buffer is there or free. -/
def quantWork (s : State) (k : Nat) (x : Slot) (t : Tile) (b : Binding) : Bool :=
  let rest := (tileElems x.desc t).drop (((replayOf s k x.stream t.num).map Replay.done).getD 0)
  !rest.isEmpty && (decide (elemBytes (srcBits x.desc) ≤ b.held.length) || rest.all fun e => !isInner x.desc (coords x.desc e.n))

def bufferFree (s : State) (k : Nat) (x : Slot) (t : Tile) : Bool :=
  (replayOf s k x.stream t.num).isSome || decide ((quantAt s k).replay.length < 8)

/-- The slot and tile in which a binding's stream runs. -/
def boundTile (s : State) (b : Binding) : Option (Slot × Tile) :=
  (((Tbl.get? s.streams b.stream).bind Stream.slot).bind fun n => Tbl.get? s.slots n).bind fun x => x.cur.map fun t => (x, t)

/-- The oldest beat that a binding holds, in the order of arrival. -/
def oldestBeat (b : Binding) : Option Nat := b.heldBeats.head?.map Prod.fst

/-- No other source of the quantiser that could go on has bytes that came before: rows go in the order of arrival (R21). -/
def quantTurn (s : State) (k : Nat) (b : Binding) : Bool :=
  (oldestBeat b).all fun n => (bindingsOf s k).all fun c =>
    !((oldestBeat c).any (fun m => decide (m < n)) &&
      (boundTile s c).any fun y => quantReady s y.1 y.2 && quantWork s k y.1 y.2 c && bufferFree s k y.1 y.2)

def tryQuant (env : Env) (k : Nat) (x : Slot) (t : Tile) (b : Binding) (s : State) : State :=
  if !quantWork s k x t b then s
  else
    match replayOf s k x.stream t.num with
    | some p => if quantTurn s k b then fillTile env k x t b p s else s
    | none =>
      if !bufferFree s k x t then bump 4 k 5 1 s
      else if quantTurn s k b then startQuant env k x t b s
      else s

/-- QNT_TILE (R21, R347, R352 to R359, R366 to R368). -/
def execQntTile (slot : Fin 3072) (env : Env) (s : State) : Host.Outcome State Fault Refusal :=
  .next (match (Tbl.get? s.slots slot.val).bind fun x => x.cur.map fun t => (x, t) with
    | some (x, t) =>
      let k := quantOfDesc s x.desc
      (match Tbl.get? s.bindings (qSource x.desc) with
      | some b =>
        if inService s && fnTakes s (moverFn (slotMover slot.val)) && fnTakes s (quantFn k) && quantReady s x t then
          tryQuant env k x t b s
        else s
      | none => s)
    | none => s)

end Sys2Proof.Machine
end

