-- ==== Sys2Proof/Machine/Hrp.lean ====
section
/-! DEFINITION. The host register port: its map, the writes and the reads that change state
(02_ports.md, 04_mailboxes.md, 05_rings.md, 15_errors_peat.md). -/

namespace Sys2Proof.Machine

/-! Responses (R61 to R64). -/

def hrpOk : Nat := 0
def hrpAbsent : Nat := 1
def hrpDecode : Nat := 2

/-- HRP_REQ_READY for a request: fewer than 32 outstanding, and none under its tag (R62). -/
def hrpTakes (s : State) (tag : BitVec 5) : Bool :=
  decide (s.hrp.rsp.length < 32) && !(s.hrp.rsp.any fun r => r.tag == tag)

/-- The host holds the request at the port, behind those it holds already. -/
def holdRequest (c : Instr) (s : State) : State := { s with hrp := { s.hrp with waiting := s.hrp.waiting ++ [c] } }

/-- The one response of a request (R61). -/
def answer (tag : BitVec 5) (status : Nat) (rdata : Nat) (s : State) : State :=
  { s with hrp := { s.hrp with rsp := s.hrp.rsp ++ [{ tag := tag, rdata := BitVec.ofNat 64 rdata, status := BitVec.ofNat 2 status }] } }

/-- DECODE_ERROR, counted in HRP_DECODE_ERRORS (R63, R498). -/
def answerDecode (tag : BitVec 5) (s : State) : State := answer tag hrpDecode 0 (bump 0 0 4 1 s)

/-- A request `c`: held at the port, answered by the shell, or served (R62, R64). -/
def hrpRequest (c : Instr) (tag : BitVec 5) (serve : State → State) (s : State) : State :=
  if !hrpTakes s tag || !s.hrp.waiting.isEmpty then holdRequest c s
  else if hrpOpen s then serve s
  else answer tag hrpAbsent 0 s

/-- HRP_NOT_PRESENT: the shell answers while the page is closed (R64). -/
def execHrpNotPresent (tag : BitVec 5) (write : Bool) (s : State) : Host.Outcome State Fault Refusal :=
  .next (if hrpOpen s then s else hrpRequest (.hrpNotPresent tag write) tag id s)

/-! The map (R114, R122, R161, R169, R477, R480). -/

/-- Where an 8-byte word of the HRP lies. -/
inductive HrpAt where
  | readOnly
  | irqMask
  | mboxGo (m : Nat)
  | mboxStatus (m : Nat)
  | mboxCmd (m : Nat) (w : Nat)
  /-- Response area, ring status, Peat window: a write is ignored and answered OK. -/
  | quiet
  | bell (r : Nat)
  | ringDone (i : Nat)
  | ringErr (i : Nat)
  | groupCause (g : Nat)
  | groupEnable (g : Nat)
  | groupVector (g : Nat)
  | outside
deriving DecidableEq, Repr

/-- A word of the cause registers, from 0x1000 (R477). -/
def causeMap (w : Nat) : HrpAt :=
  if w < 64 then .ringDone w
  else if w < 128 then .ringErr (w - 64)
  else if w < 158 then
    (if (w - 128) % 3 = 0 then .groupCause ((w - 128) / 3)
    else if (w - 128) % 3 = 1 then .groupEnable ((w - 128) / 3)
    else .groupVector ((w - 128) / 3))
  else .outside

/-- A word of a mailbox area (R122). -/
def areaMap (m w : Nat) : HrpAt := if w < 32 then .mboxCmd m w else if w < 64 then .quiet else .outside

def hrpMap (addr : BitVec 21) : HrpAt :=
  let w := addr.toNat
  if w < 5 then .readOnly
  else if w = 8 then .readOnly
  else if w = 9 then .irqMask
  else if 32 ≤ w ∧ w < 40 then .mboxGo (w - 32)
  else if 40 ≤ w ∧ w < 48 then .mboxStatus (w - 40)
  else if 0x200 ≤ w ∧ w < 0x400 then causeMap (w - 0x200)
  else if 0x2000 ≤ w ∧ w < 0x3000 then areaMap ((w - 0x2000) / 512) (w % 512)
  else if 0x4000 ≤ w ∧ w < 0x5000 then .bell (w - 0x4000)
  else if 0x8000 ≤ w ∧ w < 0xA000 then .quiet
  else if 0x20000 ≤ w ∧ w < 0x40000 then .quiet
  else .outside

def fullBe (be : BitVec 8) : Bool := be == 0xFF

/-- A full-width write, or DECODE_ERROR (R63). -/
def regWrite (tag : BitVec 5) (be : BitVec 8) (f : State → State) (s : State) : State :=
  if fullBe be then f (answer tag hrpOk 0 s) else answerDecode tag s

def setMask (data : Word64) (s : State) : State := { s with irq := { s.irq with mask := data } }

def setEnable (g : Nat) (data : Word64) (s : State) : State :=
  { s with irq := { s.irq with groups := updAt s.irq.groups g fun c => { c with enable := data } } }

/-- A write of 0 to 7 leaves VECTOR unchanged (R478). -/
def setVector (g : Nat) (data : Word64) (s : State) : State :=
  if fld data.toNat 0 6 < 8 then s
  else
    let f := fun (c : CauseGroup) => { c with vector := BitVec.ofNat 6 data.toNat }
    { s with irq := { s.irq with groups := updAt s.irq.groups g f } }

def writeArea (m w : Nat) (be : BitVec 8) (data : Word64) (s : State) : State :=
  { s with mbox := updAt s.mbox m fun b => writeCmdWord b w be data }

/-- MBOX_CMD_AREA_WRITE: always answered OK (R122, R125). -/
def execMboxCmdAreaWrite (tag : BitVec 5) (m : Fin 8) (w : Fin 32) (be : BitVec 8) (data : Word64) (s : State) :
    Host.Outcome State Fault Refusal :=
  .next (hrpRequest (.mboxCmdAreaWrite tag m w be data) tag (fun t => answer tag hrpOk 0 (writeArea m.val w.val be data t)) s)

def ackBox (m : Nat) (data : Word64) (s : State) : State :=
  { s with mbox := updAt s.mbox m fun b => ackDone b data }

/-- MBOX_DONE_ACK (R124, R125). -/
def execMboxDoneAck (tag : BitVec 5) (m : Fin 8) (be : BitVec 8) (data : Word64) (s : State) :
    Host.Outcome State Fault Refusal :=
  .next (hrpRequest (.mboxDoneAck tag m be data) tag (regWrite tag be (ackBox m.val data)) s)

/-- W1C of a cause register (R477, R478). -/
def clearCause (at' : HrpAt) (data : Word64) (s : State) : State :=
  match at' with
  | .ringDone i =>
    let v := Tbl.getD s.irq.ringDone i 0 &&& ~~~data
    { s with irq := { s.irq with ringDone := Tbl.put s.irq.ringDone i v } }
  | .ringErr i =>
    let v := Tbl.getD s.irq.ringErr i 0 &&& ~~~data
    { s with irq := { s.irq with ringErr := Tbl.put s.irq.ringErr i v } }
  | .groupCause g =>
    let f := fun (c : CauseGroup) => { c with cause := c.cause &&& ~~~data }
    { s with irq := { s.irq with groups := updAt s.irq.groups g f } }
  | _ => s

def isCause (at' : HrpAt) : Bool :=
  match at' with
  | .ringDone _ => true
  | .ringErr _ => true
  | .groupCause _ => true
  | _ => false

/-- CAUSE_CLEAR (R477, R478). -/
def execCauseClear (tag : BitVec 5) (addr : BitVec 21) (be : BitVec 8) (data : Word64) (s : State) :
    Host.Outcome State Fault Refusal :=
  .next (if isCause (hrpMap addr) then hrpRequest (.causeClear tag addr be data) tag (regWrite tag be (clearCause (hrpMap addr) data)) s else s)

/-! Ring status pages (R169 to R171). -/

/-- A status read clears the RC field of the word read. -/
def clearRc (word : Bool) (r : Ring) : Ring := if word then { r with badBells := 0 } else { r with lastError := 0 }

def readStatus (tag : BitVec 5) (r : Nat) (word : Bool) (s : State) : State :=
  answer tag hrpOk (ringWord s r word) { s with rings := Tbl.upd s.rings r (clearRc word) }

/-- RING_STATUS_READ (R169 to R171). -/
def execRingStatusRead (tag : BitVec 5) (r : Fin 4096) (word : Bool) (s : State) : Host.Outcome State Fault Refusal :=
  .next (hrpRequest (.ringStatusRead tag r word) tag (readStatus tag r.val word) s)

/-! Doorbells (R161 to R164). -/

/-- Difference of extended indices, modulo 2S. -/
def extSub (r : Ring) (a b : Nat) : Nat := (a + 2 * ringSize r - b) % (2 * ringSize r)

/-- Extended index of a written TAIL and WRAP. -/
def bellExt (r : Ring) (v : Nat) : Nat := fld v 16 1 * ringSize r + fld v 0 16

/-- REASON of R494 for a doorbell that fails R162. -/
def bellFault (r : Ring) (v : Nat) : Option Nat :=
  if ringSize r ≤ fld v 0 16 then some 0
  else if ringSize r < extSub r (bellExt r v) r.retire then some 1
  else if extSub r (bellExt r v) r.retire < extSub r (bellExt r v) r.tail then some 2
  else none

/-- BAD_DOORBELL (R494). -/
def bellRec (s : State) (n : Nat) (r : Ring) (v reason : Nat) : PeatRec :=
  mkRec s 0x032 3 islMgmt [n, v]
    [pack [(47, 0), (2, reason), (3, r.state), (12, n)], pack [(32, v), (15, 0), (17, r.tail)]]

def setTail (v : Nat) (r : Ring) : Ring := { r with tail := bellExt r v, reread := true }
def countBad (r : Ring) : Ring := { r with badBells := satAdd 16 r.badBells 1 }

/-- A doorbell is checked against the pointers (R162, R163). -/
def ringBell (n v : Nat) (s : State) : State :=
  match Tbl.get? s.rings n with
  | none => bump 0 0 0 1 s
  | some r =>
    match bellFault r v with
    | none => { s with rings := Tbl.put s.rings n (setTail v r) }
    | some reason =>
      setCause 8 4 (offer none (bellRec s n r v reason) { s with rings := Tbl.put s.rings n (countBad r) })

def jobReleasing (s : State) (j : Nat) : Bool :=
  match Tbl.get? s.jobs j with
  | some x => x.releasing
  | none => false

/-- A doorbell outside the normal case, or an ordinary one (R164). -/
def bellCase (n v : Nat) (s : State) : State :=
  match Tbl.get? s.rings n with
  | none => bump 0 0 0 1 s
  | some r =>
    if r.state = 2 then { s with rings := Tbl.put s.rings n { r with bells := r.bells ++ [BitVec.ofNat 32 v] } }
    else if r.state = 4 || jobReleasing s r.job || (standsBy s && isMirrored s 1 n) then { s with rings := Tbl.put s.rings n (countBad r) }
    else ringBell n v s

/-- A write must enable bytes 3:0; before Boardwalk opens it is answered NOT_PRESENT (R95, R161). -/
def doorbellWrite (tag : BitVec 5) (n : Nat) (be : BitVec 8) (data : Word64) (s : State) : State :=
  if !s.bring.blockReady then answer tag hrpAbsent 0 s
  else if fld be.toNat 0 4 = 15 then answer tag hrpOk 0 (bellCase n (fld data.toNat 0 32) s)
  else answerDecode tag s

/-- DOORBELL (R161 to R164). -/
def execDoorbell (tag : BitVec 5) (r : Fin 4096) (be : BitVec 8) (data : Word64) (s : State) :
    Host.Outcome State Fault Refusal :=
  .next (hrpRequest (.doorbell tag r be data) tag (doorbellWrite tag r.val be data) s)

/-! The Peat window (R480 to R489). -/

/-- Header of a record (R481). -/
def PeatRec.header (r : PeatRec) : Nat :=
  pack [(12, r.typ), (5, 0), (5, 1 + r.body.length), (8, r.island), (2, r.level), (16, r.rep), (16, r.seq)]

/-- Stamp of a record (R483). -/
def PeatRec.stamp (r : PeatRec) : Nat := pack [(32, r.cycles.toNat), (32, r.seq / 65536)]

def PeatRec.words (r : PeatRec) : List Nat := r.header :: r.stamp :: r.body.map BitVec.toNat

/-- PEAT_FULL, the header alone (R487). -/
def fullWord (p : Peat) : Nat :=
  match p.full with
  | some q => pack [(12, 0x0FF), (5, 0), (5, 0), (8, islMgmt), (2, 3), (16, p.fullRep), (16, q)]
  | none => 0

/-- Word `w` of a packed list of records. -/
def packedWord : List PeatRec → Nat → Nat
  | [], _ => 0
  | r :: rs, w => if w < r.words.length then r.words.getD w 0 else packedWord rs (w - r.words.length)

def peatWord (p : Peat) (w : Nat) : Nat := if w = 131071 then fullWord p else packedWord p.records w

def peatSite (copy w : Nat) : EccSite :=
  { site := 0x10, unit := copy, addr := w, words := 2, island := islMgmt, level := 0, reader := 0xB,
    points := [0x14, 0x13], dbe := 0x14 }

/-- One copy of a word is read: corrected words are counted (R488, R498). -/
def readCopy (env : Env) (copy w : Nat) (s : State) : State :=
  let t := eccTrace env (peatSite copy w) [] s
  if (eccLook env (peatSite copy w) [] s).corr.isEmpty then t else bump 0 0 1 1 t

def copyGood (env : Env) (copy w : Nat) (s : State) : Bool := (eccLook env (peatSite copy w) [] s).unc.isEmpty

/-- A read of the window (R480, R488). -/
def readPeat (tag : BitVec 5) (w : Nat) (env : Env) (s : State) : State :=
  if !s.peat.online then answer tag hrpAbsent 0 s
  else
    let s1 := readCopy env 0 w s
    if copyGood env 0 w s then answer tag hrpOk (peatWord s.peat w) s1
    else
      let s2 := readCopy env 1 w { s1 with peat := { s1.peat with spareUsed := true } }
      if copyGood env 1 w s1 then answer tag hrpOk (peatWord s.peat w) s2
      else answerDecode tag (bump 0 0 2 1 s2)

/-- PEAT_WINDOW_READ (R480, R488). -/
def execPeatWindowRead (tag : BitVec 5) (w : Fin 131072) (env : Env) (s : State) : Host.Outcome State Fault Refusal :=
  .next (hrpRequest (.peatWindowRead tag w env) tag (readPeat tag w.val env) s)

/-! Reads that change nothing: what a read of the map returns (R63, R114 to R127, R161). -/

/-- Word `w` of a mailbox area (R122). -/
def areaWord (b : Mbox) (w : Nat) : Nat :=
  if w < 32 then fld b.cmd.toNat (64 * w) 64 else fld b.rsp.toNat (64 * (w - 32)) 64

def controlWord (s : State) (w : Nat) : Nat :=
  if w = 0 then identWord
  else if w = 1 then configStatus s
  else if w = 2 then globalStatus s
  else if w = 3 then fwVersion s
  else if w = 4 then coolStatus s
  else if w = 8 then irqPending s
  else s.irq.mask.toNat

def groupWord (s : State) (g : Nat) (f : CauseGroup → Nat) : Nat := ((s.irq.groups[g]?).map f).getD 0

/-- Data and status of a read of an 8-byte word with no row of its own, the page being open. -/
def readWord (s : State) (addr : BitVec 21) : Nat × Nat :=
  let w := addr.toNat
  match hrpMap addr with
  | .readOnly => (controlWord s w, hrpOk)
  | .irqMask => (controlWord s w, hrpOk)
  | .mboxGo _ => (0, hrpOk)
  | .mboxStatus m => (((s.mbox[m]?).map mboxStatus).getD 0, hrpOk)
  | .mboxCmd m w => (((s.mbox[m]?).map fun b => areaWord b w).getD 0, hrpOk)
  | .quiet =>
    if w < 0x3000 then (((s.mbox[(w - 0x2000) / 512]?).map fun b => areaWord b (w % 512)).getD 0, hrpOk)
    else if w < 0xA000 then (ringWord s ((w - 0x8000) / 2) (w % 2 == 1), hrpOk)
    else (peatWord s.peat (w - 0x20000), if s.peat.online then hrpOk else hrpAbsent)
  | .bell _ => (0, hrpOk)
  | .ringDone i => ((Tbl.getD s.irq.ringDone i 0).toNat, hrpOk)
  | .ringErr i => ((Tbl.getD s.irq.ringErr i 0).toNat, hrpOk)
  | .groupCause g => (groupWord s g fun c => c.cause.toNat, hrpOk)
  | .groupEnable g => (groupWord s g fun c => c.enable.toNat, hrpOk)
  | .groupVector g => (groupWord s g fun c => c.vector.toNat, hrpOk)
  | .outside => (0, hrpDecode)

end Sys2Proof.Machine
end

