-- ==== Sys2Proof/Machine/Rings.lean ====
section
/-! DEFINITION. Descriptor rings: creating, querying and destroying them, and the fetch of their entries
(05_rings.md). ENTRY_START is in Machine/Start.lean, ENTRY_COMPLETE in Machine/Complete.lean. -/

namespace Sys2Proof.Machine

/-! RING_CREATE (R172 to R174). -/

def ringBytes (sizeLog2 : Nat) : Nat := 2 ^ sizeLog2 * 32

/-- BASE is aligned and the ring's memory is wholly the job's (R174). -/
def ringBaseOk (s : State) (j : Nat) (body v : Nat) : Bool :=
  let n := ringBytes (fld body 104 5)
  if fld body 96 1 = 1 then v % 512 == 0 && decide (v + n ≤ mereSize) && inOneAlloc s j v n
  else v % 4096 == 0 && decide (v + n ≤ vaEnd) && covered s j true v n

def ringFlds (s : State) (j : Nat) : List (Nat → List Fld) :=
  [fun _ => [
    chk 1 112 16 fun v => refuseUnless (v == 0xFFFF || (decide (v < 4096) && !Tbl.has s.rings v)),
    rsvd 2 109 3,
    chk 3 104 5 (clampIn 4 16),
    rsvd 4 97 7,
    chk 5 96 1 fun _ => .ok,
    chk 6 80 16 fun v => .setTo (if j = 0 then (if v = 0 then 1 else v) else 2 ^ j),
    chk 7 74 6 fun v => refuseUnless (decide (8 ≤ v)),
    chk 8 72 2 fun _ => .ok,
    rsvd 9 64 8,
    chkB 10 0 64 fun b v => refuseUnless (ringBaseOk s j b v)]]

def newRing (c : Cmd) : Ring :=
  { job := c.job, sizeLog2 := fld c.body 104 5, place := fld c.body 96 1 == 1, mask := BitVec.ofNat 16 (fld c.body 80 16),
    vector := BitVec.ofNat 6 (fld c.body 74 6), quarter := fld c.body 72 2, base := fld c.body 0 64, retire := 0, head := 0,
    tail := 0, state := 1, fenceWait := false, ownWait := false, reread := false, broken := false, lastError := 0, badBells := 0,
    resetGen := 0, failAddr := 0, entries := [], bells := [] }

def createRing (c : Cmd) (s : State) : State × Reply :=
  let v := fld c.body 112 16
  match (if v = 0xFFFF then Tbl.firstFree s.rings 0 4096 else some v) with
  | none => (s, endWith stExhausted)
  | some r =>
    if mayCreate s c.job resRings 1 then
      (mirrorSend (.ring r (some (BitVec.ofNat 128 c.body)) c.job) { s with rings := Tbl.put s.rings r (newRing c) }, okWith 8 r)
    else (s, endWith stExhausted)

def specRingCreate : CmdSpec := { op := 0x0201, hw := false, sel := fun _ => true, flds := ringFlds, act := createRing }

/-- RING_CREATE (R172 to R174). -/
def execRingCreate (m : Fin 8) (s : State) : Host.Outcome State Fault Refusal := .next (runCmd specRingCreate m s)

/-! RING_DESTROY and RING_QUERY (R175, R176). -/

def ringRule (ok : Ring → Bool) (s : State) (j v : Nat) : Rule :=
  match Tbl.get? s.rings v with
  | some r => refuseUnless (mayName j r.job && ok r)
  | none => .no

def ringIdle (r : Ring) : Bool := r.retire == r.tail && r.state != 2 && r.state != 3

def destroyRing (n : Nat) (s : State) : State :=
  mirrorSend (.ring n none 0) { s with rings := Tbl.del s.rings n, irq := s.irq.clearRing n }

def specRingDestroy : CmdSpec :=
  { op := 0x0202, hw := false, sel := fun _ => true, flds := fun s j => [fun _ => [chk 1 0 16 (ringRule ringIdle s j)]],
    act := fun c s => (destroyRing (fld c.body 0 16) s, okEmpty) }

/-- RING_DESTROY (R175, R176). -/
def execRingDestroy (m : Fin 8) (s : State) : Host.Outcome State Fault Refusal := .next (runCmd specRingDestroy m s)

def ringInfo (s : State) (n : Nat) : Nat :=
  match Tbl.get? s.rings n with
  | some r => pack [(64, ringWord0 r), (64, ringWord1 r), (64, r.base), (64, if r.broken then r.failAddr else 0)]
  | none => 0

def specRingQuery : CmdSpec :=
  { op := 0x0203, hw := false, sel := fun _ => true,
    flds := fun s j => [fun _ => [chk 1 0 16 (ringRule (fun _ => true) s j)]],
    act := fun c s => (s, okWith 32 (ringInfo s (fld c.body 0 16))) }

/-- RING_QUERY (R175). -/
def execRingQuery (m : Fin 8) (s : State) : Host.Outcome State Fault Refusal := .next (runCmd specRingQuery m s)

/-! Ring memory (R174, R179). -/

/-- Byte address of a granule in the ring's own space. -/
def granuleAddr (r : Ring) (e : Nat) : Nat := r.base + posOf r e * 32

/-- Where the row of an address of the ring lies: the ring's range entry or the Mere. -/
def ringRow (s : State) (r : Ring) (a : Nat) : Option RowAt :=
  if r.place then some (.mere (a / 64 * 64) r.quarter)
  else (rangeAt s a).map fun e => rowAtPa r.quarter ((e.2.pa + (a - e.2.va)) / 64 * 64) e.2.key

def extAdd (r : Ring) (e n : Nat) : Nat := (e + n) % (2 * ringSize r)

/-- What a fetch of granules gave: the granules, or the first failing row; and the row read last. -/
structure Fetched where
  st : State
  fail : Option Nat
  row : Option (Nat × BitVec 512)
  granules : List (BitVec 256)
deriving DecidableEq, Repr

/-- Reads the row of an address of the ring, unless it is the row read last. -/
def fetchRow (env : Env) (r : Ring) (a : Nat) (row : Option (Nat × BitVec 512)) (s : State) : Fetched :=
  if row.map Prod.fst = some (a / 64) then { st := s, fail := none, row := row, granules := [] }
  else
    match ringRow s r a with
    | none => { st := s, fail := some (a / 64 * 64), row := none, granules := [] }
    | some l =>
      let x := readRowAt env l 2 s
      { st := x.st, fail := if x.status = stOk then none else some (a / 64 * 64), row := some (a / 64, x.row), granules := [] }

/-- Reads `n` granules from extended index `e`. -/
def readGranules (env : Env) (r : Ring) (e : Nat) (row : Option (Nat × BitVec 512)) : Nat → State → Fetched
  | 0, s => { st := s, fail := none, row := row, granules := [] }
  | n + 1, s =>
    let a := granuleAddr r e
    let x := fetchRow env r a row s
    if x.fail.isSome then x
    else
      let g := BitVec.ofNat 256 (fld ((x.row.map Prod.snd).getD 0).toNat (8 * (a % 64)) 256)
      let rest := readGranules env r (extAdd r e 1) x.row n x.st
      { rest with granules := g :: rest.granules }

/-- The rows of `n` granules from extended index `e` can be accessed now. -/
def ringOpen (s : State) (r : Ring) (e n : Nat) : Bool :=
  (List.range n).all fun i => (ringRow s r (granuleAddr r (extAdd r e i))).all (rowOpen s r.quarter)

/-- A ring whose fetch or completion write fails enters STATE ERROR; one that is RESETTING or RELEASING stays so (R177, R180). -/
def breakRing (a : Nat) (r : Ring) : Ring :=
  { r with state := if r.state = 1 then 3 else r.state, broken := true, failAddr := a, reread := false }

/-- The failure, its address and its cause (R168, R179). -/
def ringError (n a : Nat) (s : State) : State := { s with rings := Tbl.upd s.rings n (breakRing a), irq := s.irq.setRingErr n }

/-! RING_FETCH (R165, R166). -/

/-- The memory that holds the ring takes new work. -/
def ringMemTakes (s : State) (r : Ring) : Bool := fnTakes s (if r.place then .mere else .translation)

/-- The fetching mover may read the next entry now. -/
def mayFetch (s : State) (r : Ring) : Bool :=
  inService s && (r.state == 1 || r.state == 4) && fnTakes s (.mover (Fin.ofNat 4 r.quarter)) && ringMemTakes s r &&
    !r.broken && r.head != r.tail && r.reread && decide (r.entries.length < 64) && ringOpen s r r.head (min 16 (extSub r r.tail r.head))

def hdrLen (w0 : Nat) : Nat := fld w0 1 4 + 1

def holdFetch (own : Bool) (r : Ring) : Ring := { r with ownWait := own, reread := false }

def pushEntry (gs : List (BitVec 256)) (r : Ring) : Ring :=
  let w0 := fld (gs.headD 0).toNat 0 64
  let e : RingEntry := { pos := r.head, granules := hdrLen w0, w0 := BitVec.ofNat 64 w0, body := gs.drop 1, st := .fetched,
                         tableRef := none, baseRef := none, shared := false }
  { r with entries := r.entries ++ [e], head := extAdd r r.head (hdrLen w0), ownWait := false }

/-- Reads the header, and the whole entry once all of it lies before the tail. -/
def fetchEntry (n : Nat) (env : Env) (r : Ring) (s : State) : State :=
  let h := readGranules env r r.head none 1 s
  match h.fail with
  | some a => ringError n a h.st
  | none =>
    let w0 := fld (h.granules.headD 0).toNat 0 64
    if fld w0 0 1 = 0 then updRing n (holdFetch true) h.st
    else if extSub r r.tail r.head < hdrLen w0 then updRing n (holdFetch false) h.st
    else
      let f := readGranules env r r.head h.row (hdrLen w0) h.st
      match f.fail with
      | some a => ringError n a f.st
      | none => updRing n (pushEntry f.granules) f.st

/-- RING_FETCH (R165, R166, R179). -/
def execRingFetch (r : Fin 4096) (env : Env) (s : State) : Host.Outcome State Fault Refusal :=
  match Tbl.get? s.rings r.val with
  | some x => .next (if mayFetch s x then fetchEntry r.val env x s else s)
  | none => .next s

end Sys2Proof.Machine
end

