-- ==== Sys2Proof/Machine/Start.lean ====
section
/-! DEFINITION. From a fetched entry to a running stream: the checks of word 0 and of the body, admission, placement in a
quarter, the context read, and the grant of a slot (05_rings.md, R154 to R168; 07_movers.md, R220 to R226; R28, R36 to R38). -/

namespace Sys2Proof.Machine

/-! Word 0 (R154 to R156). -/

def w0Op (w : Nat) : Nat := fld w 8 8
def w0Stream (w : Nat) : Nat := fld w 16 20
def w0Gen (w : Nat) : Nat := fld w 36 8
def w0Fence (w : Nat) : Bool := fld w 44 1 == 1
def w0Irq (w : Nat) : Bool := fld w 45 1 == 1

/-- The least length of an opcode's body in granules, its header included: one dimension and no gather granule. -/
def leastGranules (op : Nat) : Nat := if op = 0 then 1 else if op = 1 then 3 else 4

/-- The stream an entry names is allocated, of its generation and of the ring's job. -/
def streamNamed (s : State) (job w : Nat) : Bool :=
  match Tbl.get? s.streams (w0Stream w) with
  | some x => x.gen == w0Gen w && x.job == job
  | none => false

/-- The checks of R156 in order. -/
def headerFault (s : State) (job w : Nat) : Option Nat :=
  if fld w 5 3 ≠ 0 ∨ fld w 46 2 ≠ 0 ∨ 3 < w0Op w then some stMalformed
  else if fld w 1 4 + 1 < leastGranules (w0Op w) then some stLength
  else if w0Op w = 0 then none
  else if !streamNamed s job w then some stStale
  else if w0Op w = 2 ∧ s.bring.boardwalk then some stTypeUnsup
  else none

def entryDesc (e : RingEntry) : Desc := settle (readDesc (w0Op e.w0.toNat) e.body)

/-- The checks of the body and of the opcode's extension (R190, R327, R350). -/
def descFault (s : State) (job stream : Nat) (d : Desc) (granules : Nat) : Option Nat :=
  match bodyFault s d granules with
  | some st => some st
  | none => if d.op = 2 then expandFault s job d else if d.op = 3 then quantFault s job stream d else none

/-- What the checks say of an entry. -/
def entryFault (s : State) (job : Nat) (e : RingEntry) : Option Nat :=
  match headerFault s job e.w0.toNat with
  | some st => some st
  | none => if w0Op e.w0.toNat = 0 then none else descFault s job (w0Stream e.w0.toNat) (entryDesc e) e.granules

/-! ENTRY_START (R166, R167). -/

/-- The oldest entry that has not started. -/
def nextEntry (r : Ring) : Option RingEntry := r.entries.find? fun e => e.st == .fetched

/-- Entries before it have completed. -/
def fenceMet (r : Ring) (e : RingEntry) : Bool := (r.entries.takeWhile fun x => x.pos != e.pos).all fun x => x.st == .done

def setFence (b : Bool) (r : Ring) : Ring := { r with fenceWait := b }

/-- References of a started MOVE_EXPAND entry on its table and base (R316, R323). -/
def takeRefs (d : Desc) (s : State) : State :=
  if isExpand d then (if xBase d = 0 then id else takeBase (xBase d)) (takeTable (xSlot d) s) else s

def markStarted (d : Desc) (e : RingEntry) : RingEntry :=
  { e with st := .started
           tableRef := if isExpand d then some (xSlot d, xGen d) else none
           baseRef := if isExpand d && xBase d != 0 then some (xBase d) else none }

/-- The entry reaches its stream's admission. -/
def passOn (r : Nat) (e : RingEntry) (s : State) : State :=
  updStream (w0Stream e.w0.toNat) (fun x => { x with waiting := x.waiting ++ [(r, e.pos)] })
    (updRing r (updEntry e.pos (markStarted (entryDesc e))) (takeRefs (entryDesc e) s))

/-- Starts an entry whose fence is met. -/
def startEntry (r : Nat) (x : Ring) (e : RingEntry) (s : State) : State :=
  let mv := fetchMover s r
  if s.mirror.role = roleFenced then settleUndef r e.pos stNackFenced mv none s
  else if x.state = 4 then settleUndef r e.pos stDisabled mv none s
  else
    match entryFault s x.job e with
    | some st => settleEntry r e.pos (noData st mv) s
    | none => if w0Op e.w0.toNat = 0 then settleEntry r e.pos (noData stOk mv) s else passOn r e s

/-- The fetching mover and the checkers that an entry needs take work. -/
def mayStart (s : State) (x : Ring) (n : Nat) : Bool :=
  inService s && (x.state == 1 || x.state == 4) && fnTakes s (moverFn (fetchMover s n))

/-- ENTRY_START (R156, R166, R167, R190). -/
def execEntryStart (r : Fin 4096) (s : State) : Host.Outcome State Fault Refusal :=
  match Tbl.get? s.rings r.val with
  | none => .next s
  | some x =>
    match nextEntry x with
    | none => .next s
    | some e =>
      .next (if mayStart s x r.val then
          if w0Fence e.w0.toNat && !fenceMet x e then updRing r.val (setFence true) s
          else startEntry r.val x e (updRing r.val (setFence false) s)
        else s)

/-! Placement (R36 to R38, R28). -/

/-- The first interior point in canonical order. -/
def firstInner (d : Desc) : Nat :=
  ((dimsOf d).foldl (fun (a : Nat × Nat) k => (a.1 + (dimAt d k).padBefore * a.2, a.2 * points d k)) (0, 1)).1

/-- Quarter of the first interior source element; the second level is consulted and nothing is installed. A page whose withdrawal
is pending counts as one without a mapping. DESIGN CHOICE (log entry 97). -/
def sourceQuarter (s : State) (home : Nat) (d : Desc) : Nat :=
  if !hasInner d || isGather d || d.srcSpace == spWindow then home
  else
    match (elemAt d (fun _ => 0) (firstInner d)).src with
    | none => home
    | some off =>
      let a := srcByte d off
      if d.srcSpace = spMere then mereQuarter a
      else
        match secondLevel s home (a / 4096) with
        | .hit e => if labPa e a < hostBase then labPa e a / stackSpan / 6 else home
        | _ => home

/-- Only one quarter will do: a core's port or a quantiser's. -/
def boundTo (s : State) (d : Desc) : Option Nat :=
  if d.dstSpace = spCore then some (((coreAt s (coreOf d.dstAddr)).map CoreEntry.port).getD 0 / 16)
  else if d.op = 3 then some (((coreAt s (coreOf d.srcAddr)).map CoreEntry.port).getD 0 / 16)
  else none

def groupUp (s : State) (q : Nat) : Bool := !isWedged s (.mover (Fin.ofNat 4 q))

/-- The quarter that takes the stream, or none. -/
def placeStream (s : State) (home : Nat) (d : Desc) : Option Nat :=
  match boundTo s d with
  | some q => if groupUp s q then some q else none
  | none => ((List.range 4).map fun i => (sourceQuarter s home d + i) % 4).find? (groupUp s)

/-! STREAM_ADMISSION (R221 to R223). -/

def ctxSite (i reader : Nat) (inj : Bool) : EccSite :=
  { site := 3, unit := i % 4, addr := ctxSet i / 4, words := 16, island := islQuarter (i % 4), level := 1, reader := reader,
    points := if inj then [6, 5] else [], dbe := 6 }

/-- The context is lost (R221). -/
def loseStream (i : Nat) (s : State) : State := storeCtx i (updStream i (fun x => { x with state := stLost }) s)

/-- Entries of a ring that is RESETTING do not start (R177). -/
def ringStopped (s : State) (r : Nat) : Bool := (Tbl.get? s.rings r).any fun x => x.state == 2

/-- The head of the stream's queue is answered without running. -/
def answerHead (i : Nat) (rest : List (Nat × Nat)) (f : State → State) (s : State) : State :=
  f (updStream i (fun x => { x with waiting := rest }) s)

/-- The stream takes up an entry (R222). -/
def takeEntry (i r pos q : Nat) (d : Desc) (rest : List (Nat × Nat)) (s : State) : State :=
  enqueue q i (updStream i (fun x => { x with
    waiting := rest, ring := r, entryPos := pos, placePos := (entryPlace s r pos).1, placeWrap := (entryPlace s r pos).2, ran := false,
    owed := [], tile := 0, cursor := { elem := 0, rows := 0 }, bytes := 0, crc := crcStart, crcElem := 0,
    canon := [], desc := some d, fed := false, paced := false, quarter := q, state := stQueued,
    promoted := satAdd 16 x.promoted (b2n (promoted d)) }) s)

/-- The head entry of a stream that is IDLE or LOST. -/
def admitEntry (i : Nat) (x : Stream) (r pos : Nat) (rest : List (Nat × Nat)) (s : State) : State :=
  match entryOf s r pos with
  | none => answerHead i rest id s
  | some e =>
    let mv := fetchMover s r
    if x.state = stLost then answerHead i rest (settleEntry r pos (noData stStackUnc mv)) s
    else if x.disable then answerHead i rest (settleUndef r pos stDisabled mv none) s
    else
      match placeStream s (moverQuarter mv) (entryDesc e) with
      | none => answerHead i rest (settleEntry r pos (noData stExhausted mv)) s
      | some q => takeEntry i r pos q (entryDesc e) rest s

/-- The context is read from its slice and judged; an uncorrectable one is lost. -/
def readContext (i : Nat) (s : State) : State :=
  let site := ctxSite i 8 true
  let t := reportBy (eccTrace .quiet site []) s
  if (eccLook .quiet site [] s).unc.isEmpty then t else loseStream i t

/-- The completion of the stream's entry before is decided and not yet written. -/
def entryHeld (s : State) (i : Nat) (x : Stream) : Bool :=
  (entryOf s x.ring x.entryPos).any fun e =>
    w0Stream e.w0.toNat == i && w0Gen e.w0.toNat == x.gen && (match e.st with | .held _ => true | _ => false)

/-- STREAM_ADMISSION (R28, R36 to R38, R220 to R223). -/
def execStreamAdmission (idx : BitVec 20) (s : State) : Host.Outcome State Fault Refusal :=
  let i := idx.toNat
  match Tbl.get? s.streams i with
  | none => .next s
  | some x =>
    match x.waiting with
    | [] => .next s
    | (r, pos) :: rest =>
      .next (if !inService s || ringStopped s r || !(x.state == stIdle || x.state == stLost) || entryHeld s i x then s
        else if !cached s i then (if s.ctxReads.contains i then s else { s with ctxReads := s.ctxReads ++ [i] })
        else
          let t := readContext i s
          match Tbl.get? t.streams i with
          | some y => admitEntry i y r pos rest (installCtx i t)
          | none => t)

/-! CONTEXT_READ_DONE (R218, R220, R221). -/

/-- Reads the context from the store: the state after, and whether it failed. -/
def readStore (i : Nat) (env : Env) (s : State) : State × Bool :=
  match ctxAddr s i with
  | none => (s, false)
  | some pa =>
    let r := readRowAt env (.stack pa 0) 8 s
    let site := ctxSite i 8 false
    if r.status ≠ stOk then (r.st, true)
    else (reportBy (eccTrace env site []) r.st, !(eccLook env site [] r.st).unc.isEmpty)

/-- The context of a QUEUED stream is lost: the entry that needed it completes (R221). -/
def loseQueued (i : Nat) (x : Stream) (s : State) : State :=
  let mv := ranOn s x
  let t := if x.ran then settleUndef x.ring x.entryPos stStackUnc mv none s else settleEntry x.ring x.entryPos (noData stStackUnc mv) s
  loseStream i (dropOrphans none i (dropFeed none i (endRow i (dropReplays i (leaveQueues i t)))))

def loseCtx (i : Nat) (s : State) : State :=
  match Tbl.get? s.streams i with
  | some x => if x.state = stQueued then loseQueued i x s else loseStream i s
  | none => s

/-- The slice of the context reaches the stack that holds the store. -/
def storeOpen (s : State) (i : Nat) : Bool := (ctxAddr s i).all fun pa => rowOpen s (i % 4) (.stack pa 0)

/-- CONTEXT_READ_DONE (R218, R220, R221). -/
def execContextReadDone (idx : BitVec 20) (env : Env) (s : State) : Host.Outcome State Fault Refusal :=
  let i := idx.toNat
  .next (if inService s && s.ctxReads.contains i && storeOpen s i then
      let r := readStore i env { s with ctxReads := s.ctxReads.filter fun k => k != i }
      installCtx i (if r.2 then loseCtx i r.1 else r.1)
    else s)

/-! SLOT_GRANT (R224 to R226). -/

/-- Movers of a quarter that take streams. -/
def eligibleMovers (s : State) (q : Nat) : List Nat :=
  (List.range (if s.bring.boardwalk then 2 else 24)).map fun i => q * 24 + i

def slotsUsed (s : State) (mv : Nat) : Nat := (s.slots.filter fun e => slotMover e.1 == mv).length

/-- The mover with the most free slots, the lowest number on a tie. -/
def bestMover (s : State) (q : Nat) : Nat :=
  (eligibleMovers s q).foldl (fun b m => if slotsUsed s m < slotsUsed s b then m else b) (q * 24)

def freeSlot (s : State) (mv : Nat) : Option Nat := Tbl.firstFree s.slots (mv * 32) 32

/-- The stream's context can be pinned. -/
def canPin (s : State) (i : Nat) : Bool :=
  cached s i || decide ((Tbl.getD s.ctxCache (ctxSet i) []).length < 8) || (ctxVictim s (ctxSet i)).isSome

def prioAt (s : State) (i : Nat) : Nat := ((Tbl.get? s.streams i).map Stream.prio).getD 7

/-- The stream served next: by PRIO, then by arrival, of those whose context is not being read. -/
def nextAdmitted (s : State) (q : Nat) : Option Nat :=
  ((Tbl.getD s.admission q []).filter fun i => canPin s i && !s.ctxReads.contains i).foldl (fun b i =>
    match b with
    | some k => if prioAt s i < prioAt s k then some i else b
    | none => some i) none

def newSlot (i : Nat) (x : Stream) (d : Desc) : Slot :=
  { stream := i, ring := x.ring, pos := x.entryPos, desc := d, cur := none, nxt := none, cursor := x.cursor, nextNum := x.tile,
    grant := none, grantAsked := false, creditHeld := none, creditAsked := false, pin := none, release := false,
    allFormed := decide (total d ≤ x.cursor.elem), failing := none }

/-! The feed of an entry (R363). -/

def linesFor (bytes : Nat) : Nat := ceilDiv bytes 512

/-- Cuts of at most `size` bytes each. -/
def cutBytes (size : Nat) : Nat → Nat → List Nat
  | 0, _ => []
  | fuel + 1, n => if n = 0 then [] else min n size :: cutBytes size fuel (n - size)

/-- A register as a feed delivers it: a NaN in place of an uncorrectable one (R476). -/
def feedBytes (q : Quantiser) (bad : Option Nat) (first n : Nat) : List Byte :=
  (List.range n).flatMap fun i => natToBytes 4 (if bad = some (first + i) then 0x7FC00000 else regAt q (first + i))

/-- The binding's feed asks for its grant. -/
def startFeed (i : Nat) (d : Desc) (s : State) : State :=
  match Tbl.get? s.bindings (qSource d), coreAt s (coreOf d.srcAddr) with
  | some b, some c =>
    if qFeed d && b.feedCount != 0 then
      let k := quantOfCore s (coreOf d.srcAddr)
      let r := readRegs .quiet k ((List.range b.feedCount).map fun j => b.feedBase + j) s
      let n := 4 * b.feedCount
      let g : GrantReq := { slot := feedSlot i, unit := 96 + k, stream := i, gen := b.gen, buf := bufNo c.slot b.feedEngine, lines := linesFor n,
                            slack := 0, cuts := (cutBytes (c.opbuf * 512) (n + 1) n).map fun m => { bytes := m, nominal := 0, timed := false },
                            feed := some (feedBytes (quantAt s k) r.bad b.feedBase b.feedCount) }
      setPort c.port (fun p => { p with greqs := p.greqs ++ [g] }) r.st
    else s
  | _, _ => s

/-- Gives a slot to a stream. -/
def loadSlot (q n i : Nat) (x : Stream) (d : Desc) (s : State) : State :=
  let s1 := installCtx i { s with
    slots := Tbl.put s.slots n (newSlot i x d)
    admission := Tbl.put s.admission q ((Tbl.getD s.admission q []).filter fun k => k != i) }
  let s2 := updStream i (fun y => { y with state := stRunning, ran := true, mover := slotMover n, slot := some n, fed := true }) s1
  endEntry n (if d.op = 3 ∧ !x.fed then startFeed i d s2 else s2)

/-- A context that has left the cache is read from the store before its stream gets a slot (R220, R221). -/
def grantSlot (q n i : Nat) (x : Stream) (d : Desc) (s : State) : State :=
  if cached s i then loadSlot q n i x d s else { s with ctxReads := s.ctxReads ++ [i] }

/-- SLOT_GRANT (R224 to R226). -/
def execSlotGrant (q : Fin 4) (s : State) : Host.Outcome State Fault Refusal :=
  .next (if inService s && fnTakes s (.mover q) then
      match nextAdmitted s q.val, freeSlot s (bestMover s q.val) with
      | some i, some n =>
        (match (Tbl.get? s.streams i).bind fun x => x.desc.map fun d => (x, d) with
        | some (x, d) => grantSlot q.val n i x d s
        | none => s)
      | _, _ => s
    else s)

end Sys2Proof.Machine
end

