-- ==== Sys2Proof/Machine/Complete.lean ====
section
/-! DEFINITION. ENTRY_COMPLETE: the completion words of an entry, the retire point, and the end of the stream's work on it
(05_rings.md, R157, R158, R168, R179; 07_movers.md, R222; 14_mirroring.md, R460, R463). -/

namespace Sys2Proof.Machine

/-! The words (R157). -/

def word1 (c : Completion) : Nat :=
  pack [(8, c.status), (7, c.mover), (1, 0), (1, b2n (c.faultValid && c.faultDir)), (1, b2n c.faultValid), (14, 0), (32, c.crc.toNat)]

def word3 (c : Completion) : Nat := if c.faultValid then fld c.faultAddr 0 48 else 0

/-- The header granule as the device writes it: OWN is 0 and the rest of word 0 unchanged. -/
def headerGranule (w0 : Nat) (c : Completion) : Nat :=
  pack [(64, setFld w0 0 1 0), (64, word1 c), (64, c.bytes.toNat), (64, word3 c)]

/-! Mirroring of an entry (R460, R463). -/

def historyItems (s : State) (i : Nat) : List MirrorItem :=
  match (Tbl.get? s.streams i).bind Stream.desc with
  | some d =>
    if d.op = 3 then
      (match Tbl.get? s.bindings (qSource d) with
      | some b => (b.hist.filter fun e => decide (qRowOff d ≤ e.1 ∧ e.1 < qRowOff d + rowCount d)).map
          fun e => .history (qSource d / 4) (qSource d % 4) e.1 e.2
      | none => [])
    else []
  | none => []

/-- Queues the entry's histories and its stream's context. -/
def shareEntry (i : Nat) (s : State) : State :=
  match Tbl.get? s.streams i with
  | some x => mirrorSend (.context i (BitVec.ofNat 512 (ctxWord x))) ((historyItems s i).foldl (fun t m => mirrorSend m t) s)
  | none => s

def isContextOf (i : Nat) (m : MirrorItem × Nat) : Bool :=
  match m.1 with
  | .context k _ => k == i
  | _ => false

/-- The mirror has not acknowledged the context that follows every item of the entry. -/
def mirrorOwes (s : State) (i : Nat) : Bool := s.mirror.queue.any (isContextOf i)

/-! The end of an entry. -/

/-- The retire point passes completed entries in order. -/
def retireFrom : Nat → Ring → Ring
  | 0, r => r
  | n + 1, r =>
    match r.entries with
    | e :: es => if e.st == .done then retireFrom n { r with entries := es, retire := extAdd r r.retire e.granules } else r
    | [] => r

def retireDone (r : Ring) : Ring := retireFrom r.entries.length r

/-- The stream that ran the entry returns to IDLE (R222, R226). -/
def endStream (r pos i : Nat) (s : State) : State :=
  match Tbl.get? s.streams i with
  | some x =>
    if x.state = stRunning ∧ x.ring = r ∧ x.entryPos = pos then storeCtx i (updStream i toIdle (giveUpSlot none i s)) else s
  | none => s

def dropRefs (e : RingEntry) (s : State) : State :=
  let s1 := match e.tableRef with
    | some (k, g) => freeTable k g s
    | none => s
  match e.baseRef with
  | some b => freeBase b s1
  | none => s1

/-- Causes and LAST_ERROR of a completion (R168, R169). -/
def noteDone (n : Nat) (e : RingEntry) (c : Completion) (s : State) : State :=
  let s1 := if w0Irq e.w0.toNat then { s with irq := s.irq.setRingDone n } else s
  if c.status = stOk then s1
  else { updRing n (fun r => { r with lastError := c.status }) s1 with irq := s1.irq.setRingErr n }

def sendRingStatus (n : Nat) (s : State) : State :=
  match Tbl.get? s.rings n with
  | some r => mirrorSend (.ringStatus n (BitVec.ofNat 64 (ringWord0 r)) (BitVec.ofNat 64 (ringWord1 r))) s
  | none => s

/-- Writes the header granule of an entry: the state after, and whether it failed. -/
def writeHeader (env : Env) (r : Ring) (e : RingEntry) (c : Completion) (s : State) : State × Bool :=
  let a := granuleAddr r e.pos
  match ringRow s r a with
  | none => (s, true)
  | some l =>
    let w := landRow env l (BitVec.ofNat 512 (headerGranule e.w0.toNat c <<< (8 * (a % 64))))
      (BitVec.ofNat 512 ((2 ^ 256 - 1) <<< (8 * (a % 64)))) s
    (w.st, w.status != stOk)

/-- Writes the completion and ends the entry. -/
def writeCompletion (n : Nat) (env : Env) (r : Ring) (e : RingEntry) (c : Completion) (s : State) : State :=
  let i := w0Stream e.w0.toNat
  let w := writeHeader env r e c s
  let s1 := freeNrdy (fun h => h == .completion n e.pos) (dropRefs e (endStream n e.pos i w.1))
  if w.2 then ringError n (granuleAddr r e.pos / 64 * 64) (updRing n (updEntry e.pos fun x => { x with st := .unwritten }) s1)
  else sendRingStatus n (noteDone n e c (updRing n (fun x => retireDone (updEntry e.pos (fun y => { y with st := .done }) x)) s1))

/-- The entry ran on a stream, whose context is mirrored. -/
def ranStream (s : State) (n : Nat) (e : RingEntry) : Bool :=
  match Tbl.get? s.streams (w0Stream e.w0.toNat) with
  | some x => w0Op e.w0.toNat != 0 && x.ring == n && x.entryPos == e.pos && x.gen == w0Gen e.w0.toNat
  | none => false

def ownedBy (ids : List Nat) (u : TagUse) : Bool :=
  match u.owner with
  | .burst b => ids.contains b
  | _ => false

/-- A delivery that a halt has left at its port, or a remote write that it has given up, is still under way (R158). -/
def leftUnderWay (s : State) (i : Nat) (x : Stream) : Bool :=
  (s.ports.any fun e => e.2.dlvs.any (isOrphan i)) || s.cw.ports.any fun e => e.2.tags.any fun u => ownedBy x.owed u.2

/-- Every byte that the entry writes has landed; a disabled one is not waited for (R158, R246). -/
def allLanded (s : State) (n : Nat) (e : RingEntry) (c : Completion) : Bool :=
  c.status == stDisabled || !ranStream s n e ||
    (Tbl.get? s.streams (w0Stream e.w0.toNat)).all fun x => !leftUnderWay s (w0Stream e.w0.toNat) x

def completeEntry (n : Nat) (env : Env) (r : Ring) (e : RingEntry) (c : Completion) (s : State) : State :=
  let i := w0Stream e.w0.toNat
  if ranStream s n e && !e.shared && mirrors s then
    let s1 := updRing n (updEntry e.pos fun x => { x with shared := true }) (shareEntry i s)
    if syncCommit s then { s1 with mirror := { s1.mirror with waited := s1.mirror.waited + 1 } }
    else writeCompletion n env r e c s1
  else if syncCommit s && ranStream s n e && mirrorOwes s i then s
  else writeCompletion n env r e c s

/-- ENTRY_COMPLETE (R157, R158, R168, R179, R222, R316, R323, R463). -/
def execEntryComplete (r : Fin 4096) (pos : Nat) (env : Env) (s : State) : Host.Outcome State Fault Refusal :=
  match Tbl.get? s.rings r.val, entryOf s r.val pos with
  | some x, some e =>
    .next (match e.st with
      | .held c => if inService s && ringMemTakes s x && ringOpen s x e.pos 1 && allLanded s r.val e c then completeEntry r.val env x e c s else s
      | _ => s)
  | _, _ => .next s

end Sys2Proof.Machine
end

