-- ==== Sys2Proof/Machine/Deliver.lean ====
section
/-! DEFINITION. Core delivery ports: grants and their nominal latency, pacing, the presentation of deliveries, credits, and
the arrival of return beats (02_ports.md, R52 to R57; 07_movers.md, R233 to R235; 08_delivery.md, R253 to R266). -/

namespace Sys2Proof.Machine

/-! Cores of a port. -/

/-- The core declared at a slot of a port. -/
def coreOfSlot (s : State) (p slot : Nat) : Option (Nat × CoreEntry) :=
  s.cores.find? fun e => e.2.present && e.2.port == p && e.2.slot == slot

/-- Declared size of an operand buffer in lines. -/
def bufSize (s : State) (p buf : Nat) : Nat := ((coreOfSlot s p (buf / 4)).map fun e => e.2.opbuf).getD 0

def inboxSize (s : State) (p slot : Nat) : Nat := ((coreOfSlot s p slot).map fun e => e.2.inbox).getD 0

def portCycle (s : State) (p : Nat) : Nat := cyclesOf s (islQuarter (p / 16))

/-! The nominal latency (R256). -/

def dieCost (s : State) (q r : Nat) : Nat := if dieOf s q = dieOf s r then 0 else 48

def stackBase (s : State) (expand : Bool) : Nat := (if s.power.profile = 0 then 162 else 133) + (if expand then 8 else 0)

/-- B of a row for a mover of quarter `q`; none for host memory. -/
def rowBase (s : State) (q : Nat) (expand : Bool) : RowAt → Option Nat
  | .mere a _ => some (37 + (if mereQuarter a = q then 0 else 16) + dieCost s q (mereQuarter a))
  | .stack pa _ => some (stackBase s expand + (if pa / stackSpan / 6 = q then 0 else 8) + dieCost s q (pa / stackSpan / 6))
  | .host _ _ => none

/-- The greatest base of the rows a delivery reads: 37 where it reads none, none where one is the host's. -/
def maxBase (s : State) (q : Nat) (expand : Bool) : List RowAt → Option Nat
  | [] => some 37
  | l :: ls =>
    match rowBase s q expand l, maxBase s q expand ls with
    | some a, some b => some (max a b)
    | _, _ => none

/-- T_LINK of a window: the T_PATH of its device as last measured, else its port's round trip (R256, R449). -/
def windowLink (s : State) (stream a : Nat) : Nat :=
  match Tbl.get? s.cw.paths (windowDevice a) with
  | some n => n
  | none => ((windowPort s stream a).map fun p => (cport s p).tlink.toNat).getD 0

/-- The bases of the first three rows of R256. -/
def remoteBases : List Nat := [37, 133, 141, 162, 170]

/-- The quarter of the port toward the window's device; the mover's own where there is none. -/
def windowQuarter (s : State) (q stream a : Nat) : Nat := ((windowPort s stream a).map fun p => p / 8).getD q

/-- B of a remote window: B_REMOTE is one of the bases; the die boundary to the Causeway port is an addition like any. -/
def windowBase (s : State) (q stream a : Nat) : Nat :=
  45 + windowLink s stream a + remoteBases.getD (Config.remoteBase (windowDevice a) (windowNo a) % 5) 37 +
    dieCost s q (windowQuarter s q stream a)

/-- Addresses of the rows that a run of a burst reads. -/
def runLines (d : Desc) (t : Tile) (runs : List (Nat × Nat)) : List Nat :=
  dedupe ((runElems d (ixOf t.idx) runs).flatMap (srcLines d))

/-- Rows of a block as D counts them: payload and base block, not the rest of an ESCAPE place (R331). -/
def blockLines (s : State) (d : Desc) (t : Tile) (va x : Nat) : List Nat :=
  if isEscape d t va then linesOf va (payloadLen d) else blockReads s d t va x

/-- B of a delivery, none where it is not timed. -/
def baseOf (s : State) (q stream x : Nat) (d : Desc) (t : Tile) (runs : List (Nat × Nat)) : Option Nat :=
  match (if isExpand d then nextBlock d t else none) with
  | some va => maxBase s q true ((blockLines s d t va x).filterMap (rowOf q t spVa))
  | none =>
    if d.srcSpace = spWindow then
      (if ((runElems d (ixOf t.idx) runs).any fun e => e.src.isSome) then some (windowBase s q stream d.srcAddr) else some 37)
    else maxBase s q false ((runLines d t runs).filterMap (rowOf q t d.srcSpace))

/-- D of a delivery of `n` of the burst's `all` bytes. -/
def dataTime (s : State) (x : Nat) (d : Desc) (t : Tile) (runs : List (Nat × Nat)) (n all : Nat) : Nat :=
  let m := match (if isExpand d then nextBlock d t else none) with
    | some va => max 1 (ceilDiv (ceilDiv (64 * (blockLines s d t va x).length * n) all) 512)
    | none => if isExpand d then 1 else moverTime d t runs
  max m (linesFor n)

/-- The deliveries of a burst, each timed for itself. -/
def cutsFrom (s : State) (q stream x : Nat) (d : Desc) (t : Tile) (all : Nat) : List Nat → List (Nat × Nat) → List Cut
  | [], _ => []
  | n :: ns, runs =>
    let k := 8 * n / dstBits d
    let part := takeRuns runs k
    let b := baseOf s q stream x d t part
    { bytes := n, nominal := b.getD 0 + dataTime s x d t part n all, timed := b.isSome } ::
      cutsFrom s q stream x d t all ns (dropRuns runs k)

def burstBytes (d : Desc) (runs : List (Nat × Nat)) : Nat := ceilDiv (runsLen runs * dstBits d) 8

/-! GRANT_REQUEST (R234). -/

/-- The slot asks for the grant of its next burst. -/
def mayAskGrant (s : State) (x : Slot) (t : Tile) : Bool :=
  x.desc.dstSpace == spCore && t.translated && !tileSpent t && x.grant.isNone && !x.grantAsked && !x.release && x.failing.isNone &&
    runningCtx s x.stream && !pacedNow s x.stream

def grantReqOf (s : State) (n : Nat) (x : Slot) (t : Tile) (st : Stream) (c : CoreEntry) : GrantReq :=
  let runs := nextRuns x.desc t
  let bytes := burstBytes x.desc runs
  let mv := slotMover n
  let cuts := cutsFrom s (moverQuarter mv) x.stream (expanderOf s mv x.desc) x.desc t bytes
    (cutBytes (c.opbuf * 512) (bytes + 1) bytes) runs
  { slot := n, unit := mv, stream := x.stream, gen := st.gen, buf := bufNo c.slot (engineOf x.desc.dstAddr), lines := linesFor bytes,
    slack := x.desc.slack, cuts := cuts, feed := none }

def askGrant (n : Nat) (x : Slot) (t : Tile) (s : State) : State :=
  match Tbl.get? s.streams x.stream, coreAt s (coreOf x.desc.dstAddr) with
  | some st, some c =>
    setPort c.port (fun p => { p with greqs := p.greqs ++ [grantReqOf s n x t st c] })
      (updSlot n (fun y => { y with grantAsked := true }) s)
  | _, _ => s

/-- GRANT_REQUEST (R234, R256). -/
def execGrantRequest (slot : Fin 3072) (s : State) : Host.Outcome State Fault Refusal :=
  .next (match (Tbl.get? s.slots slot.val).bind fun x => x.cur.map fun t => (x, t) with
    | some (x, t) =>
      if inService s && fnTakes s (moverFn (slotMover slot.val)) && mayAskGrant s x t then askGrant slot.val x t s else s
    | none => s)

/-! Pacing (R233, R235). -/

/-- HIGH_WATER in force; one above the declared size of a buffer acts as that size. -/
def highMark (s : State) (x : Stream) (t : Option Nat × Nat) : Nat :=
  match t.1 with
  | some p => min x.high (bufSize s p t.2)
  | none => x.high

/-- The stream's pacing after a fill is seen. -/
def paceBy (s : State) (t : Option Nat × Nat) (fill : Nat) (x : Stream) : Stream :=
  if paceTarget s x = some t then
    { x with paced := if highMark s x t ≤ fill then true else if fill ≤ x.low then false else x.paced }
  else x

def takeNotice (mv : Nat) (n : Notice) (s : State) : State :=
  { s with
    notices := s.notices.erase n
    streams := s.streams.mapV fun _ x =>
      if x.state = stRunning ∧ x.mover = mv then paceBy s (n.port, n.target) n.fill x else x }

/-- FILL_NOTICE (R235). -/
def execFillNotice (mv : Fin 96) (s : State) : Host.Outcome State Fault Refusal :=
  .next (match s.notices.find? fun n => n.mover == mv.val with
    | some n => if inService s && fnTakes s (moverFn mv.val) then takeNotice mv.val n s else s
    | none => s)

/-! GRANT_ANSWER (R234, R253, R255, R266). -/

/-- The buffer has room for the burst, or is empty. -/
def grantFits (s : State) (p buf : Nat) (g : GrantReq) : Bool :=
  let f := fillOf (portAt s p) buf
  f == 0 || decide (f + g.lines ≤ bufSize s p buf)

/-- The requests that can be granted now: of each buffer the first that reached the port, where it fits. -/
def grantFronts (s : State) (p : Nat) : List GrantReq :=
  (portAt s p).greqs.filter fun g =>
    ((portAt s p).greqs.find? fun h => h.buf == g.buf) == some g && grantFits s p g.buf g

/-- The request that the port grants next: the movers and quantisers that ask take turns (R22). -/
def nextGrant (s : State) (p : Nat) : Option GrantReq :=
  ((portAt s p).grantArb.turn ((grantFronts s p).map GrantReq.unit)).bind fun u => (grantFronts s p).find? fun g => g.unit == u

def newDelivery (s : State) (p : Nat) (x : Port) (g : GrantReq) : Delivery :=
  { id := x.nextDlv, slot := g.slot, buf := g.buf, stream := g.stream, gen := g.gen, data := g.feed.getD [], ready := g.feed.isSome,
    cuts := g.cuts.map fun c => { c with timed := c.timed && s.bring.stage == 5 }, sent := 0, lines := g.lines, start := portCycle s p,
    slack := g.slack, timed := (g.cuts.head?.any Cut.timed) && s.bring.stage == 5, events := 0, cause := 0, throttle := 0,
    heldBack := false, overdue := false, hold := none }

def grantPort (s : State) (p : Nat) (g : GrantReq) (x : Port) : Port :=
  { x with
    greqs := x.greqs.erase g
    grantArb := x.grantArb.grant ((grantFronts s p).map GrantReq.unit) g.unit
    dlvs := x.dlvs ++ [newDelivery s p x g]
    fill := Tbl.put x.fill g.buf (fillOf x g.buf + g.lines)
    nextDlv := x.nextDlv + 1 }

def answerGrant (p : Nat) (g : GrantReq) (s : State) : State :=
  let id := (portAt s p).nextDlv
  let f := fillOf (portAt s p) g.buf + g.lines
  let s1 := setPort p (grantPort s p g) s
  if g.feed.isSome then s1
  else
    updStream g.stream (paceBy s (some p, g.buf) f)
      (updSlot g.slot (fun x => { x with grant := some { port := p, id := id } }) s1)

/-- GRANT_ANSWER: to the buffer whose request has the turn (R22, R234, R235, R253, R255). -/
def execGrantAnswer (p : Fin 64) (buf : Fin 64) (s : State) : Host.Outcome State Fault Refusal :=
  .next (match nextGrant s p.val with
    | some g => if inService s && g.buf == buf.val then answerGrant p.val g s else s
    | none => s)

/-! PORT_DELIVERY (R52, R54, R55, R254, R264, R265). -/

/-- Cycles of the crossing into the host: a beat leaves the port that long before it is presented (R256, R261). -/
def hostCrossing : Nat := 6

def dueOf (d : Delivery) : Nat := d.start + (d.cuts.head?.map Cut.nominal).getD 0 + d.slack

/-- The first delivery to a buffer in grant order. -/
def currentDlv (x : Port) (buf : Nat) : Option Delivery := x.dlvs.find? fun d => d.buf == buf

def cutSize (d : Delivery) : Nat := (d.cuts.head?.map Cut.bytes).getD 0

/-- Bytes of the delivery's next beat, and whether it ends the delivery. -/
def beatLen (d : Delivery) : Nat := min 512 (cutSize d - d.sent)
def lastBeat (d : Delivery) : Bool := decide (cutSize d ≤ d.sent + beatLen d)

/-- The token may leave: it is not held, or its time is up. -/
def tokenFree (now : Nat) (d : Delivery) : Bool := d.hold.all fun h => decide (h ≤ now)

def canPresent (s : State) (p buf : Nat) : Bool :=
  match currentDlv (portAt s p) buf with
  | some d => d.ready && decide (0 < Tbl.getD (portAt s p).credit buf 0) && (!lastBeat d || tokenFree (portCycle s p) d)
  | none => false

/-- The buffer whose turn it is (R254). -/
def beatTurn (s : State) (p : Nat) : Option Nat :=
  ((List.range 64).map fun i => ((portAt s p).rrBuf + 1 + i) % 64).find? (canPresent s p)

def updDlv (p id : Nat) (f : Delivery → Delivery) (s : State) : State := setPort p (updDelivery id f) s

/-- Deliveries behind one whose token goes: their data at the port was held back. -/
def heldBackBy (d : Delivery) (x : Delivery) : Delivery :=
  if x.buf = d.buf ∧ x.id ≠ d.id ∧ x.ready then { x with heldBack := true } else x

/-- Mover cycles that throttling has withheld, in whole cycles (R258, R510). -/
def throttledCycles (d : Delivery) : Nat := ceilDiv d.throttle 80

/-- The event sum of a delivery. -/
def eventsOf (d : Delivery) : Nat := satAdd 16 d.events (throttledCycles d)

/-- CAUSE of a late delivery (R265). -/
def lateCause (d : Delivery) (excess : Nat) (before : Bool) : Nat :=
  d.cause ||| (if d.throttle = 0 then 0 else 512) ||| (if eventsOf d < d.slack + excess then 1024 else 0) |||
    (if before && d.heldBack then 2048 else 0)

/-- LATE_DELIVERY (R264). -/
def lateRec (s : State) (p : Nat) (d : Delivery) (tseq excess : Nat) (before : Bool) : PeatRec :=
  let c := lateCause d excess before
  mkRec s 0x031 2 (islQuarter (p / 16)) [p, d.buf / 4, d.buf % 4, d.stream, c]
    [pack [(4, 0), (2, d.buf % 4), (4, d.buf / 4), (6, p), (4, 0), (16, tseq), (8, d.gen), (20, d.stream)],
      pack [(16, min excess 0xFFFF), (16, eventsOf d), (12, c), (10, 0), (10, d.slack)],
      pack [(48, 0), (16, min ((d.cuts.head?.map Cut.nominal).getD 0) 0xFFFF)]]

/-- Cycles by which the token is presented after its due time. -/
def overrun (s : State) (p : Nat) (d : Delivery) : Nat := if d.timed then portCycle s p + hostCrossing - dueOf d else 0

def noteLate (p : Nat) (d : Delivery) (tseq : Nat) (s : State) : State :=
  let excess := overrun s p d
  let before := Tbl.getD (portAt s p).lateLast d.buf false
  let s1 := if excess = 0 then s
    else setCause 2 (4 + p / 16) (bump 1 p 2 1 (offer none (lateRec s p d tseq excess before) s))
  setPort p (fun x => { x with lateLast := Tbl.put x.lateLast d.buf (decide (0 < excess)) }) s1

/-- With its token presented, an overdue delivery no longer keeps the bit high (R56, R261). -/
def lowerNrdy (d : Delivery) (x : Port) : Port := if d.overdue then dropNrdy d.buf x else x

/-- The delivery after its beat. -/
def sentBeat (n : Nat) (d : Delivery) : Delivery := { d with sent := d.sent + n, data := d.data.drop n, lines := d.lines - 1 }

/-- The next cut, or nothing: it starts once the token before it is presented, its data waited for that token, and the events of
the burst were the first cut's (R255, R258, R265; log entry 25). -/
def nextCut (now : Nat) (d : Delivery) : Option Delivery :=
  if d.cuts.length ≤ 1 then none
  else
    let l := d.cuts.drop 1
    some { d with cuts := l, sent := 0, start := max (now + hostCrossing) d.start, timed := l.head?.any Cut.timed, events := 0, cause := 0,
                  throttle := 0, heldBack := true, overdue := false, hold := none }

def endCut (now : Nat) (d : Delivery) (x : Port) : Port :=
  match nextCut now (sentBeat (beatLen d) d) with
  | some e => { x with dlvs := x.dlvs.map fun y => if y.id = d.id then e else heldBackBy d y }
  | none => { x with dlvs := (x.dlvs.filter fun y => y.id != d.id).map (heldBackBy d) }

/-- The beat of a delivery. Without a token DLVn_TSEQ is 0. DESIGN CHOICE (log entry 54). -/
def beatOf (x : Port) (lane : Nat) (d : Delivery) : DlvBeat :=
  { lane := lane, kind := 0, core := d.buf / 4, sel := d.buf % 4, len := beatLen d, data := d.data.take (beatLen d),
    token := lastBeat d, tseq := if lastBeat d then Tbl.getD x.tseq d.buf 0 else 0 }

/-- The lanes after a beat presented in cycle `now`: a second beat of the cycle goes on lane 1 (R54). -/
def addBeat (now : Nat) (f : Nat → DlvBeat) (x : Port) : List DlvBeat :=
  if x.outAt = now ∧ x.out.length = 1 then x.out ++ [f 1] else [f 0]

def spendBeat (now : Nat) (d : Delivery) (x : Port) : Port :=
  { x with
    credit := Tbl.put x.credit d.buf (Tbl.getD x.credit d.buf 0 - 1)
    rrBuf := d.buf
    out := addBeat now (fun lane => beatOf x lane d) x
    outAt := now
    tseq := if lastBeat d then Tbl.put x.tseq d.buf ((Tbl.getD x.tseq d.buf 0 + 1) % 65536) else x.tseq }

/-- The burst of a delivery, found by its grant. -/
def burstOfGrant (s : State) (p id : Nat) : Option Nat :=
  (s.bursts.find? fun e => e.2.grant == some { port := p, id := id }).map Prod.fst

/-- The slot that a stream runs in, for the end of its feed. -/
def slotOfFeed (s : State) (d : Delivery) : Option Nat :=
  if d.slot = feedSlot d.stream then (Tbl.get? s.streams d.stream).bind Stream.slot else none

/-- What follows when the last token of a burst or feed is out. -/
def dlvEnded (p : Nat) (d : Delivery) (s : State) : State :=
  match burstOfGrant s p d.id with
  | some b => advanceSlot d.slot (updBurst b (fun x => { x with deliveries := 0 }) s)
  | none =>
    match slotOfFeed s d with
    | some n => endEntry n s
    | none => s

/-- Presents the next beat of a delivery. -/
def presentBeat (p : Nat) (d : Delivery) (s : State) : State :=
  let now := portCycle s p
  let tseq := Tbl.getD (portAt s p).tseq d.buf 0
  let s1 := markLanded d.slot s
  if lastBeat d then
    let s2 := setPort p (fun x => lowerNrdy d (endCut now d (spendBeat now d x))) (noteLate p d tseq s1)
    if d.cuts.length ≤ 1 then dlvEnded p d s2 else s2
  else setPort p (fun x => updDelivery d.id (sentBeat (beatLen d)) (spendBeat now d x)) s1

/-- Point 0x0026 holds a timed token (R503). -/
def holdToken (p : Nat) (d : Delivery) (s : State) : Option State :=
  if d.timed && lastBeat d && d.hold.isNone then
    (injFires s [0x26] p).map fun a =>
      updDlv p d.id (fun x => { x with hold := some (portCycle s p + fld a.arg.toNat 0 10) })
        (injEvent [0x26] p 2 (islQuarter (p / 16)) s)
  else none

def deliver (p : Nat) (d : Delivery) (s : State) : State :=
  match holdToken p d s with
  | some t => t
  | none =>
    presentBeat p d (if d.timed && lastBeat d && d.hold.isNone then injEvent [0x26] p 2 (islQuarter (p / 16)) s else s)

/-- PORT_DELIVERY: one beat of the buffer whose turn it is leaves the port (R52, R54, R55, R254, R264). -/
def execPortDelivery (p : Fin 64) (buf : Fin 64) (s : State) : Host.Outcome State Fault Refusal :=
  .next (match currentDlv (portAt s p.val) buf.val with
    | some d => if inService s && beatTurn s p.val == some buf.val then deliver p.val d s else s
    | none => s)

/-! DUE_TIME_CHECK (R261). -/

/-- Timed deliveries whose token has not left the port by their check. -/
def dueNow (s : State) (p : Nat) (d : Delivery) : Bool :=
  d.timed && !d.overdue && decide (dueOf d ≤ portCycle s p + hostCrossing)

def raiseDue (s : State) (p : Nat) (x : Port) : Port :=
  { x with
    dlvs := x.dlvs.map fun d => if dueNow s p d then { d with overdue := true } else d
    nrdy := x.dlvs.foldl (fun n d => if dueNow s p d then n ||| (1#64 <<< d.buf) else n) x.nrdy }

/-- DUE_TIME_CHECK (R56, R261). -/
def execDueTimeCheck (p : Fin 64) (s : State) : Host.Outcome State Fault Refusal :=
  .next (if inService s then setPort p.val (raiseDue s p.val) s else s)

/-! CREDIT_RETURN (R53). -/

def creditCount (cnt : BitVec 4) : Nat := if cnt = 0 then 16 else cnt.toNat

/-- A credit return for an operand buffer: the count rises to at most the size, and the fill falls. -/
def returnLines (p buf n : Nat) (s : State) : State :=
  let x := portAt s p
  let had := Tbl.getD x.credit buf 0
  let k := min n (bufSize s p buf - had)
  let f := fillOf x buf - k
  let s1 := setPort p (fun y => { y with credit := Tbl.put y.credit buf (had + k), fill := Tbl.put y.fill buf f }) s
  let s2 := if f < fillOf x buf then tellFill (some p, buf) f s1 else s1
  if k < n then bump 1 p 0 1 s2 else s2

def returnInbox (p slot n : Nat) (s : State) : State :=
  let had := Tbl.getD (portAt s p).inbox slot 0
  let k := min n (inboxSize s p slot - had)
  let s1 := setPort p (fun y => { y with inbox := Tbl.put y.inbox slot (had + k) }) s
  if k < n then bump 1 p 0 1 s1 else s1

/-- CREDIT_RETURN (R53, R235). -/
def execCreditReturn (p : Fin 64) (core : BitVec 4) (sel : BitVec 3) (cnt : BitVec 4) (s : State) :
    Host.Outcome State Fault Refusal :=
  .next (if !inService s then s
    else if sel.toNat < 4 then returnLines p.val (bufNo core.toNat sel.toNat) (creditCount cnt) s
    else if sel.toNat = 4 then returnInbox p.val core.toNat (creditCount cnt) s
    else bump 1 p.val 0 1 s)

/-! Return beats (R57). -/

def rkActivation : Nat := 0
def rkRead : Nat := 1
def rkWrite : Nat := 2
def rkMessage : Nat := 3

def beatAddr (b : RtnBeat) : Nat := 4 * b.addr.toNat

/-- The host core behind a slot of a port. -/
def coreNumber (s : State) (p slot : Nat) : Option Nat := (coreOfSlot s p slot).map Prod.fst

/-- The binding of a beat's source. -/
def boundKey (s : State) (p : Nat) (b : RtnBeat) : Option Nat :=
  (coreNumber s p b.core.toNat).bind fun c =>
    if Tbl.has s.bindings (bindKey c (b.sel.toNat % 4)) then some (bindKey c (b.sel.toNat % 4)) else none

/-- The cases in which R57 discards a beat. -/
def badBeat (s : State) (p : Nat) (b : RtnBeat) : Bool :=
  decide (4 ≤ b.kind.toNat) || b.len.toNat == 0 || decide (512 < b.len.toNat) ||
    ((b.kind.toNat == rkRead || b.kind.toNat == rkWrite) &&
      beatAddr b / 512 != (beatAddr b + b.len.toNat - 1) / 512) ||
    (b.kind.toNat == rkActivation && (boundKey s p b).isNone)

def laneOf (x : Port) (lane : Nat) : List (Nat × RtnBeat) := if lane = 0 then x.lane0 else x.lane1

def setLane (lane : Nat) (l : List (Nat × RtnBeat)) (x : Port) : Port := if lane = 0 then { x with lane0 := l } else { x with lane1 := l }

def pulse (lane : Nat) (x : Port) : Port := { x with rtnCredit := if lane = 0 then [1, 0] else [0, 1] }

/-- The port takes the first beat of a lane and returns its credit. -/
def takeBeat (p lane : Nat) (s : State) : State := setPort p (fun x => pulse lane (setLane lane ((laneOf x lane).drop 1) x)) s

/-- A beat joins its lane's FIFO. -/
def arriveBeat (lane : Nat) (beat : RtnBeat) (x : Port) : Port :=
  setLane lane (laneOf x lane ++ [(x.arrivals, beat)]) { x with arrivals := x.arrivals + 1 }

/-- RETURN_BEAT_ARRIVE (R57); point 0x0027 discards a beat. -/
def execReturnBeatArrive (p : Fin 64) (lane : Fin 2) (beat : RtnBeat) (s : State) : Host.Outcome State Fault Refusal :=
  .next (if !inService s then s
    else if 16 ≤ (laneOf (portAt s p.val) lane.val).length then bump 1 p.val 1 1 s
    else
      let forced := (injFires s [0x27] p.val).isSome
      let s1 := injEvent [0x27] p.val 2 (islQuarter (p.val / 16)) s
      if forced || badBeat s p.val beat then bump 1 p.val 1 1 (setPort p.val (pulse lane.val) s1)
      else setPort p.val (arriveBeat lane.val beat) s1)

/-- The first beat of a lane, of a kind. -/
def frontBeat (s : State) (p lane kind : Nat) : Option RtnBeat :=
  (((laneOf (portAt s p) lane).head?).map Prod.snd).filter fun b => b.kind.toNat == kind

/-- No beat of the same slot, of one of the kinds, arrived before the first of this lane and still waits in the other: the
beats of a source slot are taken in the order of their arrival (R347, R380, R395). -/
def inOrder (s : State) (p lane : Nat) (kinds : List Nat) : Bool :=
  match (laneOf (portAt s p) lane).head? with
  | some (n, b) =>
    (laneOf (portAt s p) (1 - lane)).all fun e => decide (n < e.1) || e.2.core != b.core || !kinds.contains e.2.kind.toNat
  | none => true

/-! ACTIVATION (R347, R348). -/

def binHolds (b : Binding) (n : Nat) : Bool := decide (b.held.length + n ≤ 4096)

def takeActivation (p lane k : Nat) (b : Binding) (x : RtnBeat) (s : State) : State :=
  let q := quantOf p
  let off := ((Tbl.get? s.streams b.stream).map Stream.disable).getD false
  if off then bump 4 q 3 1 (takeBeat p lane s)
  else if binHolds b x.len.toNat then
    let bytes := (List.range x.len.toNat).map fun i => BitVec.ofNat 8 (fld x.data.toNat (8 * i) 8)
    let n := (quantAt s q).arrivals
    takeBeat p lane (setQuant q (fun y => { y with arrivals := n + 1 })
      { s with bindings := Tbl.put s.bindings k { b with held := b.held ++ bytes, heldBeats := b.heldBeats ++ [(n, x.len.toNat)] } })
  else bump 4 q 4 1 s

/-- ACTIVATION (R347, R348, R374). -/
def execActivation (p : Fin 64) (lane : Fin 2) (s : State) : Host.Outcome State Fault Refusal :=
  .next (match frontBeat s p.val lane.val rkActivation with
    | none => s
    | some x =>
      if !(inService s && fnTakes s (quantFn (quantOf p.val)) && inOrder s p.val lane.val [rkActivation]) then s
      else
        match (boundKey s p.val x).bind fun k => (Tbl.get? s.bindings k).map fun b => (k, b) with
        | some (k, b) => takeActivation p.val lane.val k b x s
        | none => bump 1 p.val 1 1 (takeBeat p.val lane.val s))

end Sys2Proof.Machine
end

