-- ==== Sys2Proof/Machine/Expand.lean ====
section
/-! DEFINITION. Expanders: block credits and the base cache, and the decoding of a block (10_compression.md, R333 to R340). -/

namespace Sys2Proof.Machine

/-! EXPANDER_CREDIT_REQUEST (R333). -/

/-- The block of the slot's next burst, where that burst needs a credit. -/
def creditBlock (s : State) (x : Slot) (t : Tile) : Option Nat :=
  if isExpand x.desc && t.translated && !tileSpent t && x.creditHeld.isNone && !x.release && x.failing.isNone &&
      runningCtx s x.stream && !pacedNow s x.stream then nextBlock x.desc t
  else none

/-- Marks the base-cache entry most recently used and pins it; `data` is kept. -/
def touchLine (base block : Nat) (x : Expander) : Expander :=
  match lineFor x base block with
  | some l => { x with cache := { l with pins := l.pins + 1 } :: x.cache.erase l }
  | none => x

def freeLine (x : Expander) : Bool := decide (x.cache.length < 16) || x.cache.any fun l => l.pins == 0

/-- Reserves and pins an entry for a base block, in place of the least recently used one that is not pinned. -/
def reserveLine (base block : Nat) (x : Expander) : Expander :=
  let l : BaseLine := { base := base, block := block, data := [], pins := 1 }
  if x.cache.length < 16 then { x with cache := l :: x.cache }
  else
    match findLast (fun y => y.pins == 0) x.cache with
    | some v => { x with cache := l :: x.cache.erase v }
    | none => x

def baseSite (k : Nat) (x : Expander) (base block : Nat) : EccSite :=
  soundSite 0x08 k (x.cache.findIdx fun l => l.base == base && l.block == block) 1024 (islExpander k) 0 9 [0x0B]

/-- The expander holds the base block. -/
def baseHit (x : Expander) (base block : Nat) : Bool := (lineFor x base block).any fun l => !l.data.isEmpty

def dropLineData (base block : Nat) (x : Expander) : Expander :=
  { x with cache := x.cache.map fun l => if l.base = base ∧ l.block = block then { l with data := [] } else l }

def missBase (k base block : Nat) (s : State) : State :=
  bump 3 k 4 1 (setExpander k (fun x =>
    let y := { x with winMiss := x.winMiss + 1 }
    if (lineFor y base block).isSome then touchLine base block y else reserveLine base block y) s)

/-- Answers for the base block: a hit pins it; a miss, or a hit that its check fails, will read it. -/
def answerBase (k base block : Nat) (s : State) : State :=
  let x := expanderAt s k
  if baseHit x base block then
    let site := baseSite k x base block
    let s1 := soundRead .quiet site s
    if badRead .quiet site s then missBase k base block (setExpander k (dropLineData base block) s1)
    else bump 3 k 3 1 (setExpander k (touchLine base block) s1)
  else missBase k base block s

/-- The block and pin that the slot's request wants of expander `k`. -/
def creditWant (s : State) (k n : Nat) : Option (Option (Nat × Nat)) :=
  match (Tbl.get? s.slots n).bind fun x => x.cur.map fun t => (x, t) with
  | some (x, t) =>
    if expanderOf s (slotMover n) x.desc = k then
      (creditBlock s x t).map fun va => if needsBase x.desc t va then some (xBase x.desc, baseNumber s x.desc va) else none
    else none
  | none => none

/-- A credit is free, and an entry where one is needed. -/
def creditFree (x : Expander) (pin : Option (Nat × Nat)) : Bool :=
  decide (x.used < 32) && pin.all fun p => (lineFor x p.1 p.2).isSome || freeLine x

/-- Slots whose requests could be granted now, slot `n` among those that wait: each waits only for its own want (R333). -/
def creditAskers (s : State) (k n : Nat) : List Nat :=
  let l := (expanderAt s k).waiting
  (if l.contains n then l else l ++ [n]).filter fun m => (creditWant s k m).any (creditFree (expanderAt s k))

/-- The movers that ask take turns (R22). -/
def creditTurn (s : State) (k n : Nat) : Bool :=
  let l := creditAskers s k n
  ((expanderAt s k).arb.turn (l.map slotMover)).any fun mv => (l.find? fun m => slotMover m == mv) == some n

/-- The credit is answered. -/
def giveCredit (k n : Nat) (pin : Option (Nat × Nat)) (s : State) : State :=
  let s1 := match pin with
    | some (b, m) => answerBase k b m s
    | none => s
  updSlot n (fun x => { x with creditHeld := some k, creditAsked := false, pin := pin })
    (setExpander k (fun x => { x with used := x.used + 1, waiting := x.waiting.filter fun w => w != n,
                                      arb := x.arb.grant ((creditAskers s k n).map slotMover) (slotMover n) }) s1)

def waitCredit (k n : Nat) (s : State) : State :=
  updSlot n (fun x => { x with creditAsked := true })
    (setExpander k (fun x => if x.waiting.contains n then x else { x with waiting := x.waiting ++ [n] }) s)

def baseFailure (t : Tile) (va : Nat) : Failure :=
  { status := stBaseMismatch, addr := va, write := false, seq := accessSeq ((t.rest.head?.map Prod.fst).getD 0) 0 va, detail := 0,
    needs := none }

def askCredit (n : Nat) (x : Slot) (t : Tile) (va : Nat) (s : State) : State :=
  let k := expanderOf s (slotMover n) x.desc
  let nb := baseNumber s x.desc va
  let pin := if needsBase x.desc t va then some (xBase x.desc, nb) else none
  if pin.isSome && decide (((Tbl.get? s.bases (xBase x.desc)).map Base.blocks).getD 0 ≤ nb) then
    advanceSlot n (updSlot n (fun y => { y with failing := some ((baseFailure t va).first y.failing), creditAsked := false })
      (setExpander k (fun e => { e with waiting := e.waiting.filter fun w => w != n }) (bump 3 k 5 1 s)))
  else if creditTurn s k n then giveCredit k n pin s
  else waitCredit k n s

/-- EXPANDER_CREDIT_REQUEST: the request, or the answer to one that waited (R333, R336). -/
def execExpanderCreditRequest (slot : Fin 3072) (s : State) : Host.Outcome State Fault Refusal :=
  .next (match (Tbl.get? s.slots slot.val).bind fun x => x.cur.map fun t => (x, t) with
    | some (x, t) =>
      (match creditBlock s x t with
      | some va =>
        if inService s && fnTakes s (moverFn (slotMover slot.val)) && fnTakes s (expanderFn (expanderOf s (slotMover slot.val) x.desc)) then
          askCredit slot.val x t va s
        else s
      | none => s)
    | none => s)

/-! EXPANDER_BLOCK (R334 to R340). -/

def rowsBytes (g : Got) (a n : Nat) : List Byte := gotBytes g false a n

/-- The base block's bytes: read by the burst, or held by the cache. -/
def baseBytes (s : State) (d : Desc) (b : Burst) (va : Nat) : List Byte :=
  if b.got.any fun r => r.1 == rowKey false (baseVa d va) then rowsBytes b.got (baseVa d va) 4096
  else ((lineFor (expanderAt s b.expander) (xBase d) (baseNumber s d va)).map BaseLine.data).getD []

/-- Element number within its block. -/
def elemInBlock (d : Desc) (off : Int) : Nat :=
  let a := srcByte d off % 4096
  if srcBits d = 4 then 2 * a + (off % 2).toNat else a / (srcBits d / 8)

/-- CMP_CHECK_FAIL (R339). -/
def checkRec (s : State) (k : Nat) (b : Burst) (gen va reason stored found : Nat) : PeatRec :=
  mkRec s 0x041 1 (islExpander k) [b.stream, reason, va / 4096]
    [pack [(27, 0), (5, k), (4, reason), (8, gen), (20, b.stream)], pack [(48, va)], pack [(32, found), (32, stored)]]

/-- CMP_ESCAPE_RATE (R340). -/
def escapeRec (s : State) (k : Nat) (x : Expander) : PeatRec :=
  mkRec s 0x040 1 (islExpander k) [k] [pack [(16, min x.winMiss 0xFFFF), (16, x.winEsc), (27, 0), (5, k)]]

/-- A window of 4,096 decoded blocks ends. -/
def closeWindow (k : Nat) (needs : Option Nat) (s : State) : State :=
  let x := expanderAt s k
  if x.winBlocks < 4096 then s
  else
    let s1 := if 256 < x.winEsc then setCause 9 k (offer needs (escapeRec s k x) s) else s
    setExpander k (fun y => { y with winBlocks := 0, winEsc := 0, winMiss := 0 }) s1

/-- Adds an event to a burst (R258). -/
def chargeEvent (bid n bit : Nat) (s : State) : State :=
  if n = 0 then s else updBurst bid (fun b => { b with charge := satAdd 16 b.charge n, cause := b.cause ||| bit }) s

/-- Cycles a block occupies the expander (R334). -/
def blockCycles (rows patches : Nat) (esc : Bool) : Nat := if esc then 8 else max (ceilDiv (64 * rows) 512) 4 + patches

/-- Port cycles of a block (R335). -/
def portCycles (d : Desc) (b : Burst) : Nat := if d.dstSpace = spCore then linesFor (burstBytes d b.segs) else 4

/-- The block has left: its credit and pin are free, and the lag moves. -/
def leaveBlock (bid : Nat) (b : Burst) (e p : Nat) (s : State) : State :=
  setExpander b.expander (fun x => { freeCredit b.pin x with lag := x.lag + e - p, winBlocks := x.winBlocks + 1 })
    (updBurst bid (fun y => { y with block := none, pin := none }) s)

/-- Keeps a base block that the burst has read. -/
def keepBase (d : Desc) (b : Burst) (va : Nat) (s : State) : State :=
  let l := baseBytes s d b va
  setExpander b.expander (fun x => { x with cache := x.cache.map fun y =>
    (if y.base = xBase d ∧ y.block = baseNumber s d va then { y with data := l } else y) }) s

/-- ESCAPE blocks of the window; point 0x0024 makes the count 256 first (R503). -/
def escapeCount (forced : Bool) (n : Nat) : Nat := (bif forced then max 256 n else n) + 1

/-- An ESCAPE block passes untouched. -/
def passEscape (bid k : Nat) (d : Desc) (b : Burst) (va : Nat) (s : State) : State :=
  let forced := (injFires s [0x24] k).isSome
  let needs := injNeeds [0x24] k 1 (islExpander k) s
  let s1 := injEvent [0x24] k 1 (islExpander k) s
  let s2 := setExpander k (fun x => { x with winEsc := escapeCount forced x.winEsc }) s1
  let s3 := chargeEvent bid (if xMode d = 1 then 7 else 6) 8 (bump 3 k 1 1 (bump 3 k 0 1 s2))
  let raw := rowsBytes b.got va 4096
  takeData bid (fun off => packedElem (srcBits d) raw (elemInBlock d off))
    (closeWindow k needs (leaveBlock bid b (blockCycles 64 0 true) (portCycles d b) s3))

/-- A block that fails a check: recorded where R336 says, and its stream halts. -/
def failBlock (bid k : Nat) (b : Burst) (va : Nat) (h : Header) (f : BlockFault) (needs : Option Nat) (s : State) : State :=
  let gen := ((Tbl.get? s.streams b.stream).map Stream.gen).getD 0
  let s0 := bump 3 k 5 1 (setExpander k (freeCredit b.pin) (updBurst bid (fun y => { y with block := none, pin := none }) s))
  let fail := fun (st : Nat) (n : Option Nat) => ({ status := st, addr := va, write := false, seq := accessSeq ((b.segs.head?.map Prod.fst).getD 0) 0 va, detail := 0, needs := n } : Failure)
  match f with
  | .check reason found =>
    let r := checkRec s0 k b gen va reason h.crc found.toNat
    advanceSlot b.slot (noteFail bid (fail stCmpCheck (offeredIn needs r s0)) (offer needs r s0))
  | .base => advanceSlot b.slot (noteFail bid (fail stBaseMismatch needs) s0)
  | .table => advanceSlot b.slot (noteFail bid (fail stTableRetired needs) s0)

def tableSite (k slot : Nat) : EccSite := soundSite 0x09 k slot 16 (islExpander k) 0 9 [0x0C]

/-- A COMPRESSED block: checked, decoded, patched. -/
def decodeBlock (env : Env) (bid k : Nat) (d : Desc) (b : Burst) (va : Nat) (s : State) : State :=
  let p := rowsBytes b.got va (payloadLen d)
  let h := readHeader p
  let forced := (injFires s [0x23] k).isSome
  let needs := injNeeds [0x23] k 1 (islExpander k) s
  let s1 := injEvent [0x23] k 1 (islExpander k) s
  match (if forced then some (.check 0 (~~~(crc32c ((p.take (payloadLen d)).drop 4)))) else blockFault s1 d va p) with
  | some f => failBlock bid k b va h f needs (if xBase d = 0 then s1 else keepBase d b va s1)
  | none =>
    let s2 := soundRead env (tableSite k (xSlot d)) s1
    let base := if xBase d = 0 then [] else baseBytes s2 d b va
    let s3 := if xBase d = 0 then s2 else keepBase d b va s2
    let s4 := chargeEvent bid h.patches 4 (bump 3 k 2 h.patches (bump 3 k 0 1 s3))
    let table := tableOf s4 d
    takeData bid (fun off => decodeElem d p base table (elemInBlock d off))
      (closeWindow k none (leaveBlock bid b (blockCycles b.got.length h.patches false) (portCycles d b) s4))

/-- A block enters the expander and is charged the lag as it stands (R335). -/
def enterBlock (bid k : Nat) (s : State) : State :=
  let lag := (expanderAt s k).lag
  chargeEvent bid lag 16 (if lag = 0 then s else bump 3 k 6 lag s)

def runBlock (env : Env) (bid k : Nat) (s : State) : State :=
  let s0 := setExpander k (fun x => { x with input := x.input.filter fun i => i != bid }) s
  match Tbl.get? s0.bursts bid with
  | none => s0
  | some b =>
    match (Tbl.get? s0.slots b.slot).bind fun x => x.cur.map fun t => (x.desc, t), b.block with
    | some (d, t), some va =>
      let s1 := enterBlock bid k s0
      if isEscape d t va then passEscape bid k d b va s1 else decodeBlock env bid k d b va s1
    | _, _ => s0

/-- EXPANDER_BLOCK (R334 to R340). -/
def execExpanderBlock (x : Fin 32) (env : Env) (s : State) : Host.Outcome State Fault Refusal :=
  .next (match (expanderAt s x.val).input with
    | bid :: _ => if inService s && fnTakes s (expanderFn x.val) then runBlock env bid x.val s else s
    | [] => s)

end Sys2Proof.Machine
end

