-- ==== Sys2Proof/Machine/Mere.lean ====
section
/-! DEFINITION. The Mere as jobs and cores see it: allocations, and the reads and writes of cores (12_mere_and_queues.md,
R378 to R383). -/

namespace Sys2Proof.Machine

/-! Beats to cores other than operands (R52, R390, R393). -/

def dkMessage : Nat := 1
def dkMereData : Nat := 2
def dkNack : Nat := 3

/-- A beat that completes no delivery. -/
def plainBeat (kind slot sel : Nat) (data : List Byte) : DlvBeat :=
  { lane := 0, kind := kind, core := slot, sel := sel, len := data.length, data := data, token := false, tseq := 0 }

def onLanes (l : List DlvBeat) : List DlvBeat := l.mapIdx fun i b => { b with lane := i % 2 }

/-- The beat that the same cycle has shown and that leaves a lane for another. -/
def shownNow (now : Nat) (x : Port) : List DlvBeat := if x.outAt = now ∧ x.out.length = 1 then x.out else []

/-- Presents the beats of a step at a port, beside one that the same cycle has shown. -/
def showBeats (now : Nat) (l : List DlvBeat) (x : Port) : Port := { x with out := onLanes (shownNow now x ++ l), outAt := now }

/-- Presents beats at their ports. -/
def presentAll (l : List (Nat × DlvBeat)) (s : State) : State :=
  (dedupe (l.map Prod.fst)).foldl (fun t p =>
    setPort p (showBeats (portCycle s p) ((l.filter fun e => e.1 == p).map Prod.snd)) t) s

def headerBytes (h : BitVec 256) : List Byte := natToBytes 32 h.toNat

def nackBeat (slot : Nat) (h : BitVec 256) : DlvBeat := plainBeat dkNack slot 0 (headerBytes h)

/-- The device's own ID, 0 while ID_VALID is 0 (R379, R391). -/
def ownDevice (s : State) : Nat := if s.cw.idValid then s.cw.deviceId else 0

def globalCore (s : State) (core : Nat) : Nat := ownDevice s * 1024 + core

/-- The core behind a slot; for a slot that no entry of the map declares, a free value. -/
def senderCore (s : State) (p slot : Nat) : Nat := (coreNumber s p slot).getD (freeVal 10 s).toNat

/-! Core requests (R379, R380). -/

/-- Header of a MERE_NACK (R379). -/
def mereNackHdr (s : State) (status core tag len addr : Nat) (write : Bool) : BitVec 256 :=
  let g := globalCore s core
  BitVec.ofNat 256 (pack [(12, 0), (4, 4), (20, g), (24, 0), (4, 0), (20, g), (44, 0), (26, addr / 4), (6, 0), (8, tag), (1, b2n write),
    (7, 0), (10, len), (6, 0), (56, 0), (8, status)])

/-- A MERE_NACK beat for a port. -/
def mereNackBeat (s : State) (p slot status tag len addr : Nat) (write : Bool) : Nat × DlvBeat :=
  (p, nackBeat slot (mereNackHdr s status (senderCore s p slot) tag len addr write))

/-- A MERE_NACK is counted by the slice of the port's quarter (R412). -/
def countMereNack (p : Nat) (s : State) : State := freeNext (bump 5 (p / 16) 5 1 s)

def mereNack (p slot status tag len addr : Nat) (write : Bool) (s : State) : State :=
  countMereNack p (presentAll [mereNackBeat s p slot status tag len addr write] s)

/-- The grant of an allocation covers a core's request. -/
def coreMay (a : MereAlloc) (core : Option Nat) (write : Bool) : Bool :=
  (core.any fun c => decide (a.firstCore ≤ c ∧ c < a.firstCore + a.coreCount)) && (if write then a.perm == 2 else a.perm == 1 || a.perm == 2)

/-- Why a core's request is refused, if it is. -/
def coreCheck (s : State) (core : Option Nat) (write : Bool) (a n : Nat) : Option Nat :=
  if (pagesOf a n).any fun p => (pageOwner s p).isNone then some stUnmapped
  else if (pagesOf a n).all fun p => (pageOwner s p).any fun x => coreMay x core write then none
  else some stProtection

def rowsOf (a n : Nat) : List Nat := if n = 0 then [] else (List.range ((a + n - 1) / 64 - a / 64 + 1)).map fun i => (a / 64 + i) * 64

/-- The bytes of a write beat that are enabled, by Mere address. -/
def beatCells (b : RtnBeat) : List Host.Cell :=
  (List.range b.len.toNat).filterMap fun i =>
    if b.be.getLsbD (i / 8) then some (beatAddr b + i, BitVec.ofNat 8 (fld b.data.toNat (8 * i) 8)) else none

/-- Data and mask of one row of a set of bytes. -/
def cellsRow (l : List Host.Cell) (row : Nat) : BitVec 512 × BitVec 512 :=
  (l.filter fun c => c.1 / 64 == row / 64).foldl (fun x c =>
    (BitVec.ofNat 512 (setFld x.1.toNat (8 * (c.1 % 64)) 8 c.2.toNat), x.2 ||| (0xFF#512 <<< (8 * (c.1 % 64))))) (0, 0)

def coreReqRow (p rd id a : Nat) (write : Bool) (data mask : BitVec 512) : MemReq :=
  { id := id, target := .mere (bankOf a), addr := a, latch := a, write := write, merge := false, merged := false, key := 0,
    oldKey := none, data := data, mask := mask, adds := [], addTyp := 0, addCast := 0, sums := [], who := .core p rd, unit := 128 + p, segment := p / 16, res := none, charge := 0, cause := 0, needs := none }

/-- The rows of a beat that are accessed: all that a read names, those a write writes a byte of. -/
def beatRows (b : RtnBeat) : List (Nat × BitVec 512 × BitVec 512) :=
  ((rowsOf (beatAddr b) b.len.toNat).map fun a => (a, cellsRow (beatCells b) a)).filter fun r =>
    b.kind.toNat == rkRead || r.2.2 != 0

/-- A permitted request enters the crossbar. -/
def enterCrossbar (p : Nat) (b : RtnBeat) (s : State) : State :=
  let write := b.kind.toNat == rkWrite
  let rd := (portAt s p).nextRead
  let l := (beatRows b).mapIdx fun i r => coreReqRow p rd (s.mem.nextReq + i) r.1 write r.2.1 r.2.2
  let c : CoreReq :=
    { id := rd, slot := b.core.toNat, tag := b.sel.toNat, addr := beatAddr b, len := b.len.toNat, write := write,
      reqs := l.map MemReq.id, rows := [], failed := false }
  setPort p (fun x => { x with reads := if l.isEmpty then x.reads else x.reads ++ [c], nextRead := x.nextRead + 1 })
    { s with mem := { s.mem with reqs := s.mem.reqs ++ l, nextReq := s.mem.nextReq + l.length } }

def takeMereBeat (p lane : Nat) (b : RtnBeat) (s : State) : State :=
  let write := b.kind.toNat == rkWrite
  let s1 := copyLookup (p / 16) s
  match coreCheck s (coreNumber s p b.core.toNat) write (beatAddr b) b.len.toNat with
  | some st => mereNack p b.core.toNat st b.sel.toNat b.len.toNat (beatAddr b) write (takeBeat p lane s1)
  | none => if fnTakes s .mere then enterCrossbar p b (takeBeat p lane s1) else s

/-- MERE_READ (R379, R384). -/
def execMereRead (p : Fin 64) (lane : Fin 2) (s : State) : Host.Outcome State Fault Refusal :=
  .next (match frontBeat s p.val lane.val rkRead with
    | some b => if inService s && inOrder s p.val lane.val [rkRead, rkWrite] then takeMereBeat p.val lane.val b s else s
    | none => s)

/-- MERE_WRITE (R379, R384). -/
def execMereWrite (p : Fin 64) (lane : Fin 2) (s : State) : Host.Outcome State Fault Refusal :=
  .next (match frontBeat s p.val lane.val rkWrite with
    | some b => if inService s && inOrder s p.val lane.val [rkRead, rkWrite] then takeMereBeat p.val lane.val b s else s
    | none => s)

/-- The bytes that a read asked for, from its rows. -/
def coreData (c : CoreReq) : List Byte :=
  (List.range c.len).map fun i =>
    let a := c.addr + i
    BitVec.ofNat 8 (fld (((c.rows.find? fun r => r.1 == a / 64 * 64).map Prod.snd).getD 0).toNat (8 * (a % 64)) 8)

/-- Reads under one tag of one slot are answered in the order of their requests. -/
def answersFirst (x : Port) (c : CoreReq) : Bool :=
  x.reads.all fun d => d.write || d.slot != c.slot || d.tag != c.tag || decide (c.id ≤ d.id)

def endCoreReq (p id : Nat) (s : State) : State := setPort p (fun x => { x with reads := x.reads.filter fun c => c.id != id }) s

def answerCore (p : Nat) (c : CoreReq) (s : State) : State :=
  let s1 := endCoreReq p c.id s
  if c.failed then mereNack p c.slot stMereUnc c.tag c.len c.addr c.write s1
  else if c.write then s1
  else presentAll [(p, plainBeat dkMereData c.slot c.tag (coreData c))] s1

/-- MERE_READ_DATA: the port answers a request all of whose rows have been served (R380). -/
def execMereReadData (p : Fin 64) (idx : Nat) (s : State) : Host.Outcome State Fault Refusal :=
  .next (match (portAt s p.val).reads.find? fun c => c.id == idx with
    | some c =>
      if inService s && c.reqs.isEmpty && (c.write || answersFirst (portAt s p.val) c) then answerCore p.val c s else s
    | none => s)

/-! MERE_ALLOC (R381, R382). -/

def anyRun : Nat := 0xFFFFFFF

/-- Every page of the run is free. -/
def runFree (s : State) (page n : Nat) : Bool :=
  decide (page + n ≤ 65536) && s.allocs.all fun e => decide (page + n ≤ e.1 ∨ e.1 + e.2.pages ≤ page)

def alignUp (k v : Nat) : Nat := ceilDiv v k * k

/-- The lowest free run: it starts at the bottom or at the first aligned page after an allocation. -/
def lowestRun (s : State) (n align : Nat) : Option Nat :=
  ((0 :: s.allocs.map fun e => e.1 + e.2.pages).map (alignUp align)).find? fun p => runFree s p n

def mereAllocFlds (s : State) (_ : Nat) : List (Nat → List Fld) :=
  [fun _ => [
    chkB 1 100 28 fun b v => if v = anyRun then .ok else refuseUnless (v % 4096 == 0 && runFree s (v / 4096) (fld b 80 17)),
    rsvd 2 97 3,
    chk 3 80 17 fun v => refuseUnless (decide (1 ≤ v ∧ v ≤ 65536)),
    rsvd 4 77 3,
    chkB 5 72 5 fun b v => if fld b 100 28 = anyRun then clampIn 12 28 v else .ok,
    rsvd 6 64 8,
    chk 7 54 10 fun _ => .ok,
    chkB 8 43 11 fun b v => .setTo (min v (1024 - fld b 54 10)),
    chk 9 41 2 fun v => refuseUnless (v != 3),
    rsvd 10 0 41]]

def newAlloc (c : Cmd) : MereAlloc :=
  { pages := fld c.body 80 17, job := c.job, firstCore := fld c.body 54 10, coreCount := fld c.body 43 11,
    perm := fld c.body 41 2, withdrawing := false }

def putAlloc (p : Nat) (a : MereAlloc) (s : State) : State :=
  mirrorSend (.mereAlloc p a.pages a.job a.firstCore a.coreCount a.perm)
    (zeroPages (p * 4096) a.pages { s with allocs := Tbl.put s.allocs p a })

def allocMere (c : Cmd) (s : State) : State × Reply :=
  let n := fld c.body 80 17
  let addr := fld c.body 100 28
  match (if addr = anyRun then lowestRun s n (2 ^ (fld c.body 72 5 - 12)) else some (addr / 4096)) with
  | some p =>
    if mayCreate s c.job resMere n then (putAlloc p (newAlloc c) s, okWith 8 (p * 4096)) else (s, endWith stExhausted)
  | none => (s, endWith stExhausted)

def specMereAlloc : CmdSpec := { op := 0x0601, hw := false, sel := fun _ => true, flds := mereAllocFlds, act := allocMere }

/-- MERE_ALLOC (R381, R382). -/
def execMereAlloc (m : Fin 8) (s : State) : Host.Outcome State Fault Refusal := .next (runCmd specMereAlloc m s)

/-! MERE_FREE (R383). -/

def queueBytes (q : Queue) : Nat := if q.combining then q.size else 320 * q.depth

/-- Memory of a ring, a queue, a combining area or a window in the span. -/
def mereHeld (s : State) (a n : Nat) : Bool :=
  (s.rings.any fun e => e.2.place && spansMeet e.2.base (ringBytes e.2.sizeLog2) a n) ||
    (s.queues.any fun e => spansMeet e.2.base (queueBytes e.2) a n) ||
    s.cw.windows.any fun e => e.2.space == 1 && spansMeet e.2.base (e.2.length4k * 4096) a n

def mereFreeOk (s : State) (j v : Nat) : Bool :=
  v % 4096 == 0 &&
    (match Tbl.get? s.allocs (v / 4096) with
    | some x => !x.withdrawing && mayName j x.job && !mereHeld s v (x.pages * 4096)
    | none => false)

def mereFreeFlds (s : State) (j : Nat) : List (Nat → List Fld) :=
  [fun _ => [rsvd 1 28 4, chk 2 0 28 fun v => refuseUnless (mereFreeOk s j v)]]

def freeMere (c : Cmd) (s : State) : State × Reply :=
  let p := fld c.body 0 28 / 4096
  let n := ((Tbl.get? s.allocs p).map MereAlloc.pages).getD 0
  runWd c.m (baseWd c (.mere p) (p * 4096) n none) { s with allocs := Tbl.upd s.allocs p fun x => { x with withdrawing := true } }

def specMereFree : CmdSpec := { op := 0x0602, hw := false, sel := fun _ => true, flds := mereFreeFlds, act := freeMere }

/-- MERE_FREE (R383). -/
def execMereFree (m : Fin 8) (s : State) : Host.Outcome State Fault Refusal := .next (runCmd specMereFree m s)

end Sys2Proof.Machine
end

