-- ==== Sys2Proof/Machine/Queues.lean ====
section
/-! DEFINITION. Hardware queues: messages and how a slice decides them, combining queues, deliveries, and the queue commands
(12_mere_and_queues.md, R389 to R413). -/

namespace Sys2Proof.Machine

/-! Active messages (R389, R390). -/

def hdrKind (h : BitVec 256) : Nat := fld h.toNat 12 4
def hdrCore (h : BitVec 256) : Nat := fld h.toNat 16 10
def hdrDevice (h : BitVec 256) : Nat := fld h.toNat 26 10
def hdrLength (h : BitVec 256) : Nat := fld h.toNat 84 9
def hdrAck (h : BitVec 256) : Bool := fld h.toNat 93 1 == 1
def hdrOffset (h : BitVec 256) : Nat := fld h.toNat 128 16

def mkMessage : Nat := 0
def mkContribute : Nat := 1
def mkRearm : Nat := 2
def mkCombined : Nat := 3

def withStatus (h : BitVec 256) (status : Nat) : BitVec 256 := BitVec.ofNat 256 (setFld h.toNat 248 8 status)

/-- A header as it is delivered: STATUS and the reserved fields are zero. -/
def deliverHdr (h : BitVec 256) : BitVec 256 :=
  BitVec.ofNat 256 (setFld (setFld (setFld (setFld h.toNat 60 4 0) 94 2 0) 112 16 0) 192 64 0)

/-! Queues. -/

def nextGen (n : Nat) (s : State) : State := { s with queueGen := Tbl.put s.queueGen n ((queueGenOf s n + 1) % 256) }

def sliceNo (queue : Nat) : Nat := queue / 16384
def sliceFn (q : Nat) : Fn := .slice (Fin.ofNat 4 q)

def qFree : Nat := 0
def qOpen : Nat := 1
def qClosed : Nat := 2
def qArmed : Nat := 3
def qZeroing : Nat := 4
def qComplete : Nat := 5

/-- The counters of R412, by place. -/
def qcAccepted : Nat := 0
def qcDelivered : Nat := 1
def qcFull : Nat := 2
def qcOther : Nat := 3
def qcDiscarded : Nat := 4
def qcLost : Nat := 5

def noCounts : List Word64 := [0, 0, 0, 0, 0, 0]

def bumpQ (n idx k : Nat) (s : State) : State :=
  { s with queueCnt := Tbl.put s.queueCnt n (updAt (Tbl.getD s.queueCnt n noCounts) idx fun c => c + BitVec.ofNat 64 k) }

def sliceBump (q idx n : Nat) (s : State) : State := bump 5 q idx n s

/-- Messages held in slots. -/
def heldMsgs (q : Queue) : Nat := q.slots.length

/-- Messages held: in slots, or the COMBINED message of a complete round (R394). -/
def fillOfQueue (q : Queue) : Nat := if q.combining then b2n q.combined.isSome else heldMsgs q

def queueFill (s : State) (n : Nat) : Nat := ((queueAt s n).map fillOfQueue).getD 0

/-- Frees a number: its generation advances, and streams it paced see no fill (R399). -/
def freeQueue (n : Nat) (s : State) : State :=
  tellFill (none, n) 0 (nextGen n { s with queues := Tbl.del s.queues n })

/-- The fill has fallen: the movers are told, and a number that waits to be freed is freed once nothing is held. -/
def afterFall (n : Nat) (s : State) : State :=
  match queueAt s n with
  | some q => if q.freePending && fillOfQueue q == 0 then freeQueue n s else tellFill (none, n) (fillOfQueue q) s
  | none => s

/-- The request writes a slot of the queue, and of the given ones. -/
def slotOf (n : Nat) (l : Option Nat) (r : MemReq) : Bool :=
  match r.who with
  | .slot m i => m == n && l.all fun j => i == j
  | _ => false

/-- A message in slot `i` has not wholly landed. -/
def slotLanding (s : State) (n i : Nat) : Bool := s.mem.reqs.any (slotOf n (some i))

/-- Additions to the area of the queue are under way. -/
def areaLanding (s : State) (n : Nat) : Bool :=
  s.mem.reqs.any fun r => match r.who with
    | .area m _ => m == n
    | _ => false

/-- Discards the held messages into a counter, with what of them has not landed. -/
def discardHeld (n idx : Nat) (s : State) : State :=
  let k := queueFill s n
  if k = 0 then s
  else
    bumpQ n idx k (updQueue n (fun q => { q with slots := [], combined := none })
      { s with mem := { s.mem with reqs := s.mem.reqs.filter fun r => !slotOf n none r } })

/-- A reader reset (R400). A new round begins at ARMED. -/
def resetQueue (n idx : Nat) (s : State) : State :=
  let k := queueFill s n
  let s1 := nextGen n (updQueue n (fun q =>
    { q with state := if q.combining then qArmed else qOpen, count := 0, roundErr := 0 }) (discardHeld n idx s))
  if k = 0 then s1 else afterFall n s1

/-! Slots and areas in the Mere (R394, R404, R406). -/

/-- The request of a slice for a row of the Mere, through its quarter's segment of the crossbar (R384). -/
def sliceReq (n : Nat) (who : Who) (id a : Nat) (data mask : BitVec 512) (typ : Nat) (adds : List (Nat × Nat)) : MemReq :=
  { coreReqRow 0 0 id a true data mask with
    who := who, unit := 192 + sliceNo n, segment := sliceNo n, addTyp := typ, adds := adds }

/-- Rows that hold the bytes, each with its request. -/
def slotReqs (n i : Nat) (l : List Host.Cell) (s : State) : List MemReq :=
  (dedupe (l.map fun c => c.1 / 64 * 64)).mapIdx fun k a =>
    sliceReq n (.slot n i) (s.mem.nextReq + k) a (cellsRow l a).1 (cellsRow l a).2 0 []

def cellsFrom (a : Nat) (l : List Byte) : List Host.Cell := l.mapIdx fun i b => (a + i, b)

/-- A message as its slot holds it, filled up to whole words. -/
def slotBytes (m : Msg) : List Byte :=
  headerBytes (deliverHdr m.hdr) ++ m.payload ++ List.replicate ((4 - m.payload.length % 4) % 4) 0

def slotAddr (q : Queue) (i : Nat) : Nat := q.base + 320 * (i % max q.depth 1)

/-- The next slot in turn; one that still holds a message, behind a lost one, is passed over. -/
def nextSlot (q : Queue) : Nat :=
  let d := max q.depth 1
  (((List.range (heldMsgs q + 1)).map fun i => (q.tailSlot + i) % d).find? fun i => !q.slots.contains i).getD (q.tailSlot % d)

/-- The message goes to the next slot: it is held from now on, and its rows are requested. -/
def writeSlot (n : Nat) (q : Queue) (m : Msg) (s : State) : State :=
  let i := nextSlot q
  updQueue n (fun x => { x with tailSlot := (i + 1) % max x.depth 1, slots := x.slots ++ [i] })
    (addReqs (slotReqs n i (cellsFrom (slotAddr q i) (slotBytes m)) s) s)

/-- Reads rows through the segment of quarter `g` one after another; nothing once one is uncorrectable. -/
def readRows (env : Env) (g : Nat) : List Nat → State → State × Option (List Host.Cell)
  | [], s => (s, some [])
  | a :: as, s =>
    let r := readRowAt env (.mere a g) 4 s
    let x := readRows env g as r.st
    (x.1, if r.status = stOk then x.2.map fun l => cellsFrom a (natToBytes 64 r.row.toNat) ++ l else none)

def cellAt (l : List Host.Cell) (a : Nat) : Byte := ((l.find? fun c => c.1 == a).map Prod.snd).getD 0

def bytesAt (l : List Host.Cell) (a n : Nat) : List Byte := (List.range n).map fun i => cellAt l (a + i)

/-- The message in a slot: its header, then the payload that the header gives. -/
def readSlot (env : Env) (g a : Nat) (s : State) : State × Option Msg :=
  let x := readRows env g (rowsOf a 32) s
  match x.2 with
  | none => (x.1, none)
  | some l =>
    let h := BitVec.ofNat 256 (bytesToNat (bytesAt l a 32))
    let n := min (hdrLength h) 256
    let y := readRows env g ((rowsOf a (32 + n)).filter fun r => !(rowsOf a 32).contains r) x.1
    (y.1, y.2.map fun k => { hdr := h, payload := bytesAt (l ++ k) (a + 32) n })

/-- Zeroes an area (R403, R406). -/
def zeroArea (a n : Nat) (s : State) : State :=
  mirrorWrite (.mereWrite a (List.replicate n 0))
    { s with mem := { s.mem with
        mere := cellErase s.mem.mere a n
        mereBad := s.mem.mereBad.filter fun w => !decide (a / 4 ≤ w ∧ w < (a + n) / 4) } }

def typeBytes (t : Nat) : Nat := typeBits t / 8

/-- Elements of a payload, lowest first. -/
def elemsOf (t : Nat) (l : List Byte) : List Nat :=
  (List.range (l.length / typeBytes t)).map fun i => bytesToNat ((l.drop (i * typeBytes t)).take (typeBytes t))

/-- The part of a contribution that lies in a row: elements by address. -/
def elemsInRow (t a row : Nat) (l : List Byte) : List (Nat × Nat) :=
  (((elemsOf t l).mapIdx fun i v => (a + i * typeBytes t, v))).filter fun e => e.1 / 64 == row / 64

def wordMask (l : List (Nat × Nat)) : BitVec 512 := l.foldl (fun m e => m ||| (0xFFFFFFFF#512 <<< (32 * (e.1 % 64 / 4)))) 0

/-- Rows of the area that a contribution adds to, each with its request; the bank adds (R250, R404). -/
def areaReqs (n : Nat) (q : Queue) (m : Msg) (s : State) : List MemReq :=
  let a := q.base + hdrOffset m.hdr
  (rowsOf a m.payload.length).mapIdx fun k row =>
    let l := elemsInRow q.typ a row m.payload
    sliceReq n (.area n (queueGenOf s n)) (s.mem.nextReq + k) row 0 (wordMask l) q.typ (l.map fun e => (8 * (e.1 % 64), e.2))

def addAll (n : Nat) (q : Queue) (m : Msg) (s : State) : State := addReqs (areaReqs n q m s) s

/-! Answers (R393, R396). -/

/-- A state, the beats it presents, and whether the message has left its sender's port. -/
structure Decided where
  st : State
  beats : List (Nat × DlvBeat)
  taken : Bool

def notYet (s : State) : Decided := { st := s, beats := [], taken := false }

/-- Returns the header with a status to the sender: a NACK beat, or a packet to its device. -/
def answerMsg (o : Origin) (m : Msg) (status : Nat) (s : State) : Decided :=
  match o with
  | .core p slot => { st := s, beats := [(p, nackBeat slot (withStatus m.hdr status))], taken := true }
  | .remote _ k =>
    { st := respondTo k status opMessageResp 32 (headerBytes (withStatus m.hdr status)) s, beats := [], taken := true }

/-- An acceptance is answered to a core only where the message asks; to a device always, for its tag. -/
def acceptMsg (o : Origin) (m : Msg) (s : State) : Decided :=
  match o with
  | .core _ _ => if hdrAck m.hdr then answerMsg o m stOk s else { st := s, beats := [], taken := true }
  | .remote _ _ => answerMsg o m stOk s

/-- NACK_STORM (R408). -/
def stormRec (s : State) (n : Nat) (q : Queue) (m : Msg) (status : Nat) : PeatRec :=
  mkRec s 0x060 2 (islQuarter (sliceNo n)) [n, status]
    [pack [(12, 0), (20, hdrSource m.hdr), (8, status), (8, queueGenOf s n), (16, n)],
      pack [(48, ((Tbl.getD s.queueCnt n noCounts).getD qcAccepted 0).toNat), (16, q.storm)]]

/-- Counts a NACK of checks 5 to 8; the threshold writes a record and sets the slice's cause. -/
def countNack (n : Nat) (m : Msg) (status : Nat) (s : State) : State :=
  let s1 := bumpQ n (if status = stNackFull then qcFull else qcOther) 1 s
  match queueAt s1 n with
  | none => s1
  | some q =>
    if q.consec + 1 < q.storm then updQueue n (fun x => { x with consec := x.consec + 1 }) s1
    else setCause 4 (sliceNo n) (offer none (stormRec s1 n q m status) (updQueue n (fun x => { x with consec := 0 }) s1))

/-! Deliveries to readers (R394). -/

def readerPort (s : State) (q : Queue) : Nat := (coreEntry s q.reader).port
def readerSlot (s : State) (q : Queue) : Nat := (coreEntry s q.reader).slot

def inboxCredit (s : State) (q : Queue) : Bool := decide (0 < Tbl.getD (portAt s (readerPort s q)).inbox (readerSlot s q) 0)

def messageBeat (s : State) (q : Queue) (h : BitVec 256) (m : Msg) : Nat × DlvBeat :=
  (readerPort s q, plainBeat dkMessage (readerSlot s q) 0 (headerBytes h ++ m.payload))

def spendInbox (n : Nat) (q : Queue) (s : State) : State :=
  bumpQ n qcDelivered 1
    (setPort (readerPort s q) (fun x =>
      { x with inbox := Tbl.put x.inbox (readerSlot s q) (Tbl.getD x.inbox (readerSlot s q) 0 - 1) }) s)

/-! The checks (R392). -/

def isRemote : Origin → Bool
  | .remote _ _ => true
  | .core _ _ => false

/-- The TARGET device is this one (R396, R455). -/
def isHere (s : State) (d : Nat) : Bool :=
  if s.cw.idValid then d == s.cw.deviceId || (s.mirror.role == rolePrimary && s.mirror.paired && d == s.mirror.service) else d == 0

/-- Check 1; a service ID is answered only by its PRIMARY. -/
def fencedFor (s : State) (o : Origin) : Bool :=
  match o with
  | .core _ _ => s.mirror.role == roleFenced
  | .remote _ k => answersFenced s k.dst

/-- Check 2. `n` is the length of the beat or packet. -/
def msgMalformed (h : BitVec 256) (n : Nat) : Bool := decide (3 ≤ hdrKind h) || decide (256 < hdrLength h) || n != 32 + hdrLength h

/-- Check 4. -/
def noSuchQueue (s : State) (o : Origin) (h : BitVec 256) : Bool :=
  match queueAt s (hdrQueue h) with
  | none => true
  | some q => hdrCore h != q.reader || (isRemote o && !q.remote) || q.combining == (hdrKind h == mkMessage)

/-- Check 7. -/
def queueFull (q : Queue) (h : BitVec 256) : Bool :=
  if q.combining then q.state == qComplete && hdrKind h == mkContribute else decide (q.depth ≤ heldMsgs q)

/-- Check 8. -/
def badContribution (s : State) (q : Queue) (h : BitVec 256) : Bool :=
  if hdrKind h = mkContribute then
    hdrOffset h % typeBytes q.typ != 0 || hdrLength h % typeBytes q.typ != 0 || decide (q.size < hdrOffset h + hdrLength h)
  else hdrKind h == mkRearm && hdrSource h != globalCore s q.reader

/-- Checks 5 to 8 for a created queue. -/
def refusal (s : State) (q : Queue) (h : BitVec 256) : Option Nat :=
  if hdrGen h ≠ queueGenOf s (hdrQueue h) then some stNackStale
  else if q.state = qClosed then some stNackClosed
  else if queueFull q h then some stNackFull
  else if badContribution s q h then some stMalformed
  else none

/-- A message that passes every check cannot be carried out before the Mere takes work; a contribution not before a complete
round has become COMPLETE, a rearming not before the additions before it have landed. -/
def mustWait (s : State) (q : Queue) (h : BitVec 256) : Bool :=
  (refusal s q h).isNone &&
    (if hdrKind h = mkMessage then !(heldMsgs q == 0 && inboxCredit s q) && !fnTakes s .mere
    else !fnTakes s .mere || (if hdrKind h = mkContribute then decide (q.depth ≤ q.count) else areaLanding s (hdrQueue h)))

def waitingFor (s : State) (n : Nat) : List (Nat × Msg × Origin) :=
  (Tbl.getD s.slices (sliceNo n) Slice.reset).waiting.filter fun e => e.1 == n

/-- A contribution that meets an area being zeroed waits in the slice, and those after it wait behind it (R395, R406). -/
def waitsZeroing (s : State) (n : Nat) (q : Queue) (h : BitVec 256) : Bool :=
  hdrKind h == mkContribute && (q.state == qZeroing || !(waitingFor s n).isEmpty)

/-! Acceptance. -/

def accepted (n : Nat) (s : State) : State := bumpQ n qcAccepted 1 (updQueue n (fun q => { q with consec := 0 }) s)

def takePlain (n : Nat) (q : Queue) (o : Origin) (m : Msg) (s : State) : Decided :=
  if heldMsgs q = 0 ∧ inboxCredit s q = true then
    let d := acceptMsg o m (sliceBump (sliceNo n) 0 1 (spendInbox n q s))
    { d with beats := d.beats ++ [messageBeat s q (deliverHdr m.hdr) m] }
  else acceptMsg o m (writeSlot n q m s)

def takeContribution (n : Nat) (q : Queue) (o : Origin) (m : Msg) (s : State) : Decided :=
  acceptMsg o m (updQueue n (fun x => { x with count := x.count + 1 }) (addAll n q m s))

/-- REARM: zeroing begins (R406). -/
def takeRearm (n : Nat) (q : Queue) (o : Origin) (m : Msg) (s : State) : Decided :=
  let s1 := zeroArea q.base q.size (discardHeld n qcDiscarded s)
  let s2 := updQueue n (fun x =>
    { x with state := qZeroing, round := (x.round + 1) % 2 ^ 32, count := 0, roundErr := 0 }) s1
  acceptMsg o m (if q.combined.isSome then afterFall n s2 else s2)

def takeMsg (n : Nat) (q : Queue) (o : Origin) (m : Msg) (s : State) : Decided :=
  if hdrKind m.hdr = mkMessage then takePlain n q o m (accepted n s)
  else if hdrKind m.hdr = mkContribute then takeContribution n q o m (accepted n s)
  else takeRearm n q o m (accepted n s)

/-- Point 0x0029 turns an acceptance into a NACK (R503). -/
def stormPoint (n : Nat) (q : Queue) (o : Origin) (m : Msg) (s : State) : Decided :=
  let k := sliceNo n
  let forced := (injFires s [0x29] k).isSome
  let s1 := injEvent [0x29] k 2 (islQuarter k) s
  if forced then answerMsg o m stNackFull (countNack n m stNackFull s1) else takeMsg n q o m s1

/-- Checks 5 to 8 (R392). -/
def decideQueue (n : Nat) (q : Queue) (o : Origin) (m : Msg) (s : State) : Decided :=
  match refusal s q m.hdr with
  | some st =>
    let s1 := countNack n m st s
    answerMsg o m st (if st = stMalformed then sliceBump (sliceNo n) 4 1 s1 else s1)
  | none => stormPoint n q o m s

def holdContribution (n : Nat) (o : Origin) (m : Msg) (s : State) : Decided :=
  let k := sliceNo n
  let x := Tbl.getD s.slices k Slice.reset
  { st := { s with slices := Tbl.put s.slices k { x with waiting := x.waiting ++ [(n, m, o)] } }, beats := [], taken := true }

/-- The read of a queue's descriptor; an uncorrectable one resets the queue (R476). -/
def descSite (n : Nat) : EccSite := soundSite 0x0D (sliceNo n) (n % 16384) 8 (islQuarter (sliceNo n)) 0 4 [0x10]

def readDescriptor (env : Env) (n : Nat) (s : State) : State :=
  let s1 := reportBy (eccTrace env (descSite n) []) s
  if (eccLook env (descSite n) [] s).unc.isEmpty then s1 else resetQueue n qcLost s1

/-- Checks 4 to 8 at the slice of the queue. -/
def decideHere (env : Env) (o : Origin) (m : Msg) (s : State) : Decided :=
  let n := hdrQueue m.hdr
  if noSuchQueue s o m.hdr then
    answerMsg o m stNackNoQueue (sliceBump (sliceNo n) 2 1 (readDescriptor env n s))
  else
    match queueAt s n with
    | none => notYet s
    | some q =>
      if waitsZeroing s n q m.hdr then holdContribution n o m s
      else if mustWait s q m.hdr then notYet s
      else
        let s1 := readDescriptor env n s
        match queueAt s1 n with
        | some q1 => decideQueue n q1 o m s1
        | none => answerMsg o m stNackNoQueue s1

/-! Forwarding (R396, R440). -/

/-- A message for another device takes a tag of a port of its route. -/
def forwardMsg (o : Origin) (m : Msg) (s : State) : Decided :=
  let dst := hdrDevice m.hdr
  if !s.cw.idValid then answerMsg o m stUnreachable s
  else
    match routeFor s dst (msgKey m.hdr) with
    | none => answerMsg o m stUnreachable s
    | some p =>
      if !cwTakes s p || !crossOpen s (sliceNo (hdrQueue m.hdr)) (p / 8) then notYet s
      else
        match freeTag (cport s p) with
        | none => notYet s
        | some t =>
          let k : Packet := { src := s.cw.deviceId, dst := dst, hops := (routeOf s dst).hops, vc := 0,
                              hdr := packetHdr 0 opMessage (p * 1024 + t) (32 + m.payload.length) 0 0,
                              data := headerBytes m.hdr ++ m.payload, job := some 0 }
          let u : TagUse := { owner := .msg m (hdrSource m.hdr % 1024), write := false, offset := 0, dst := dst }
          { st := sendPacket p k (putTag p t u (sliceBump (sliceNo (hdrQueue m.hdr)) 1 1 s)), beats := [], taken := true }

/-- The quarter of the port that a message came in by. -/
def originQuarter : Origin → Nat
  | .core p _ => p / 16
  | .remote p _ => p / 8

/-- The slice of the queue decides a message, once it has crossed to its quarter (R71, R392). -/
def decideMsg (env : Env) (o : Origin) (m : Msg) (n : Nat) (s : State) : Decided :=
  let k := sliceNo (hdrQueue m.hdr)
  if !fnTakes s (sliceFn k) || !crossOpen s (originQuarter o) k then notYet s
  else if fencedFor s o then answerMsg o m stNackFenced (sliceBump k 3 1 s)
  else if msgMalformed m.hdr n then answerMsg o m stMalformed (sliceBump k 4 1 s)
  else if !isRemote o && !isHere s (hdrDevice m.hdr) then forwardMsg o m s
  else decideHere env o m s

/-! MESSAGE, CONTRIBUTE and REARM beats (R57, R391, R395). -/

def beatData (b : RtnBeat) : List Byte := (List.range b.len.toNat).map fun i => BitVec.ofNat 8 (fld b.data.toNat (8 * i) 8)

/-- The message of a beat, with SOURCE as the port sets it. -/
def beatMsg (s : State) (p : Nat) (b : RtnBeat) : Msg :=
  { hdr := BitVec.ofNat 256 (setFld (fld b.data.toNat 0 256) 64 20 (globalCore s (senderCore s p b.core.toNat))),
    payload := (beatData b).drop 32 }

/-- An earlier MERE_WRITE of the slot has not landed. -/
def writePending (s : State) (p slot : Nat) : Bool := (portAt s p).reads.any fun c => c.write && c.slot == slot && !c.reqs.isEmpty

def takeMessage (p lane : Nat) (env : Env) (kinds : Nat → Bool) (s : State) : State :=
  match frontBeat s p lane rkMessage with
  | none => s
  | some b =>
    let m := beatMsg s p b
    if inService s && kinds (hdrKind m.hdr) && inOrder s p lane [rkMessage, rkWrite] && !writePending s p b.core.toNat then
      let d := decideMsg env (.core p b.core.toNat) m b.len.toNat (freeNext s)
      if d.taken then presentAll d.beats (takeBeat p lane d.st) else s
    else s

/-- MESSAGE: a beat that is neither CONTRIBUTE nor REARM (R391 to R396). -/
def execMessage (p : Fin 64) (lane : Fin 2) (env : Env) (s : State) : Host.Outcome State Fault Refusal :=
  .next (takeMessage p.val lane.val env (fun k => k != mkContribute && k != mkRearm) s)

/-- CONTRIBUTE (R392, R404). -/
def execContribute (p : Fin 64) (lane : Fin 2) (env : Env) (s : State) : Host.Outcome State Fault Refusal :=
  .next (takeMessage p.val lane.val env (fun k => k == mkContribute) s)

/-- REARM (R392, R406). -/
def execRearm (p : Fin 64) (lane : Fin 2) (s : State) : Host.Outcome State Fault Refusal :=
  .next (takeMessage p.val lane.val .quiet (fun k => k == mkRearm) s)

/-! REMOTE_MESSAGE (R396). -/

def packetMsg (k : Packet) : Msg :=
  { hdr := BitVec.ofNat 256 (bytesToNat (k.data.take 32)), payload := k.data.drop 32 }

def dropPacket (p : Nat) (s : State) : State := setCport p (fun x => { x with inq := x.inq.drop 1 }) s

/-- The next packet of a port, if its operation is one of the given. -/
def frontPacket (s : State) (p : Nat) (ops : Nat → Bool) : Option Packet := ((cport s p).inq.head?).filter fun k => ops k.op

/-- REMOTE_MESSAGE (R392, R396). -/
def execRemoteMessage (p : Fin 32) (env : Env) (s : State) : Host.Outcome State Fault Refusal :=
  .next (match frontPacket s p.val fun o => o == opMessage with
    | none => s
    | some k =>
      if inService s && cwTakes s p.val && replyOpen s (sliceNo (hdrQueue (packetMsg k).hdr)) k then
        let d := decideMsg env (.remote p.val k) (packetMsg k) k.len (dropPacket p.val s)
        if d.taken then presentAll d.beats d.st else s
      else s)

/-! Contributions that waited (R406). -/

def clearWaiting (n : Nat) (s : State) : State :=
  { s with slices := Tbl.upd s.slices (sliceNo n) fun x => { x with waiting := x.waiting.filter fun e => e.1 != n } }

/-- Decides what waited, in order, after the given beats of the step; what still cannot be decided waits on. -/
def flushAfter (env : Env) (n : Nat) (l : List (Nat × DlvBeat)) (s : State) : State :=
  let r := (waitingFor s n).foldl (fun (r : State × List (Nat × DlvBeat)) e =>
    let d := decideHere env e.2.2 e.2.1 r.1
    if d.taken then (d.st, r.2 ++ d.beats) else ((holdContribution n e.2.2 e.2.1 r.1).st, r.2)) (clearWaiting n s, l)
  presentAll r.2 r.1

def flushWaiting (env : Env) (n : Nat) (s : State) : State := flushAfter env n [] s

/-- Zeroing ends, or has been overtaken by a reset: the queue is ARMED and what waited is decided. -/
def endZeroing (n : Nat) (s : State) : State :=
  flushWaiting .quiet n (updQueue n (fun x => if x.state = qZeroing then { x with state := qArmed } else x) s)

/-- AREA_ZEROING_DONE (R406). -/
def execAreaZeroingDone (queue : BitVec 16) (s : State) : Host.Outcome State Fault Refusal :=
  let n := queue.toNat
  .next (if inService s && fnTakes s (sliceFn (sliceNo n)) && fnTakes s .mere &&
      ((queueAt s n).any (fun q => q.state == qZeroing) || !(waitingFor s n).isEmpty) then endZeroing n s
    else s)

/-! COMBINE_COMPLETE (R405). -/

def combinedMsg (s : State) (n : Nat) (q : Queue) : Msg :=
  let g := globalCore s q.reader
  { hdr := BitVec.ofNat 256 (pack [(12, q.handler), (4, mkCombined), (20, g), (24, handle n (queueGenOf s n)), (4, 0), (20, g), (9, 16),
      (155, 0), (8, q.roundErr)]),
    payload := natToBytes 16 (pack [(32, q.base), (32, q.size), (32, q.round), (32, q.depth)]) }

/-- The message goes straight to the reader where its inbox holds a credit; contributions that wait meet a complete round. -/
def completeRound (n : Nat) (q : Queue) (s : State) : State :=
  let m := combinedMsg s n q
  let s1 := updQueue n (fun x => { x with state := qComplete }) s
  if inboxCredit s q then flushAfter .quiet n [messageBeat s q m.hdr m] (sliceBump (sliceNo n) 0 1 (spendInbox n q s1))
  else flushWaiting .quiet n (updQueue n (fun x => { x with combined := some m }) s1)

/-- COMBINE_COMPLETE (R405). -/
def execCombineComplete (queue : BitVec 16) (s : State) : Host.Outcome State Fault Refusal :=
  let n := queue.toNat
  .next (match queueAt s n with
    | some q =>
      if inService s && fnTakes s (sliceFn (sliceNo n)) && q.combining && q.state == qArmed && decide (q.depth ≤ q.count) &&
          !areaLanding s n then
        completeRound n q s
      else s
    | none => s)

/-! MESSAGE_DELIVERY (R386, R394). -/

/-- Queues of the reader that hold messages, in the order of the turn after the one served last. -/
def queueTurn (s : State) (core : Nat) (last : Nat) : Option (Nat × Queue) :=
  let l := s.queues.filter fun e => e.2.reader == core && fillOfQueue e.2 != 0
  (l.find? fun e => decide (last < e.1)).orElse fun _ => l.head?

/-- Takes the oldest message of a plain queue out of its slot; one that cannot be read is lost and the next is taken. -/
def takeOldest (env : Env) (n : Nat) : Nat → State → State × Option Msg
  | 0, s => (s, none)
  | fuel + 1, s =>
    match queueAt s n with
    | none => (s, none)
    | some q =>
      match q.slots.head? with
      | none => (s, none)
      | some i =>
        if slotLanding s n i then (s, none)
        else
          let x := readSlot env (sliceNo n) (slotAddr q i) s
          let s1 := updQueue n (fun y => { y with slots := y.slots.drop 1 }) x.1
          match x.2 with
          | some m => (s1, some m)
          | none => takeOldest env n fuel (bumpQ n qcLost 1 s1)

def deliverHeld (env : Env) (n : Nat) (q : Queue) (s : State) : State :=
  match q.combined with
  | some m =>
    presentAll [messageBeat s q m.hdr m] (afterFall n (spendInbox n q (updQueue n (fun x => { x with combined := none }) s)))
  | none =>
    let r := takeOldest env n (heldMsgs q) s
    match r.2 with
    | some m => presentAll [messageBeat r.1 q (deliverHdr m.hdr) m] (afterFall n (spendInbox n q r.1))
    | none => afterFall n r.1

/-- The oldest message of a plain queue can be read: it has landed, the Mere takes work, and its rows can be reached. -/
def slotReady (s : State) (n : Nat) (q : Queue) : Bool :=
  fnTakes s .mere && q.slots.head?.all fun i =>
    !slotLanding s n i && (rowsOf (slotAddr q i) 288).all fun a => rowOpen s (sliceNo n) (.mere a (sliceNo n))

def serveReader (core : Nat) (env : Env) (k : Nat) (s : State) : State :=
  let x := Tbl.getD s.slices k Slice.reset
  match queueTurn s core (Tbl.getD x.rr core (k * 16384 + 16383)) with
  | none => s
  | some (n, q) =>
    if inboxCredit s q && (q.combining || slotReady s n q) then
      deliverHeld env n q { s with slices := Tbl.put s.slices k { x with rr := Tbl.put x.rr core n } }
    else s

/-- MESSAGE_DELIVERY (R386, R394). -/
def execMessageDelivery (core : Fin 1024) (env : Env) (s : State) : Host.Outcome State Fault Refusal :=
  let k := (coreEntry s core.val).port / 16
  .next (if inService s && fnTakes s (sliceFn k) then serveReader core.val env k s else s)

/-! QUEUE_CREATE and COMBINE_CREATE (R397, R398, R402, R403). -/

def readerSlice (s : State) (core : Nat) : Nat := (coreEntry s core).port / 16

/-- QUEUE is free and of the reader's slice; an absent reader is named by READER. -/
def queueNoRule (s : State) (body v : Nat) : Rule :=
  if fld body 32 1 = 1 then .ok
  else refuseUnless (!Tbl.has s.queues v && (!(coreEntry s (fld body 0 10)).present || sliceNo v == readerSlice s (fld body 0 10)))

def readerRule (s : State) (v : Nat) : Rule := refuseUnless (coreEntry s v).present

def queueCreateFlds (s : State) (j : Nat) : List (Nat → List Fld) :=
  [fun _ => [
    chk 2 84 16 fun v => .setTo (max v 1),
    chk 3 68 16 fun v => .setTo (max v 16),
    rsvd 4 65 3,
    chkB 6 48 16 (queueNoRule s),
    rsvd 7 33 15,
    rsvd 9 10 22,
    chk 10 0 10 (readerRule s),
    chkB 1 100 28 fun b v => refuseUnless (v % 64 == 0 && inOneAlloc s j v (320 * fld b 84 16))]]

def roundUp64 (v : Nat) : Nat := ceilDiv (max 64 (min v 65536)) 64 * 64

def combineCreateFlds (s : State) (j : Nat) : List (Nat → List Fld) :=
  [fun _ => [
    chk 2 147 17 fun v => .setTo (roundUp64 v),
    rsvd 3 144 3,
    chk 4 128 16 fun v => .setTo (max v 1),
    chk 5 112 16 fun v => .setTo (max v 16),
    chk 7 96 4 fun v => refuseUnless (v == 0 || v == 1 || v == 10),
    rsvd 8 65 31,
    chkB 10 48 16 (queueNoRule s),
    rsvd 11 33 15,
    rsvd 13 10 22,
    chk 14 0 10 (readerRule s),
    chkB 1 164 28 fun b v => refuseUnless (v % 64 == 0 && inOneAlloc s j v (fld b 147 17))]]

/-- The number asked for, or the lowest free one of the reader's slice. -/
def queueNumber (s : State) (body : Nat) : Option Nat :=
  if fld body 32 1 = 1 then Tbl.firstFree s.queues (readerSlice s (fld body 0 10) * 16384) 16384 else some (fld body 48 16)

def blankQueue (c : Cmd) : Queue :=
  { state := qOpen, combining := false, remote := fld c.body 64 1 == 1, freePending := false, job := c.job, reader := fld c.body 0 10,
    typ := 0, handler := 0, base := fld c.body 100 28, size := 0, depth := fld c.body 84 16, storm := fld c.body 68 16, consec := 0,
    tailSlot := 0, slots := [], count := 0, round := 0, roundErr := 0, combined := none }

def combiningQueue (c : Cmd) : Queue :=
  { blankQueue c with
    state := qArmed, combining := true, typ := fld c.body 96 4, handler := fld c.body 100 12, base := fld c.body 164 28,
    size := fld c.body 147 17, depth := fld c.body 128 16, storm := fld c.body 112 16 }

def putQueue (n : Nat) (q : Queue) (s : State) : State :=
  { s with queues := Tbl.put s.queues n q, queueCnt := Tbl.del s.queueCnt n }

def createQueue (c : Cmd) (q : Queue) (s : State) : State × Reply :=
  match queueNumber s c.body with
  | none => (s, endWith stExhausted)
  | some n =>
    if mayCreate s c.job resQueues 1 then
      (if q.combining then zeroArea q.base q.size (putQueue n q s) else putQueue n q s, okWith 8 (handle n (queueGenOf s n)))
    else (s, endWith stExhausted)

def specQueueCreate : CmdSpec :=
  { op := 0x0610, hw := false, sel := fun _ => true, flds := queueCreateFlds, act := fun c s => createQueue c (blankQueue c) s }

/-- QUEUE_CREATE (R397, R398). -/
def execQueueCreate (m : Fin 8) (s : State) : Host.Outcome State Fault Refusal := .next (runCmd specQueueCreate m s)

def specCombineCreate : CmdSpec :=
  { op := 0x0613, hw := false, sel := fun _ => true, flds := combineCreateFlds, act := fun c s => createQueue c (combiningQueue c) s }

/-- COMBINE_CREATE (R402, R403). -/
def execCombineCreate (m : Fin 8) (s : State) : Host.Outcome State Fault Refusal := .next (runCmd specCombineCreate m s)

/-! QUEUE_CLOSE and QUEUE_RESET_READER (R399, R400). -/

/-- HANDLE is current, of the command's job or the system's. -/
def handleRule (s : State) (j v : Nat) : Rule :=
  match queueAt s (fld v 0 16) with
  | some q => refuseUnless (queueGenOf s (fld v 0 16) == fld v 16 8 && mayName j q.job)
  | none => .no

def closeQueue (n : Nat) (discard free : Bool) (s : State) : State :=
  let k := queueFill s n
  let s1 := updQueue n (fun q => { q with state := qClosed, freePending := q.freePending || free })
    (if discard then discardHeld n qcDiscarded s else s)
  if (discard && k != 0) || free then afterFall n s1 else s1

def closeAct (c : Cmd) (s : State) : State × Reply :=
  let n := fld c.body 0 16
  let s1 := flushWaiting .quiet n (closeQueue n (fld c.body 24 1 == 1) (fld c.body 25 1 == 1) s)
  (s1, okWith 4 (queueFill s1 n))

def specQueueClose : CmdSpec :=
  { op := 0x0611, hw := false, sel := fun _ => true, flds := fun s j => [fun _ => [rsvd 1 26 6, chk 4 0 24 (handleRule s j)]],
    act := closeAct }

/-- QUEUE_CLOSE (R399). -/
def execQueueClose (m : Fin 8) (s : State) : Host.Outcome State Fault Refusal := .next (runCmd specQueueClose m s)

def resetAct (c : Cmd) (s : State) : State × Reply :=
  let n := fld c.body 0 16
  let k := queueFill s n
  let s1 := flushWaiting .quiet n (resetQueue n qcDiscarded s)
  (s1, okWith 8 (handle n (queueGenOf s1 n) + k <<< 32))

def specQueueResetReader : CmdSpec :=
  { op := 0x0612, hw := false, sel := fun _ => true, flds := fun s j => [fun _ => [rsvd 1 24 8, chk 2 0 24 (handleRule s j)]],
    act := resetAct }

/-- QUEUE_RESET_READER (R400). -/
def execQueueResetReader (m : Fin 8) (s : State) : Host.Outcome State Fault Refusal := .next (runCmd specQueueResetReader m s)

/-! QUEUE_QUERY (R410 to R412). -/

/-- The descriptor of R411. -/
def queueDesc (s : State) (n : Nat) (q : Queue) : Nat :=
  pack [(4, 0), (12, q.handler), (4, q.typ), (10, q.reader), (4, q.job), (1, b2n q.freePending), (1, b2n q.remote), (1, b2n q.combining),
    (3, q.state), (8, queueGenOf s n), (16, n), (16, q.depth), (3, 0), (17, q.size), (28, q.base), (16, 0), (16, q.consec), (16, q.storm),
    (16, if q.combining then q.count else heldMsgs q), (32, 0), (32, q.round)]

def queueInfo (s : State) (n : Nat) : Nat :=
  match queueAt s n with
  | some q => pack ((256, queueDesc s n q) :: (Tbl.getD s.queueCnt n noCounts).map fun c => (64, c.toNat))
  | none => 0

def specQueueQuery : CmdSpec :=
  { op := 0x0614, hw := false, sel := fun _ => true,
    flds := fun s j => [fun _ => [chk 1 0 16 fun v => refuseUnless ((queueAt s v).any fun q => mayName j q.job)]],
    act := fun c s => (s, okWith 80 (queueInfo s (fld c.body 0 16))) }

/-- QUEUE_QUERY (R410). -/
def execQueueQuery (m : Fin 8) (s : State) : Host.Outcome State Fault Refusal := .next (runCmd specQueueQuery m s)

end Sys2Proof.Machine
end

