-- ==== Sys2Proof/Machine/Flits.lean ====
section
/-! DEFINITION. The link layer of a Causeway port as it receives: flits, acknowledgements, retries, forwarding, and the loss
of a link (13_causeway.md, R419 to R427, R434, R435). -/

namespace Sys2Proof.Machine

/-! The end of a request (R443, R444). -/

/-- A state and the beats that its step presents. -/
structure Told where
  st : State
  beats : List (Nat × DlvBeat)

def tellCore (core : Nat) (h : BitVec 256) (s : State) : List (Nat × DlvBeat) :=
  [((coreEntry s core).port, nackBeat (coreEntry s core).slot h)]

/-- The packet of a burst has been answered, or never will be. -/
def packetOver (bid tag : Nat) (s : State) : State :=
  updBurst bid (fun b => { b with packets := b.packets.filter fun t => t != tag }) s

/-- The failure of a packet, in its tile's order at the first access that it carries (R244, R443). -/
def packetFailure (s : State) (b : Burst) (status : Nat) (u : TagUse) : Failure :=
  { status := status, addr := u.offset, write := u.write, detail := 0, needs := none,
    seq := match burstAt s b with
      | some (x, t) => accessOrder x.desc t b.segs u.write u.offset (if u.write then 1 else 64)
      | none => 0 }

def packetFailed (bid tag status : Nat) (u : TagUse) (s : State) : State :=
  match Tbl.get? s.bursts bid with
  | none => s
  | some b => writeReady b.slot (packetOver bid tag (noteFail bid (packetFailure s b status u) s))

/-- A request ends without success: its stream halts, or its sender is NACKed. -/
def failTag (tag status : Nat) (s : State) : Told :=
  match tagUse s tag with
  | none => { st := s, beats := [] }
  | some u =>
    let s1 := dropTag tag s
    match u.owner with
    | .burst bid => { st := packetFailed bid tag status u s1, beats := [] }
    | .msg m core => { st := s1, beats := tellCore core (withStatus m.hdr status) s1 }
    | .heartbeat => { st := s1, beats := [] }

def failTags (l : List Nat) (status : Nat) (s : State) : State :=
  let r := l.foldl (fun (r : Told) t => { st := (failTag t status r.st).st, beats := r.beats ++ (failTag t status r.st).beats })
    { st := s, beats := [] }
  presentAll r.beats r.st

/-! Losing a link (R426). -/

/-- The way of a packet that arrives on port `i` and VC `v` and was going out by lost port `p`: that of its first flits, where
they had not left. -/
def newWay (p : Nat) (ways : List ((Nat × Bool × Nat) × Nat)) (i v : Nat) (old : Option Nat) : Option Nat :=
  if old = some p then (ways.find? fun w => w.1.2 == (true, 4 * i + v)).map Prod.snd else old

def forgetVia (p : Nat) (ways : List ((Nat × Bool × Nat) × Nat)) (i : Nat) (x : CPort) : CPort :=
  { x with via := x.via.mapIdx fun v w => newWay p ways i v w }

def pumpAll (s : State) : State := (List.range 32).foldl (fun t p => if (cport t p).txq.isEmpty then t else pumpPort p t) s

/-- Takes a port DOWN: what it held goes another way or is lost, with one record. -/
def loseLink (p reason : Nat) (s : State) : State :=
  let r := portDown p reason s
  let s1 := { r.st with cw := { r.st.cw with ports := r.st.cw.ports.mapV fun i x => forgetVia p r.ways i x } }
  failTags r.lost stUnreachable (r.nacks.foldl (fun t k => nack p k stUnreachable t) (pumpAll s1))

/-- A fault ends the training of a port: it is down, and its JOIN_RETRY has failed (R66). DEDUCED (log entry 62). -/
def stopTraining (p : Nat) (s : State) : State :=
  let s1 := unitNoted 3 2 p 0 (cport s p).attempts (linkDownNoted false p 2 (setCport p (fun x => { darken x with state := 1 }) s))
  exitS4 (match retryAttempts s false p with
    | some n => finishWait (.joinPort p n) stOk 1 1 s1
    | none => s1)

/-- CW_OE_FAULT (R66, R426). -/
def execCwOeFault (p : Fin 32) (faultN : Bool) (s : State) : Host.Outcome State Fault Refusal :=
  let s1 := setCport p.val (fun x => { x with faultN := faultN }) s
  .next (if faultN || !(cport s p.val).faultN || !blockUp s then s1
    else
      let s2 := setCport p.val darken s1
      if carriesFlits s p.val then loseLink p.val 2 s2
      else if (cport s p.val).state = 2 then stopTraining p.val s2
      else s2)

/-- LOSS_OF_SIGNAL (R426). -/
def execLossOfSignal (p : Fin 32) (s : State) : Host.Outcome State Fault Refusal :=
  let s1 := setCport p.val (fun x => { x with los := 0xFF, armed := true }) s
  .next (if blockUp s && carriesFlits s p.val then loseLink p.val 1 s1 else s1)

/-- A retry that goes unanswered, or an acknowledgement that does not come (R423). -/
def mayExhaust (x : CPort) : Bool := decide (16 ≤ x.retries) || !x.replay.isEmpty

/-- REPLAY_EXHAUSTED (R423). -/
def execReplayExhausted (p : Fin 32) (s : State) : Host.Outcome State Fault Refusal :=
  .next (if cwTakes s p.val && carriesFlits s p.val && mayExhaust (cport s p.val) then loseLink p.val 3 s else s)

/-! Acknowledgements and credits (R420, R422). -/

/-- SEQ of the oldest flit in the replay buffer. -/
def oldestSeq (x : CPort) : Nat := (x.txSeq.toNat + 4096 - x.replay.length % 4096) % 4096

def ackTo (seq : Nat) (x : CPort) : CPort :=
  let k := (seq + 4096 - oldestSeq x) % 4096
  if k ≤ x.replay.length then { x with replay := x.replay.drop k } else x

def creditBy (f : BitVec 2048) (x : CPort) : CPort :=
  { x with credits := updAt x.credits (flitField f 4 2) fun n => min 128 (n + flitField f 0 4) }

/-- What the header of a good flit tells the sender. -/
def headerTells (f : BitVec 2048) (x : CPort) : CPort := creditBy f (ackTo (flitField f 36 12) x)

/-! Replay (R421). -/

/-- A burst whose packets the port carries meets the replay (R258). -/
def chargeReplay (p : Nat) (s : State) : State :=
  let cost := 82 + (cport s p).tlink.toNat
  { s with bursts := s.bursts.mapV fun _ b =>
      if b.packets.any fun t => t / 1024 == p then { b with charge := satAdd 16 b.charge cost, cause := b.cause ||| 128 } else b }

/-- Sends again from the named SEQ onward, each flit as it was first sent. -/
def resendFrom (p seq : Nat) (s : State) : State :=
  let x := cport s p
  let k := (seq + 4096 - oldestSeq x) % 4096
  if k < x.replay.length then
    let l := x.replay.drop k
    chargeReplay p (setCport p (fun y => { y with out := l }) (portBump p ctrReplays l.length (portBump p ctrSent l.length s)))
  else s

/-- RETRY (R421). -/
def execRetry (p : Fin 32) (seq : BitVec 12) (s : State) : Host.Outcome State Fault Refusal :=
  .next (if cwTakes s p.val && carriesFlits s p.val then resendFrom p.val seq.toNat s else s)

/-- Sends a RETRY for the expected SEQ; what the port is to bring waits for the replay (R258). -/
def askRetry (p : Nat) (s : State) : State :=
  sendControl p 1 (cport s p).rxSeq.toNat
    (chargeReplay p <| setCport p (fun x => { x with wanted := some x.rxSeq, retries := x.retries + 1, out := [] }) s)

/-- RETRY_RESEND_TIMER (R421). -/
def execRetryResendTimer (p : Fin 32) (s : State) : Host.Outcome State Fault Refusal :=
  .next (if cwTakes s p.val && carriesFlits s p.val && (cport s p.val).wanted.isSome && decide ((cport s p.val).retries < 16) then
      askRetry p.val s
    else s)

/-! CONTROL and IDLE flits (R418, R420, R421, R449). -/

def controlKind (f : BitVec 2048) : Nat := flitField f 128 8
def controlArg (f : BitVec 2048) : Nat := flitField f 136 16

def checkOk (f : BitVec 2048) : Bool := flitField f 64 32 == flitCrc f

def emitControl (p kind arg src dst hops : Nat) (s : State) : State :=
  let f := controlBetween s p kind arg src dst hops
  setCport p (fun x => { payOwed x with out := [f] }) (portBump p ctrSent 1 s)

/-- A probe or its answer is for this device, or goes on along the route of its device. -/
def passProbe (f : BitVec 2048) (s : State) : State :=
  let src := flitField f 8 10
  let dst := flitDst f
  if ownId s dst then
    if controlKind f = 2 then
      match routeFor s src [dst, src] with
      | some q => emitControl q 3 (controlArg f) dst src (routeOf s src).hops s
      | none => s
    else s
  else if flitField f 28 4 < 2 then s
  else
    match routeFor s dst [src, dst] with
    | some q => emitControl q (controlKind f) (controlArg f) src dst (flitField f 28 4 - 1) s
    | none => s

/-- What a CONTROL flit asks for: a replay, or link control. -/
def answerControl (p : Nat) (f : BitVec 2048) (s : State) : State :=
  if flitType f ≠ 2 then s
  else if controlKind f = 1 then resendFrom p (controlArg f) s
  else if controlKind f = 2 ∨ controlKind f = 3 then passProbe f s
  else if controlKind f = 4 then emitControl p 5 (controlArg f) s.cw.deviceId (flitField f 8 10) 0 s
  else s

/-- The replay or the control flit that it asks for goes before what its credits let go (R21). -/
def goodControl (p : Nat) (f : BitVec 2048) (s : State) : State :=
  pumpMore p (answerControl p f (setCport p (fun x => { headerTells f x with out := [] }) s))

def controlArrives (p : Nat) (f : BitVec 2048) (bad : Bool) (s : State) : State :=
  if bad || !checkOk f then portBump p 6 1 s else goodControl p f s

/-- CONTROL_FLIT (R418, R420, R422). -/
def execControlFlit (p : Fin 32) (flit : BitVec 2048) (bad : Bool) (s : State) : Host.Outcome State Fault Refusal :=
  .next (if cwTakes s p.val && carriesFlits s p.val then controlArrives p.val flit bad (portBump p.val ctrReceived 1 s) else s)

/-! DATA flits (R419 to R424). -/

/-- Forward error correction: points 0x0031 and 0x0030 act on the codeword (R503). -/
def fecStep (p : Nat) (bad : Bool) (s : State) : State × Bool :=
  let fired := (injFires s [0x31, 0x30] p).map Arming.point
  let s1 := injEvent [0x31, 0x30] p 1 (islPort p) s
  let lost := bad || fired == some 0x31
  let s2 := if fired = some 0x30 then portBump p ctrFecFixed 1 s1 else s1
  (if lost then portBump p ctrFecBad 1 s2 else s2, lost)

def cwSite (p : Nat) (n : Nat) : EccSite :=
  { site := 0x0F, unit := p, addr := n, words := 64, island := islPort p, level := 0, reader := 0x0D, points := [0x32, 0x12], dbe := 0x12 }

/-- Points 0x0032 and 0x0012 spoil a DATA flit: its check, or a word of the receive buffer. Answers the point that fired. -/
def bufferStep (p : Nat) (s : State) : State × Option Nat :=
  let site := cwSite p (cport s p).rxSeq.toNat
  match injFires s [0x32, 0x12] p with
  | none => (injEvent [0x32, 0x12] p 1 (islPort p) s, none)
  | some a =>
    if a.point = 0x12 then (reportBy (eccTrace .quiet site []) s, some 0x12)
    else (injEvent [0x32, 0x12] p 1 (islPort p) s, some 0x32)

/-- The plaintext of a flit, where its check holds; the receiver counts the encrypted flits it has accepted. -/
def openFlit (s : State) (p : Nat) (f : BitVec 2048) : Option (BitVec 2048) :=
  let x := cport s p
  let e := pentry s p
  let phase := flitField f 33 1
  if flitField f 32 1 = 1 then
    match linkKey s (phaseSlot e (phase == 1)) with
    | none => none
    | some k =>
      let iv := flitIv (x.farId.getD 0) x.farPort (x.decCount.getD phase 0)
      if tag64 k iv (flitField f 0 64) (flitPayload f) = flitField f 64 64 then
        some (BitVec.ofNat 2048 (flitField f 0 128 + ((cipher k iv (flitPayload f)).toNat <<< 128)))
      else none
  else if e.enc then none
  else if checkOk f then some f
  else none

/-- A discarded DATA flit: a RETRY is sent once for the SEQ that is expected. -/
def discardFlit (p : Nat) (s : State) : State := if (cport s p).wanted.isSome then s else askRetry p s

/-- A flit that fails its tag; the sixteenth in a row takes the port DOWN (R423). -/
def failAuth (p : Nat) (s : State) : State :=
  let s1 := portBump p ctrAuth 1 (setCport p (fun x => { x with authFails := x.authFails + 1 }) s)
  if (cport s1 p).authFails = 16 then loseLink p 4 s1 else discardFlit p s1

def acceptSeq (f : BitVec 2048) (x : CPort) : CPort :=
  { headerTells f x with
    rxSeq := x.rxSeq + 1
    wanted := none
    retries := 0
    ackDue := true
    authFails := 0
    decCount := if flitField f 32 1 = 1 then updAt x.decCount (flitField f 33 1) fun n => n + 1 else x.decCount }

def owe (vc n : Nat) (x : CPort) : CPort := { x with owed := updAt x.owed vc fun k => k + n }

/-- A flit for this device joins its packet; a whole packet goes on to the quarter, or is discarded as malformed (R440). -/
def consumeFlit (p : Nat) (f : BitVec 2048) (s : State) : State :=
  let vc := flitVc f
  let l := (if flitSop f then [] else (cport s p).asm.getD vc []) ++ [f]
  if flitEop f then
    let s1 := setCport p (fun x => owe vc l.length { x with asm := x.asm.set vc [] }) s
    if malformed l then portBump p 5 1 s1
    else setCport p (fun x => { x with inq := x.inq ++ [packetOf l] }) s1
  else setCport p (fun x => { x with asm := x.asm.set vc l }) s

/-- A flit in order: consumed, or kept to be forwarded. Withy traffic is taken by the mirror commands. -/
def takeFlit (p : Nat) (f : BitVec 2048) (s : State) : State :=
  let s1 := setCport p (acceptSeq f) s
  if (cport s p).state = 5 then setCport p (owe (flitVc f) 1) s1
  else if ownId s (flitDst f) then consumeFlit p f s1
  else setCport p (fun x => { x with fwd := x.fwd ++ [f] }) s1

def dataArrives (p : Nat) (f : BitVec 2048) (lost : Bool) (s : State) : State :=
  let b := bufferStep p s
  if lost || b.2 == some 0x12 then discardFlit p b.1
  else
    match (if b.2.isSome then none else openFlit b.1 p f) with
    | none => if flitField f 32 1 = 1 then failAuth p b.1 else discardFlit p b.1
    | some g => if flitField f 48 12 = (cport s p).rxSeq.toNat then pumpPort p (takeFlit p g b.1) else discardFlit p b.1

/-- A flit of a type and in a state of the port. -/
def flitArrives (p : Nat) (f : BitVec 2048) (bad : Bool) (s : State) : State :=
  let r := fecStep p bad (portBump p ctrReceived 1 s)
  let up := (cport s p).state == 4 || (cport s p).state == 5
  if flitType f = 0 ∨ flitType f = 2 then controlArrives p f r.2 r.1
  else if !up then r.1
  else if flitType f = 1 then dataArrives p f r.2 r.1
  else discardFlit p r.1

/-- FLIT_RECEIVE (R419 to R424). -/
def execFlitReceive (p : Fin 32) (flit : BitVec 2048) (codewordBad : Bool) (s : State) : Host.Outcome State Fault Refusal :=
  .next (if cwTakes s p.val && carriesFlits s p.val then flitArrives p.val flit codewordBad s else s)

/-! FLIT_FORWARD (R434, R435). -/

/-- The flit as it goes on: one hop fewer, on level 1 past a dateline. -/
def forwardedFlit (s : State) (out : Nat) (f : BitVec 2048) : BitVec 2048 :=
  let vc := if (pentry s out).dateline then flitVc f ||| 1 else flitVc f
  BitVec.ofNat 2048 (setFld (setFld f.toNat 28 4 (flitField f 28 4 - 1)) 34 2 vc)

def sendForward (p out : Nat) (f : BitVec 2048) (s : State) : State :=
  let g := forwardedFlit s out f
  let cls := if flitSop f then classVc (packetOf [f]).op (flitVc g) else [4, 3, 2, 1].getD (flitVc g) 4
  pumpPort out (setCport out (fun x => { x with txq := x.txq ++ [{ cls := cls, fwd := true, job := 4 * p + flitVc f, flit := g }] }) (portBump p 0 1 s))

/-- The flit leaves the receive buffer. -/
def leaveBuffer (p : Nat) (f : BitVec 2048) (drop : Bool) (via : Option Nat) (s : State) : State :=
  setCport p (fun x => owe (flitVc f) 1 { x with
    fwd := x.fwd.drop 1
    via := x.via.set (flitVc f) (if flitEop f then none else via)
    dropping := x.dropping.set (flitVc f) (drop && !flitEop f) }) s

/-- The port that a flit goes out by: chosen at the first flit of its packet. -/
def forwardTo (s : State) (p : Nat) (f : BitVec 2048) : Option Nat :=
  if flitSop f then
    if flitField f 28 4 < 2 then none else routeFor s (flitDst f) [flitField f 8 10, flitDst f, flitVc f]
  else (cport s p).via.getD (flitVc f) none

/-- A packet with no way on is discarded whole; a request is answered. -/
def discardPacket (p : Nat) (f : BitVec 2048) (s : State) : State :=
  let s1 := portBump p 1 1 s
  if isRequest (packetOf [f]).op then nack p (packetOf [f]) stUnreachable s1 else s1

def forwardFlit (p : Nat) (f : BitVec 2048) (s : State) : State :=
  if !flitSop f && (cport s p).dropping.getD (flitVc f) false then leaveBuffer p f true none s
  else
    match forwardTo s p f with
    | some out => sendForward p out f (leaveBuffer p f false (some out) s)
    | none =>
      let s1 := leaveBuffer p f true none s
      if flitSop f then discardPacket p f s1 else s1

/-- Traffic passes from a port's quarter to that of the port a flit goes out by (R71, R434). -/
def forwardOpen (s : State) (p : Nat) (f : BitVec 2048) : Bool :=
  match forwardTo s p f with
  | some out => crossOpen s (p / 8) (out / 8)
  | none => replyOpen s (p / 8) (packetOf [f])

/-- FLIT_FORWARD (R434, R435). -/
def execFlitForward (p : Fin 32) (s : State) : Host.Outcome State Fault Refusal :=
  .next (match (cport s p.val).fwd with
    | f :: _ => if cwTakes s p.val && forwardOpen s p.val f then forwardFlit p.val f s else s
    | [] => s)

end Sys2Proof.Machine
end

