-- ==== Sys2Proof/Machine/Remote.lean ====
section
/-! DEFINITION. Remote windows and the transactions with other devices (13_causeway.md, R437 to R450). -/

namespace Sys2Proof.Machine

/-! Windows (R437 to R439). -/

def wdOpen : Nat := 1
def wdClosing : Nat := 2
def wdClosed : Nat := 3

def windowAt (s : State) (w : Nat) : Option Window := Tbl.get? s.cw.windows w

def updWindow (w : Nat) (f : Window → Window) (s : State) : State :=
  { s with cw := { s.cw with windows := Tbl.upd s.cw.windows w f } }

/-- Window 4,095 is the pair's heartbeat window while the device is paired (R458). -/
def heartbeatWindow : Nat := 4095

def windowFree (s : State) (w : Nat) : Bool := !Tbl.has s.cw.windows w && !(w == heartbeatWindow && s.mirror.paired)

/-- Range entries of a domain that grant every permission of PERM cover the span. -/
def permCovers (s : State) (domain perm va n : Nat) : Nat → Bool
  | 0 => false
  | fuel + 1 =>
    match rangeAt s va with
    | some (_, r) =>
      if r.domain == domain && (perm % 2 == 0 || r.read) && (perm / 2 % 2 == 0 || r.write) && !r.withdrawing then
        (if va + n ≤ r.va + rangeSpan r then true
        else permCovers s domain perm (r.va + rangeSpan r) (va + n - (r.va + rangeSpan r)) fuel)
      else false
    | none => false

def windowBaseOk (s : State) (j body v : Nat) : Bool :=
  let n := fld body 164 28 * 4096
  v % 4096 == 0 &&
    (if fld body 232 1 = 1 then decide (v < mereSize) && inOneAlloc s j v n
    else permCovers s j (fld body 230 2) v n (s.xlate.ranges.length + 1))

def windowOpenFlds (s : State) (j : Nat) : List (Nat → List Fld) :=
  [fun _ => [
    chk 1 240 16 fun v => refuseUnless (v == 0xFFFF || (decide (v < 4096) && windowFree s v)),
    rsvd 2 233 7,
    chk 3 232 1 fun _ => .ok,
    chk 4 230 2 fun v => refuseUnless (v != 0),
    rsvd 5 218 12,
    chk 6 208 10 fun _ => .ok,
    chkB 7 197 11 fun b v => clampIn 1 (1024 - fld b 208 10) v,
    rsvd 8 192 5,
    chk 9 164 28 fun v => refuseUnless (v != 0),
    rsvd 10 48 116,
    chkB 11 0 48 fun b v => refuseUnless (windowBaseOk s j b v)]]

def newWindow (c : Cmd) (w : Nat) : Window :=
  { state := wdOpen, job := c.job, space := fld c.body 232 1, perm := fld c.body 230 2, srcFirst := fld c.body 208 10,
    srcCount := fld c.body 197 11, length4k := fld c.body 164 28, base := fld c.body 0 48,
    body := BitVec.ofNat 256 (setFld c.body 240 16 w), freeAfter := false, writesAccepted := 0, bytesWritten := 0, readsAccepted := 0,
    nacksClosed := 0, nacksNoWindow := 0, inFlight := 0, landedClosing := 0, refusedClosing := 0 }

/-- The body as applied, with STATE in its reserved field 5. -/
def bodyState (x : Window) : BitVec 256 := BitVec.ofNat 256 (setFld x.body.toNat 227 3 x.state)

def openWindow (c : Cmd) (s : State) : State × Reply :=
  let v := fld c.body 240 16
  match (if v = 0xFFFF then (List.range 4096).find? (windowFree s) else some v) with
  | none => (s, endWith stExhausted)
  | some w =>
    if mayCreate s c.job resWindows 1 then
      let x := newWindow c w
      (mirrorSend (.window w (some (bodyState x)) c.job) { s with cw := { s.cw with windows := Tbl.put s.cw.windows w x } }, okWith 8 w)
    else (s, endWith stExhausted)

def specWindowOpen : CmdSpec := { op := 0x0710, hw := false, sel := fun _ => true, flds := windowOpenFlds, act := openWindow }

/-- WINDOW_OPEN (R437, R438). -/
def execWindowOpen (m : Fin 8) (s : State) : Host.Outcome State Fault Refusal := .next (runCmd specWindowOpen m s)

/-! WINDOW_CLOSE and WINDOW_QUERY (R445, R446, R450). -/

def freeWindow (w : Nat) (s : State) : State :=
  mirrorSend (.window w none 0) { s with cw := { s.cw with windows := Tbl.del s.cw.windows w } }

def closeResult (x : Window) : Nat := pack [(32, x.landedClosing), (32, x.refusedClosing)]

/-- An OPEN window begins to close; a CLOSING one takes the further FREE. -/
def beginClose (w : Nat) (free : Bool) (s : State) : State :=
  updWindow w (fun x => { x with state := wdClosing, freeAfter := x.freeAfter || free }) s

def closeRemote (c : Cmd) (s : State) : State × Reply :=
  let w := fld c.body 0 12
  let free := fld c.body 16 1 == 1
  match windowAt s w with
  | none => (s, okEmpty)
  | some x =>
    if x.state = wdClosed then (if free then freeWindow w s else s, okWith 8 (closeResult x))
    else (beginClose w free s, .wait (.windowClose w))

def windowRule (s : State) (j v : Nat) : Rule :=
  match windowAt s v with
  | some x => refuseUnless (mayName j x.job)
  | none => .no

def specWindowClose : CmdSpec :=
  { op := 0x0711, hw := false, sel := fun _ => true,
    flds := fun s j => [fun _ => [rsvd 1 17 15, rsvd 3 12 4, chk 4 0 12 (windowRule s j)]], act := closeRemote }

/-- WINDOW_CLOSE (R445, R446). -/
def execWindowClose (m : Fin 8) (s : State) : Host.Outcome State Fault Refusal := .next (runCmd specWindowClose m s)

/-- The window is CLOSED, and FREE where the close asked for it; the closes that wait are answered. -/
def finishClose (w : Nat) (x : Window) (s : State) : State :=
  let s1 := updWindow w (fun y => { y with state := wdClosed }) s
  let s2 := if x.freeAfter then freeWindow w s1 else mirrorSend (.window w (some (bodyState { x with state := wdClosed })) x.job) s1
  finishWait (.windowClose w) stOk 8 (closeResult x) s2

/-- WINDOW_CLOSE_DRAINED (R446). -/
def execWindowCloseDrained (w : Fin 4096) (s : State) : Host.Outcome State Fault Refusal :=
  .next (match windowAt s w.val with
    | some x => if x.state = wdClosing ∧ x.inFlight = 0 ∧ mgmtRuns s = true then finishClose w.val x s else s
    | none => s)

/-- The body as applied with STATE and JOB, then five counters; all zero for a FREE window. -/
def windowInfo (s : State) (w : Nat) : Nat :=
  match windowAt s w with
  | some x =>
    pack [(256, setFld (bodyState x).toNat 223 4 x.job), (64, x.writesAccepted), (64, x.bytesWritten),
      (64, x.readsAccepted), (64, x.nacksClosed), (64, x.nacksNoWindow)]
  | none => 0

def specWindowQuery : CmdSpec :=
  { op := 0x0712, hw := false, sel := fun _ => true,
    flds := fun s j => [fun _ => [chk 1 0 12 fun v => refuseUnless ((windowAt s v).all fun x => mayName j x.job)]],
    act := fun c s => (s, okWith 72 (windowInfo s (fld c.body 0 12))) }

/-- WINDOW_QUERY (R450). -/
def execWindowQuery (m : Fin 8) (s : State) : Host.Outcome State Fault Refusal := .next (runCmd specWindowQuery m s)

/-! The receiver's decision (R441). -/

/-- What the checks say of a request: the status that refuses it, or its window. -/
inductive Judged where
  | refused (status : Nat)
  | closed
  | accepted (x : Window)
deriving DecidableEq, Repr

def outOfWindow (x : Window) (k : Packet) : Bool :=
  decide (x.length4k * 4096 < k.offset + k.len) ||
    (if k.op = opWrite then x.perm / 2 % 2 == 0 else x.perm % 2 == 0)

def judgeRequest (s : State) (k : Packet) : Judged :=
  if answersFenced s k.dst then .refused stUnreachable
  else
    match windowAt s k.window with
    | none => .refused stNoWindow
    | some x =>
      if k.src < x.srcFirst ∨ x.srcFirst + x.srcCount ≤ k.src then .refused stNoWindow
      else if x.state = wdClosing then .refused stWindowClosed
      else if x.state = wdClosed then .closed
      else if outOfWindow x k then .refused stNoWindow
      else .accepted x

/-- The window's counts of a refusal. -/
def countRefusal (w status : Nat) (s : State) : State :=
  updWindow w (fun x =>
    { x with
      nacksClosed := if status = stWindowClosed then x.nacksClosed + 1 else x.nacksClosed
      nacksNoWindow := if status = stNoWindow then x.nacksNoWindow + 1 else x.nacksNoWindow
      refusedClosing := if x.state = wdClosing ∧ status = stWindowClosed then x.refusedClosing + 1 else x.refusedClosing }) s

def refuseRequest (p : Nat) (k : Packet) (status : Nat) (s : State) : State := nack p k status (countRefusal k.window status s)

/-- WINDOW_CLOSED_WRITE (R448). -/
def closedRec (s : State) (p : Nat) (k : Packet) : PeatRec :=
  mkRec s 0x071 1 (islPort p) [k.window, k.src] [pack [(40, k.offset), (2, 0), (10, k.src), (12, k.window)]]

/-- The memory that a window exposes takes work. -/
def windowMem (s : State) (x : Window) : Bool := if x.space = 1 then fnTakes s .mere else fnTakes s .translation

/-! Memory behind a window (R442). -/

/-- The row of an address of the window's space. -/
def windowRow (s : State) (q : Nat) (x : Window) (a : Nat) : Option RowAt :=
  if x.space = 1 then some (.mere (a / 64 * 64) q)
  else (rangeAt s a).map fun e => rowAtPa q ((e.2.pa + (a - e.2.va)) / 64 * 64) e.2.key

/-- Every row of a span of the window's space can be reached now (R50, R71, R102). -/
def windowOpen (s : State) (q : Nat) (x : Window) (a n : Nat) : Bool :=
  (rowsOf a n).all fun r => (windowRow s q x r).all (rowOpen s q)

/-- Writes bytes row by row: the first failing status, OK where every row landed. -/
def writeWindow (env : Env) (q : Nat) (x : Window) (l : List Host.Cell) : List Nat → State → State × Nat
  | [], s => (s, stOk)
  | a :: as, s =>
    match windowRow s q x a with
    | none => (s, stBusWrite)
    | some r =>
      let w := landRow env r (cellsRow l a).1 (cellsRow l a).2 s
      let y := writeWindow env q x l as w.st
      (y.1, if w.status = stOk then y.2 else w.status)

/-- Reads rows: their bytes, or the first failing status. -/
def readWindow (env : Env) (q : Nat) (x : Window) : List Nat → State → State × Except Nat (List Host.Cell)
  | [], s => (s, .ok [])
  | a :: as, s =>
    match windowRow s q x a with
    | none => (s, .error stBusRead)
    | some r =>
      let w := readRowAt env r 0xD s
      if w.status = stOk then
        let y := readWindow env q x as w.st
        (y.1, y.2.map fun l => cellsFrom a (natToBytes 64 w.row.toNat) ++ l)
      else (w.st, .error w.status)

/-! REMOTE_WRITE and REMOTE_WRITE_LANDED. -/

def acceptWrite (p : Nat) (x : Window) (k : Packet) (s : State) : State :=
  setCport p (fun c => { c with inWrites := c.inWrites ++ [{ window := k.window, pkt := k, addr := x.base + k.offset }] })
    (updWindow k.window (fun y => { y with writesAccepted := y.writesAccepted + 1, inFlight := y.inFlight + 1 }) s)

def decideWrite (p : Nat) (k : Packet) (s : State) : State :=
  let s1 := copyLookup (p / 8) (dropPacket p s)
  match judgeRequest s k with
  | .refused st => refuseRequest p k st s1
  | .closed => refuseRequest p k stWindowClosed (offer none (closedRec s1 p k) s1)
  | .accepted x => acceptWrite p x k s1

/-- REMOTE_WRITE (R441, R448). -/
def execRemoteWrite (p : Fin 32) (s : State) : Host.Outcome State Fault Refusal :=
  .next (match frontPacket s p.val fun o => o == opWrite with
    | some k => if inService s && cwTakes s p.val && replyOpen s (p.val / 8) k then decideWrite p.val k s else s
    | none => s)

/-- The write's rows go to memory; a write that memory failed has not landed (R442, R446). -/
def landWrite (p : Nat) (env : Env) (w : InWrite) (x : Window) (s : State) : State :=
  let l := cellsFrom w.addr w.pkt.data
  let r := writeWindow env (p / 8) x l (rowsOf w.addr w.pkt.data.length) s
  let s1 := updWindow w.window (fun y =>
    { y with
      inFlight := y.inFlight - 1
      bytesWritten := if r.2 = stOk then y.bytesWritten + w.pkt.data.length else y.bytesWritten
      landedClosing := if y.state = wdClosing ∧ r.2 = stOk then y.landedClosing + 1 else y.landedClosing })
    (setCport p (fun c => { c with inWrites := c.inWrites.drop 1 }) r.1)
  respondTo w.pkt r.2 opWriteAck w.pkt.len [] s1

/-- REMOTE_WRITE_LANDED: the port's oldest accepted write lands (R442). -/
def execRemoteWriteLanded (p : Fin 32) (env : Env) (s : State) : Host.Outcome State Fault Refusal :=
  .next (match (cport s p.val).inWrites with
    | [] => s
    | w :: _ =>
      match windowAt s w.window with
      | some x => if inService s && cwTakes s p.val && windowMem s x && windowOpen s (p.val / 8) x w.addr w.pkt.data.length &&
          replyOpen s (p.val / 8) w.pkt then
          landWrite p.val env w x s else s
      | none => s)

/-! REMOTE_READ (R442, R464). -/

/-- HEALTH of this device (R464). -/
def healthOf (s : State) : Nat :=
  b2n (s.bring.stage == 5) + 2 * b2n s.wedged.isEmpty +
    4 * b2n (s.mirror.stacksAtPair.all fun k => (stackAt s k).state == 1) + 8 * b2n s.mirror.withy + 16 * b2n s.mirror.fabric

/-- The 64 bytes of a heartbeat. -/
def heartbeatBytes (s : State) : List Byte :=
  natToBytes 64 (pack [(32, s.mirror.hbSeq.toNat), (32, s.mirror.epoch.toNat), (8, s.mirror.role), (8, s.mirror.syncState), (8, healthOf s),
    (8, 0), (16, s.cw.deviceId), (16, s.mirror.service), (64, if s.mirror.role = roleMirror then 0 else lagOf s.mirror)])

/-- A READ of the heartbeat window by the partner. -/
def isHeartbeatRead (s : State) (k : Packet) : Bool :=
  s.mirror.paired && k.window == heartbeatWindow && k.src == s.mirror.partner && k.len == 64

def serveRead (p : Nat) (env : Env) (x : Window) (k : Packet) (s : State) : State :=
  let a := x.base + k.offset
  let r := readWindow env (p / 8) x (rowsOf a k.len) (updWindow k.window (fun y => { y with readsAccepted := y.readsAccepted + 1 }) s)
  match r.2 with
  | .ok l => respondTo k stOk opReadData k.len (bytesAt l a k.len) r.1
  | .error st => respondTo k st opReadData 1 [] r.1

def decideRead (p : Nat) (env : Env) (k : Packet) (s : State) : State :=
  if isHeartbeatRead s k then respondTo k stOk opReadData 64 (heartbeatBytes s) (dropPacket p s)
  else
    let s1 := copyLookup (p / 8) (dropPacket p s)
    match judgeRequest s k with
    | .refused st => refuseRequest p k st s1
    | .closed => refuseRequest p k stWindowClosed s1
    | .accepted x => if windowMem s x && windowOpen s (p / 8) x (x.base + k.offset) k.len then serveRead p env x k s1 else s

/-- REMOTE_READ (R441, R442). -/
def execRemoteRead (p : Fin 32) (env : Env) (s : State) : Host.Outcome State Fault Refusal :=
  .next (match frontPacket s p.val fun o => o == opRead with
    | some k => if inService s && cwTakes s p.val && replyOpen s (p.val / 8) k then decideRead p.val env k s else s
    | none => s)

/-! REMOTE_RESPONSE and REMOTE_TIMEOUT (R443, R444). -/

/-- Bytes of a response in the rows of the window space that a burst reads. -/
def mergeCells (g : List (Nat × BitVec 512)) (l : List Host.Cell) : List (Nat × BitVec 512) :=
  (dedupe (l.map fun c => c.1 / 64 * 64)).foldl (fun h a =>
    let x := cellsRow l a
    let old := ((h.find? fun e => e.1 == rowKey false a).map Prod.snd).getD 0
    (h.filter fun e => e.1 != rowKey false a) ++ [(rowKey false a, blend old x.1 x.2)]) g

def burstAnswered (bid tag : Nat) (u : TagUse) (k : Packet) (s : State) : State :=
  match Tbl.get? s.bursts bid with
  | none => s
  | some b =>
    if u.write then writeReady b.slot (markLanded b.slot (packetOver bid tag s))
    else arrive bid (packetOver bid tag (updBurst bid (fun y => { y with got := mergeCells y.got (cellsFrom u.offset k.data) }) s))

def answerTag (k : Packet) (u : TagUse) (s : State) : State :=
  if k.status ≠ stOk then
    presentAll (failTag k.tag k.status s).beats (failTag k.tag k.status s).st
  else
    let s1 := dropTag k.tag s
    match u.owner with
    | .burst bid => burstAnswered bid k.tag u k s1
    | .msg m core => if hdrAck m.hdr then presentAll (tellCore core (withStatus m.hdr stOk) s1) s1 else s1
    | .heartbeat => s1

/-- A response finds its request, or has come too late. -/
def takeResponse (p : Nat) (k : Packet) (s : State) : State :=
  match tagUse s k.tag with
  | some u => answerTag k u s
  | none => portBump p 4 1 s

/-- Quarter of whoever sent a request: a burst's mover, a core, or the mirror at the port itself. -/
def ownerQuarter (s : State) (p : Nat) : Owner → Nat
  | .burst b => (((Tbl.get? s.bursts b).map fun x => moverQuarter x.mover)).getD (p / 8)
  | .msg _ core => (coreEntry s core).port / 16
  | .heartbeat => p / 8

/-- A response can cross from its port to the port that holds its request's tag, and on to whoever sent that (R71). -/
def responseOpen (s : State) (p : Nat) (k : Packet) : Bool :=
  crossOpen s (p / 8) (k.tag / 1024 / 8) && (tagUse s k.tag).all fun u => crossOpen s (k.tag / 1024 / 8) (ownerQuarter s p u.owner)

def isResponse (op : Nat) : Bool := op == opWriteAck || op == opReadData || op == opMessageResp || op == opNack

/-- REMOTE_RESPONSE (R396, R443, R444); point 0x0034 drops a response (R503). -/
def execRemoteResponse (p : Fin 32) (s : State) : Host.Outcome State Fault Refusal :=
  .next (match frontPacket s p.val isResponse with
    | none => s
    | some k =>
      if inService s && cwTakes s p.val && responseOpen s p.val k then
        let forced := (injFires s [0x34] p.val).isSome
        let s1 := injEvent [0x34] p.val 1 (islPort p.val) (dropPacket p.val s)
        if forced then s1 else takeResponse p.val k s1
      else s)

/-- REMOTE_TIMEOUT (R396, R444). -/
def execRemoteTimeout (p : Fin 32) (reqTag : BitVec 16) (s : State) : Host.Outcome State Fault Refusal :=
  .next (if inService s && cwTakes s p.val && reqTag.toNat / 1024 == p.val && (tagUse s reqTag.toNat).isSome then
      failTags [reqTag.toNat] stRemoteTimeout (portBump p.val 3 1 s)
    else s)

end Sys2Proof.Machine
end

