-- ==== Sys2Proof/Machine/Release.lean ====
section
/-! DEFINITION. JOB_RELEASE: a job's streams, windows, queues, ranges, memory and slots go, step by step (04_mailboxes.md,
R150, R151). -/

namespace Sys2Proof.Machine

def keysOf {α : Type} (t : Tbl α) (p : α → Bool) : List Nat := Tbl.keys (Tbl.filterV t fun _ v => p v)

/-! Steps 1 to 3: at acceptance. -/

def disableAll (j : Nat) (s : State) : State := (keysOf s.streams fun x => x.job == j).foldl (fun t i => disableStream i t) s

/-- STATE is RELEASING, of a ring in ERROR too; entries that have not started complete STREAM_DISABLED (R180). -/
def releaseRing (r : Ring) : Ring := { r with state := if r.state = 1 ∨ r.state = 3 then 4 else r.state, reread := true }

def releaseRings (j : Nat) (s : State) : State :=
  { s with rings := s.rings.mapV fun _ r => if r.job = j then releaseRing r else r }

def releaseWindow (t : State) (w : Nat) : State :=
  match windowAt t w with
  | some x => if x.state = wdClosed then freeWindow w t else beginClose w true t
  | none => t

def releaseWindows (j : Nat) (s : State) : State := (keysOf s.cw.windows fun x => x.job == j).foldl releaseWindow s

/-- Queues close; what they hold is discarded when they are freed. -/
def closeQueues (j : Nat) (s : State) : State :=
  (keysOf s.queues fun q => q.job == j).foldl
    (fun t n => flushWaiting .quiet n (updQueue n (fun q => { q with state := qClosed }) t)) s

def beginRelease (j : Nat) (s : State) : State :=
  closeQueues j (releaseWindows j (releaseRings j (disableAll j
    { s with jobs := Tbl.upd s.jobs j fun x => { x with releasing := true } })))

/-! Steps 4 and 5. -/

/-- The entries of the ring have completed. One that has failed fetches nothing more, so what lies beyond its fetch head has
no completion. DESIGN CHOICE (log entry 96). -/
def ringDrained (r : Ring) : Bool :=
  r.state != 2 && (r.retire == r.tail || (r.broken && r.entries.all fun e => e.st == .done || e.st == .unwritten))

/-- The job's entries have completed and its windows are closed. -/
def releaseDrained (s : State) (j : Nat) : Bool :=
  (s.rings.all fun e => e.2.job != j || ringDrained e.2) && s.cw.windows.all fun e => e.2.job != j

def releaseWd (j : Nat) (seq : Word32) (go : Nat) (kind : WdKind) (va pages : Nat) (domain : Option Nat) : Wd :=
  { id := 0, mbox := none, job := some j, opcode := 0x0302, cmdSeq := seq, kind := kind, va := va, pages := pages, domain := domain,
    drained := [], tiles := 0, dropped := 0, acks := [], start := go }

def withdrawEntry (j : Nat) (seq : Word32) (go : Nat) (t : State) (n : Nat) : State :=
  match Tbl.get? t.xlate.ranges n with
  | some r =>
    if r.withdrawing then t
    else
      startWd (releaseWd j seq go (.unmap n) r.va (rangeSpan r / 4096) (some r.domain))
        { t with xlate := { t.xlate with ranges := Tbl.put t.xlate.ranges n { r with withdrawing := true } } }
  | none => t

def withdrawAlloc (j : Nat) (seq : Word32) (go : Nat) (t : State) (p : Nat) : State :=
  match Tbl.get? t.allocs p with
  | some a =>
    if a.withdrawing then t
    else
      startWd (releaseWd j seq go (.mere p) (p * 4096) a.pages none)
        { t with allocs := Tbl.put t.allocs p { a with withdrawing := true } }
  | none => t

/-- Step 4: the job's range entries are withdrawn. -/
def withdrawRanges (j : Nat) (seq : Word32) (go : Nat) (s : State) : State :=
  settleWds ((keysOf s.xlate.ranges fun r => r.domain == j).foldl (withdrawEntry j seq go) s)

/-- No range entry of the job is left. -/
def rangesGone (s : State) (j : Nat) : Bool := s.xlate.ranges.all fun e => e.2.domain != j

/-- Step 5: the job's queues, rings and streams go, with the bindings of its streams, and its Mere space is withdrawn. -/
def freeObjects (j : Nat) (seq : Word32) (go : Nat) (s : State) : State :=
  let s1 := (keysOf s.queues fun q => q.job == j).foldl (fun t n => freeQueue n (discardHeld n qcDiscarded t)) s
  let s2 := (keysOf s1.rings fun r => r.job == j).foldl (fun t r => destroyRing r t) s1
  let s3 := (keysOf s2.bindings fun b => b.job == j).foldl (fun t k => unbind k t) s2
  let s4 := (keysOf s3.streams fun x => x.job == j).foldl (fun t i => freeStream i t) s3
  settleWds ((keysOf s4.allocs fun a => a.job == j).foldl (withdrawAlloc j seq go) s4)

/-- No Mere allocation of the job is left. -/
def allocsGone (s : State) (j : Nat) : Bool := s.allocs.all fun e => e.2.job != j

/-- The scale registers of the job's blocks are zeroed with them (R360). -/
def freeBlocks (j : Nat) (q : Quantiser) : Quantiser := (keysOf q.blocks fun o => o == j).foldl freeBlock q

/-- Table slots are freed and key slots zeroised; scale registers and bases that the job holds go with them, and what the
expanders have cached of its bases (R323). -/
def freeSlots (j : Nat) (s : State) : State :=
  let gone := keysOf s.bases fun b => b.job == j
  let s1 := (keysOf s.keys fun k => k.job == j).foldl (fun t k => keepKey k t) s
  { s1 with
    tables := s1.tables.filterV fun _ t => t.job != j
    keys := s1.keys.filterV fun _ k => k.job != j
    bases := s1.bases.filterV fun _ b => b.job != j
    expanders := s1.expanders.mapV fun _ x => { x with cache := x.cache.filter fun l => !gone.contains l.base }
    quants := s1.quants.mapV fun _ q => freeBlocks j q }

/-! Step 6. -/

def endRelease (j : Nat) (s : State) : State :=
  let s1 := freeSlots j s
  finishWait (.release j) stOk 0 0 (mirrorSend (.job j none) { s1 with jobs := Tbl.del s1.jobs j })

/-- The next of the steps, once what it waits for has come. -/
def releaseStep (j : Nat) (seq : Word32) (go : Nat) (s : State) : State :=
  let s1 := if releaseDrained s j then withdrawRanges j seq go s else s
  let s2 := if releaseDrained s1 j && rangesGone s1 j then freeObjects j seq go s1 else s1
  if releaseDrained s2 j && rangesGone s2 j && allocsGone s2 j then endRelease j s2 else s2

def jobRelease (c : Cmd) (s : State) : State × Reply :=
  let j := fld c.body 0 8
  let fresh := ((Tbl.get? s.jobs j).map Job.releasing) == some false
  (if fresh then beginRelease j s else s, .wait (.release j))

def specJobRelease : CmdSpec :=
  { op := 0x0103, hw := false, sel := fun _ => true,
    flds := fun s _ => [fun _ => [chk 1 0 8 fun v => refuseUnless (jobNamed s v)]], act := jobRelease }

/-- Job whose release the command in mailbox `m` waits for. -/
def releasing (s : State) (m : Nat) : Option (Nat × Word32) :=
  match busyBox s m with
  | some b =>
    match b.wait with
    | .release j => some (j, b.cmdSeq)
    | _ => none
  | none => none

def advanceRelease (m : Nat) (s : State) : State :=
  match releasing s m with
  | some (j, seq) => if mgmtRuns s then releaseStep j seq (goAt s m) s else s
  | none => s

/-- JOB_RELEASE: accepts the command, or carries on with a release that waits (R150, R151). -/
def execJobRelease (m : Fin 8) (s : State) : Host.Outcome State Fault Refusal :=
  .next (advanceRelease m.val (runCmd specJobRelease m s))

end Sys2Proof.Machine
end

