-- ==== Sys2Proof/Machine/Mirror.lean ====
section
/-! DEFINITION. Mirror pairs: the pair commands, heartbeats and paths, promotion, reunion, the full copy, and the application
of mirror traffic (14_mirroring.md, R454 to R474). -/

namespace Sys2Proof.Machine

def updMirror (f : Mirror → Mirror) (s : State) : State := { s with mirror := f s.mirror }

/-! Role changes (R474). -/

def rsPair : Nat := 0
def rsUnpair : Nat := 1
def rsPartnerUnpair : Nat := 2
def rsPromote : Nat := 3
def rsBothLost : Nat := 4
def rsHigherEpoch : Nat := 5
def rsEpochTie : Nat := 6
def rsResyncDone : Nat := 7
def rsConfig : Nat := 8
def rsWithyLost : Nat := 9
def rsWithyKept : Nat := 10

def pathBits (m : Mirror) : Nat := b2n m.withy + 2 * b2n m.fabric

/-- MIRROR_ROLE_CHANGE, from the pair as it was and as it is. -/
def roleRec (s : State) (old : Mirror) (reason lag : Nat) : PeatRec :=
  let m := s.mirror
  mkRec s 0x080 3 islMgmt [m.role, m.syncState, reason, m.epoch.toNat]
    [pack [(32, m.epoch.toNat), (10, old.partner), (11, 0), (3, m.syncState), (4, reason), (2, m.role), (2, old.role)],
      pack [(28, min (lag / 1024) 0xFFFFFFF), (2, pathBits old), (2, old.partnerRole), (32, old.partnerEpoch.toNat)]]

/-- Changes the pair's part of the state; a change of role or SYNC_STATE is recorded and sets the mirror cause. -/
def changePair (reason : Nat) (f : Mirror → Mirror) (s : State) : State :=
  let s1 := updMirror f s
  if s1.mirror.role = s.mirror.role ∧ s1.mirror.syncState = s.mirror.syncState then s1
  else
    let paths := { s.mirror with withy := s1.mirror.withy, fabric := s1.mirror.fabric, partner := if s1.mirror.paired then s1.mirror.partner else s.mirror.partner }
    setCause 6 0 (offer none (roleRec s1 paths reason (lagOf s.mirror)) s1)

/-! Withy ports (R414, R458, R472). -/

def withyPorts (m : Mirror) : List Nat := if m.paired then [m.portA, m.portB] else []

def setWithy (m : Mirror) (on : Bool) (s : State) : State :=
  (withyPorts m).foldl (fun t p =>
    setCport p (fun x => { x with state := if on then (if x.state = 4 then 5 else x.state) else if x.state = 5 then 4 else x.state }) t) s

/-- A CONTROL flit with a payload on every Withy port in service (log entry 31). -/
def withyFlit (s : State) (p kind : Nat) (content : Nat) : BitVec 2048 :=
  let f := controlBetween s p kind 0 s.cw.deviceId s.mirror.partner 0
  let g := BitVec.ofNat 2048 (flitField f 0 64 + (pack [(8, kind), (56, 0), (512, content)] <<< 128))
  BitVec.ofNat 2048 (g.toNat + (flitCrc g <<< 64))

def sendWithy (kind content : Nat) (s : State) : State :=
  ((withyPorts s.mirror).filter fun p => (cport s p).state == 5 && cwTakes s p).foldl (fun t p =>
    setCport p (fun x => { payOwed x with out := [withyFlit t p kind content] }) (portBump p ctrSent 1 t)) s

/-! MIRROR_PAIR (R457, R458). -/

def withyPortOk (s : State) (b v other : Nat) : Bool :=
  (cport s v).state == 4 && (cport s v).farId == some (fld b 64 10) && (pentry s v).enc && v / 8 != other / 8 && v != other

def pairFlds (s : State) (_ : Nat) : List (Nat → List Fld) :=
  [fun _ => [
    chk 1 96 32 fun v => refuseUnless (v != 0xFFFFFFFF),
    rsvd 2 90 6,
    chkB 3 80 10 fun b v => refuseUnless (!(s.cw.idValid && v == s.cw.deviceId) && v != fld b 64 10),
    rsvd 4 74 6,
    chk 5 64 10 fun v => refuseUnless (s.cw.idValid && v != s.cw.deviceId),
    chk 6 48 16 (clampIn 10 10000),
    chk 7 40 8 (clampIn 3 255),
    rsvd 8 39 1,
    chk 9 32 7 (clampIn 1 64),
    rsvd 10 26 6,
    chkB 11 21 5 fun b v => refuseUnless (withyPortOk s b v (fld b 16 5)),
    chkB 12 16 5 fun b v => refuseUnless (withyPortOk s b v (fld b 21 5)),
    rsvd 13 5 11,
    rsvd 16 2 1,
    chk 17 0 2 fun v => refuseUnless (decide (v < 2) && s.mirror.role == roleSolo)]]

def stacksUp (s : State) : List Nat := (List.range 24).filter fun k => (stackAt s k).state == 1

def newPair (b : Nat) (s : State) : Mirror :=
  { Mirror.reset with
    role := if fld b 0 2 = 0 then rolePrimary else roleMirror
    epoch := BitVec.ofNat 32 (fld b 96 32)
    paired := true
    service := fld b 80 10
    partner := fld b 64 10
    hbPeriod := fld b 48 16
    missCount := fld b 40 8
    lagMib := fld b 32 7
    portA := fld b 16 5
    portB := fld b 21 5
    dataMirror := fld b 4 1 == 1
    sync := fld b 3 1 == 1
    syncState := syncJoining
    stacksAtPair := stacksUp s }

def pairUp (c : Cmd) (s : State) : State × Reply :=
  if Tbl.has s.cw.windows heartbeatWindow then (s, endWith stExhausted)
  else
    let s1 := changePair rsPair (fun _ => newPair c.body s) s
    (setWithy s1.mirror true s1, okEmpty)

def specMirrorPair : CmdSpec := { op := 0x0801, hw := false, sel := fun _ => true, flds := pairFlds, act := pairUp }

/-- MIRROR_PAIR (R457, R458). -/
def execMirrorPair (m : Fin 8) (s : State) : Host.Outcome State Fault Refusal := .next (runCmd specMirrorPair m s)

/-! The end of a pair (R459, R472). -/

/-- SOLO: the Withy ports return to UP and window 4,095 is free. -/
def goSolo (reason : Nat) (s : State) : State := changePair reason (fun _ => Mirror.reset) (setWithy s.mirror false s)

def kRing : Nat := 1
def kStream : Nat := 2
def kRange : Nat := 3
def kWindow : Nat := 4
def kAlloc : Nat := 5
def kBinding : Nat := 6
def kJob : Nat := 7

def mirroredOf (s : State) (k : Nat) : List Nat := (s.mirror.mirrored.filter fun e => e.1 == k).map Prod.snd

/-- The release of each mirrored job begins, as JOB_RELEASE begins it (R151, R472). -/
def releaseMirrored (s : State) : State := (mirroredOf s kJob).foldl (fun t j => beginRelease j t) s

/-- The pair ends; a MIRROR or FENCED member answers once its mirrored jobs are released. -/
def unpairAct (s : State) : State × Reply :=
  if !s.mirror.paired then (s, okEmpty)
  else
    let s1 := sendWithy 6 0 s
    let l := if 2 ≤ s.mirror.role then mirroredOf s kJob else []
    (goSolo rsUnpair (if l.isEmpty then s1 else releaseMirrored s1), if l.isEmpty then okEmpty else .wait (.unpair l))

/-- The releases that a MIRROR_UNPAIR in mailbox `m` waits for go on. -/
def advanceUnpair (m : Nat) (s : State) : State :=
  match busyBox s m with
  | some b =>
    match b.wait with
    | .unpair l =>
      let t := l.foldl (fun t j => if Tbl.has t.jobs j then releaseStep j b.cmdSeq (goAt s m) t else t) s
      if l.any fun j => Tbl.has t.jobs j then t else finishWait (.unpair l) stOk 0 0 t
    | _ => s
  | none => s

def specMirrorUnpair : CmdSpec :=
  { op := 0x0802, hw := false, sel := fun _ => true, flds := fun _ _ => [], act := fun _ s => unpairAct s }

/-- MIRROR_UNPAIR: accepts the command, or carries on with the releases that it waits for (R472). -/
def execMirrorUnpair (m : Fin 8) (s : State) : Host.Outcome State Fault Refusal :=
  let t := runCmd specMirrorUnpair m s
  .next (if mgmtRuns t then advanceUnpair m.val t else t)

/-- PAIR_END: a PRIMARY becomes SOLO, another member FENCED (R472). -/
def execPairEnd (s : State) : Host.Outcome State Fault Refusal :=
  .next (if !(inService s && s.mirror.paired) then s
    else if s.mirror.role = rolePrimary then goSolo rsPartnerUnpair s
    else changePair rsPartnerUnpair (fun m => { m with role := roleFenced, syncState := syncDetached }) s)

/-! Fencing (R456, R466, R470). -/

def fenceEntry (n : Nat) (t : State) (e : RingEntry) : State := settleUndef n e.pos stNackFenced (fetchMover t n) none t

/-- Every entry fetched and not completed ends fenced. -/
def fenceRing (t : State) (n : Nat) : State :=
  (((Tbl.get? t.rings n).map Ring.entries).getD []).foldl (fenceEntry n) t

/-- Work in flight is dropped as a stream disable drops it, without the disable bit, and the entry in progress ends fenced. -/
def fenceStream (t : State) (i : Nat) : State :=
  match Tbl.get? t.streams i with
  | none => t
  | some x =>
    if 2 ≤ x.state ∧ x.state ≤ 4 then
      storeCtx i (updStream i (fun y => { toIdle y with waiting := [] })
        (settleDropped stNackFenced x.ring x.entryPos (ranOn t x) (dropWork (some (.completion x.ring x.entryPos)) i t)))
    else updStream i (fun y => { y with waiting := [] }) (dropWork none i t)

/-- Every object of a kind that is mirrored. -/
def allObjects (s : State) : List (Nat × Nat) :=
  (Tbl.keys s.rings).map (kRing, ·) ++ (Tbl.keys s.streams).map (kStream, ·) ++ (Tbl.keys s.xlate.ranges).map (kRange, ·) ++
    (Tbl.keys s.cw.windows).map (kWindow, ·) ++ (Tbl.keys s.allocs).map (kAlloc, ·) ++ (Tbl.keys s.bindings).map (kBinding, ·) ++
    (Tbl.keys s.jobs).map (kJob, ·)

/-- A PRIMARY fences: its work ends, and its objects are the pair's to replace. -/
def fencePrimary (reason : Nat) (s : State) : State :=
  let s1 := (Tbl.keys s.streams).foldl fenceStream s
  let s2 := (Tbl.keys s.rings).foldl fenceRing s1
  changePair reason (fun m =>
    { m with role := roleFenced, syncState := syncDetached, queue := [], copyLeft := 0, lagStop := false, mirrored := allObjects s }) s2

/-! The full copy (R471). -/

/-- Look-aside copies of a range entry go with it. -/
def dropRangeCopies (n : Nat) (s : State) : State :=
  { s with movers := s.movers.mapV fun _ m => { m with lab := m.lab.filter fun e => e.range != some n } }

/-- What has been translated through the page tables goes with their root. -/
def dropPagedCopies (s : State) : State :=
  { s with
    movers := s.movers.mapV fun _ m => { m with lab := m.lab.filter fun e => e.range.isSome }
    xlate := { s.xlate with q := [] } }

/-- The mirrored rings, streams and Mere allocations go, with the copies of mirrored ranges. -/
def discardCopies (s : State) : State :=
  let s0 := (mirroredOf s kRange).foldl (fun t n => dropRangeCopies n t) s
  let s1 := (mirroredOf s kRing).foldl (fun t r => { t with rings := Tbl.del t.rings r, irq := t.irq.clearRing r }) s0
  let s2 := (mirroredOf s kStream).foldl (fun t i => dropCtx i { t with streams := Tbl.del t.streams i }) s1
  (mirroredOf s kAlloc).foldl (fun t p =>
    zeroPages (p * 4096) (((Tbl.get? t.allocs p).map MereAlloc.pages).getD 0) { t with allocs := Tbl.del t.allocs p }) s2

/-- What is discarded before a copy is received. -/
def discardMirrored (s : State) : State :=
  let t := discardCopies s
  { t with
    xlate := { t.xlate with ranges := t.xlate.ranges.filterV fun n _ => !(mirroredOf s kRange).contains n }
    cw := { t.cw with windows := t.cw.windows.filterV fun n _ => !(mirroredOf s kWindow).contains n }
    bindings := t.bindings.filterV fun n _ => !(mirroredOf s kBinding).contains n
    jobs := t.jobs.filterV fun n _ => !(mirroredOf s kJob).contains n
    mirror := { t.mirror with mirrored := [] } }

/-- The body that creates a ring as it stands (R172). -/
def ringBody (n : Nat) (r : Ring) : BitVec 128 :=
  BitVec.ofNat 128 (pack [(64, r.base), (8, 0), (2, r.quarter), (6, r.vector.toNat), (16, r.mask.toNat), (1, b2n r.place), (7, 0),
    (5, r.sizeLog2), (3, 0), (16, n)])

/-- The body that allocates a stream as it stands (R215). -/
def streamBody (i : Nat) (x : Stream) : BitVec 128 :=
  BitVec.ofNat 128 (pack [(16, 0), (8, x.prio), (8, x.weight), (16, x.low), (16, x.high), (24, x.paceQueue), (8, x.paceKind), (32, i)])

def objectItems (s : State) : List MirrorItem :=
  (s.jobs.map fun e => .job e.1 (some e.2.res)) ++
  (s.allocs.map fun e => .mereAlloc e.1 e.2.pages e.2.job e.2.firstCore e.2.coreCount e.2.perm) ++
  (s.rings.flatMap fun e => [.ring e.1 (some (ringBody e.1 e.2)) e.2.job,
    .ringStatus e.1 (BitVec.ofNat 64 (ringWord0 e.2)) (BitVec.ofNat 64 (ringWord1 e.2))]) ++
  (s.streams.flatMap fun e => [.stream e.1 (some (streamBody e.1 e.2)) e.2.job, .context e.1 (BitVec.ofNat 512 (ctxWord e.2))]) ++
  (s.xlate.ranges.map fun e => .range e.1 (some e.2.mbody)) ++
  [.paged (BitVec.ofNat 42 s.xlate.root) s.xlate.enable (BitVec.ofNat 4 s.xlate.tableKey)] ++
  (s.cw.windows.map fun e => .window e.1 (some (bodyState e.2)) e.2.job) ++
  s.bindings.flatMap fun e =>
    .binding (e.1 / 4) (e.1 % 4) (some e.2.mbody) :: e.2.hist.map fun h => .history (e.1 / 4) (e.1 % 4) h.1 h.2

/-- The slot whose key a block of a stack was written under. -/
def slotOfTag (s : State) (b : Nat) : Nat :=
  match Tbl.get? s.mem.tags b with
  | some t => ((List.range 16).find? fun k => material s k == t).getD 0
  | none => 0

/-- Written stack memory block by block, and what the allocations hold. -/
def memoryItems (s : State) : List MirrorItem :=
  ((dedupe (s.mem.stack.map fun c => c.1 / 16)).map fun b =>
    let k := slotOfTag s b
    let l := (s.mem.stack.filter fun c => c.1 / 16 == b).map Prod.fst
    .stackWrite (l.headD (16 * b)) (BitVec.ofNat 4 k)
      (stackBytes s.mem (material s k) (l.headD (16 * b)) ((l.getLast?.getD (16 * b)) + 1 - l.headD (16 * b)))) ++
    (byteRuns (s.mem.mere.map Prod.fst) []).map fun r => .mereWrite r.1 (zeroBytes s.mem.mere r.1 r.2)

def copyItems (s : State) : List MirrorItem := objectItems s ++ (if s.mirror.dataMirror then memoryItems s else [])

/-- The source queues the copy; it is taken as the links carry it and counts as no lag. DESIGN CHOICE (log entry 33). -/
def startCopy (reason : Nat) (s : State) : State :=
  changePair reason (fun m =>
    { m with syncState := syncResync, queue := (copyItems s).map fun i => (i, 0), copyLeft := (copyItems s).length, lagStop := false }) s

/-- The receiver discards what it mirrored and takes the copy. -/
def startReceive (reason : Nat) (s : State) : State := changePair reason (fun m => { m with syncState := syncResync }) (discardMirrored s)

/-! Heartbeats (R459, R464, R466, R469, R470). -/

def epochLess (a b : Word32) : Bool := decide (a.toNat < b.toNat)

/-- The pair joins, or the members disagree and part. -/
def joinPair (hb : Heartbeat) (s : State) : State :=
  if hb.role.toNat ≠ s.mirror.role ∧ hb.paramsEqual = true then
    (if s.mirror.role = rolePrimary then startCopy rsPair s else startReceive rsPair s)
  else goSolo rsConfig s

/-- Both members serve, or the partner's epoch is higher: who fences (R470). A MIRROR discards its mirrored state at once; what
was a PRIMARY's own goes when the copy begins, after its entries have completed. DESIGN CHOICE (log entry 98). -/
def reunite (hb : Heartbeat) (s : State) : State :=
  if epochLess s.mirror.epoch hb.epoch then
    (if s.mirror.role = rolePrimary then fencePrimary rsHigherEpoch s
    else
      changePair rsHigherEpoch (fun m => { m with role := roleFenced, syncState := syncDetached })
        (if s.mirror.role = roleMirror then discardMirrored s else s))
  else if s.mirror.epoch = hb.epoch ∧ s.mirror.role = rolePrimary ∧ hb.role.toNat = rolePrimary then fencePrimary rsEpochTie s
  else s

/-- This member is the source of a copy that Withy can carry now. -/
def canSource (hb : Heartbeat) (s : State) : Bool :=
  s.mirror.withy && s.mirror.syncState == syncDetached && s.mirror.role == rolePrimary && hb.role.toNat != rolePrimary &&
    !epochLess s.mirror.epoch hb.epoch

def canReceive (hb : Heartbeat) (s : State) : Bool :=
  s.mirror.withy && s.mirror.syncState == syncDetached && decide (2 ≤ s.mirror.role) && hb.role.toNat == rolePrimary &&
    !epochLess hb.epoch s.mirror.epoch

/-- The source has seen the last item acknowledged. -/
def copyDone (hb : Heartbeat) (s : State) : Bool :=
  s.mirror.syncState == syncResync && decide (2 ≤ s.mirror.role) && hb.role.toNat == rolePrimary && hb.sync.toNat == syncInSync

def becomeMirror (hb : Heartbeat) (s : State) : State :=
  changePair rsResyncDone (fun m =>
    { m with role := roleMirror, syncState := syncInSync, epoch := hb.epoch, resyncs := m.resyncs + 1 }) s

/-- A MIRROR in step takes its primary's epoch. -/
def followEpoch (hb : Heartbeat) (s : State) : State :=
  if s.mirror.role = roleMirror ∧ s.mirror.syncState = syncInSync ∧ hb.role.toNat = rolePrimary then
    updMirror (fun m => { m with epoch := hb.epoch }) s
  else s

/-- A joined member after a counted heartbeat. -/
def pairStep (was : Mirror) (hb : Heartbeat) (s : State) : State :=
  let s1 := followEpoch hb s
  let s2 := if was.split || (epochLess s1.mirror.epoch hb.epoch && s1.mirror.role != roleFenced) then reunite hb s1 else s1
  if canSource hb s2 then startCopy rsWithyKept s2
  else if canReceive hb s2 then startReceive rsWithyKept s2
  else if copyDone hb s2 then becomeMirror hb s2
  else s2

/-- What every counted heartbeat leaves: its path is kept, and the partner's last word. -/
def noteBeat (withy : Bool) (hb : Heartbeat) (m : Mirror) : Mirror :=
  { m with
    withy := withy || m.withy
    fabric := !withy || m.fabric
    split := m.split && m.syncState == syncJoining
    partnerEpoch := hb.epoch
    partnerRole := hb.role.toNat
    partnerHealth := hb.health }

def counted (s : State) (withy : Bool) (hb : Heartbeat) : Bool :=
  s.mirror.paired && hb.device.toNat == s.mirror.partner && hb.service.toNat == s.mirror.service &&
    (if withy then s.mirror.muteWithy else s.mirror.muteFabric) == 0

def heardBeat (withy : Bool) (hb : Heartbeat) (s : State) : State :=
  let s1 := updMirror (noteBeat withy hb) s
  let s2 := if s.mirror.partnerHealth &&& ~~~hb.health = 0 then s1 else setCause 6 0 s1
  if s.mirror.syncState = syncJoining then (if withy then joinPair hb s2 else s2) else pairStep s.mirror hb s2

/-- HEARTBEAT_RECEIVE (R459, R464, R469, R470, R471). -/
def execHeartbeatReceive (withy : Bool) (hb : Heartbeat) (s : State) : Host.Outcome State Fault Refusal :=
  .next (if inService s && counted s withy hb then heardBeat withy hb s else s)

/-- Point 0x0035 acts on the periods that begin. -/
def mutePath (unit : Nat) (left : Nat) (s : State) : State × Nat :=
  if 1 < left then (s, left - 1)
  else
    (injEvent [0x35] unit 3 islMgmt s, ((injFires s [0x35] unit).map fun a => fld a.arg.toNat 0 8).getD 0)

def beginPeriod (s : State) : State :=
  let a := mutePath 0 s.mirror.muteWithy s
  let b := mutePath 1 s.mirror.muteFabric a.1
  updMirror (fun m => { m with muteWithy := a.2, muteFabric := b.2, hbSeq := m.hbSeq + 1 }) b.1

/-- The READ of the partner's heartbeat window. -/
def sendFabric (s : State) : State :=
  let d := s.mirror.partner
  match routeFor s d [s.cw.deviceId, d] with
  | none => s
  | some p =>
    match freeTag (cport s p) with
    | none => s
    | some t =>
      if cwTakes s p then
        let k : Packet := { src := s.cw.deviceId, dst := d, hops := (routeOf s d).hops, vc := 0,
                            hdr := packetHdr 0 opRead (p * 1024 + t) 64 heartbeatWindow 0, data := [], job := some 0 }
        sendPacket p k (putTag p t { owner := .heartbeat, write := false, offset := 0, dst := d } s)
      else s

/-- HEARTBEAT_SEND (R464). -/
def execHeartbeatSend (s : State) : Host.Outcome State Fault Refusal :=
  .next (if inService s && s.mirror.paired then
      let s1 := beginPeriod s
      sendFabric (sendWithy 7 (bytesToNat (heartbeatBytes s1)) s1)
    else s)

/-! PATH_LOSS (R466). -/

def detach (m : Mirror) : Mirror := { m with syncState := syncDetached, queue := [], copyLeft := 0, lagStop := false }

/-- The table of R466 once a path is lost. -/
def actOnLoss (withy : Bool) (s : State) : State :=
  let m := s.mirror
  let w := m.withy && !withy
  let f := m.fabric && withy
  let both := !w && !f
  let g := fun (x : Mirror) => { x with withy := w, fabric := f, split := x.split || both }
  if w then updMirror g s
  else
    changePair (if both then rsBothLost else rsWithyLost) (fun x =>
      let y := detach (g x)
      if both && x.role == roleMirror then { y with role := roleFenced } else y) s

/-- PATH_LOSS (R466). -/
def execPathLoss (withy : Bool) (s : State) : Host.Outcome State Fault Refusal :=
  .next (if inService s && s.mirror.paired && s.mirror.syncState != syncJoining &&
      (if withy then s.mirror.withy else s.mirror.fabric) then actOnLoss withy s
    else s)

/-! MIRROR_PROMOTE (R468, R469). -/

def maxEpoch (s : State) : Bool := s.mirror.epoch == 0xFFFFFFFF

def promoteFlds (s : State) (_ : Nat) : List (Nat → List Fld) :=
  [fun _ => [
    rsvd 1 33 31,
    chk 2 32 1 fun v => refuseUnless (s.mirror.role == roleSolo || maxEpoch s || v == 1 || s.mirror.syncState == syncInSync),
    chk 3 0 32 fun v => refuseUnless (s.mirror.role != roleSolo && (maxEpoch s || v == s.mirror.epoch.toNat + 1))]]

/-- A mirrored ring starts again at its RETIRE, a mirrored stream at its last descriptor boundary. -/
def rerun (r : Ring) : Ring := { r with head := r.retire, entries := [], state := if r.state = 3 then 3 else 1, reread := true,
                                        fenceWait := false, ownWait := false }

def takeOver (s : State) : State :=
  { s with
    rings := s.rings.mapV fun n r => if isMirrored s kRing n then rerun r else r
    streams := s.streams.mapV fun i x => if isMirrored s kStream i then { toIdle x with waiting := [] } else x }

def promote (c : Cmd) (s : State) : State × Reply :=
  if maxEpoch s then (s, endWith stExhausted)
  else
    let e := BitVec.ofNat 32 (fld c.body 0 32)
    let reply := okWith 8 (pack [(32, e.toNat), (8, s.mirror.role)])
    if s.mirror.role = rolePrimary then (updMirror (fun m => { m with epoch := e }) s, reply)
    else
      (changePair rsPromote (fun m => { detach m with role := rolePrimary, epoch := e, mirrored := [] }) (takeOver s), reply)

def specMirrorPromote : CmdSpec := { op := 0x0803, hw := false, sel := fun _ => true, flds := promoteFlds, act := promote }

/-- MIRROR_PROMOTE (R468, R469). -/
def execMirrorPromote (m : Fin 8) (s : State) : Host.Outcome State Fault Refusal := .next (runCmd specMirrorPromote m s)

/-! MIRROR_QUERY (R473). -/

def mirrorInfo (m : Mirror) : Nat :=
  if m.role = roleSolo then 0
  else
    pack [(8, m.role), (8, m.syncState), (8, pathBits m), (8, b2n m.sync + 2 * b2n m.dataMirror), (32, m.epoch.toNat), (16, m.partner),
      (16, m.service), (32, m.partnerEpoch.toNat), (8, m.partnerRole), (8, m.partnerHealth.toNat), (48, 0), (64, lagOf m), (64, m.waited),
      (64, m.resyncs)]

def specMirrorQuery : CmdSpec :=
  { op := 0x0804, hw := false, sel := fun _ => true, flds := fun _ _ => [], act := fun _ s => (s, okWith 48 (mirrorInfo s.mirror)) }

/-- MIRROR_QUERY (R473). -/
def execMirrorQuery (m : Fin 8) (s : State) : Host.Outcome State Fault Refusal := .next (runCmd specMirrorQuery m s)

/-! MIRROR_ITEM_APPLY (R460, R461). -/

def holdsFor (k n : Nat) (s : State) : State :=
  updMirror (fun m => { m with mirrored := (k, n) :: m.mirrored.filter fun e => e != (k, n) }) s

def letsGo (k n : Nat) (s : State) : State := updMirror (fun m => { m with mirrored := m.mirrored.filter fun e => e != (k, n) }) s

def cmdFor (body job : Nat) : Cmd := { m := 0, op := 0, tag := 0, seq := 0, job := job, body := body }

/-- A position and its WRAP bit as an extended index (R153). -/
def extendedAt (r : Ring) (pos wrap : Nat) : Nat := wrap * ringSize r + pos

def statusRing (w0 w1 : Nat) (r : Ring) : Ring :=
  let retire := extendedAt r (fld w0 48 16) (fld w0 15 1)
  { r with retire := retire, head := retire, tail := extendedAt r (fld w0 16 16) (fld w0 13 1), state := fld w0 10 3, broken := fld w0 10 3 == 3,
           lastError := fld w0 0 8, badBells := fld w1 32 16, resetGen := fld w1 48 16, entries := [] }

/-- A context as its 64 bytes give it (R219). -/
def contextOf (w : Nat) (x : Stream) : Stream :=
  { x with
    gen := fld w 56 8
    job := fld w 52 4
    prio := fld w 49 3
    weight := fld w 45 4 + 1
    disable := fld w 44 1 == 1
    state := stIdle
    paceKind := fld w 39 2
    mover := fld w 32 7
    ring := fld w 20 12
    placePos := fld w 4 16
    placeWrap := fld w 3 1
    paceQueue := fld w 64 24
    low := fld w 96 16
    high := fld w 112 16
    tile := fld w 128 64
    bytes := fld w 192 64
    dropped := fld w 256 32
    crc := BitVec.ofNat 32 (fld w 288 32)
    promoted := fld w 368 16 }

def mirrorStream (i body job : Nat) (s : State) : State :=
  installCtx i { s with streams := Tbl.put s.streams i (newStream (cmdFor body job) (genOf s i)) }

def mirrorWindow (w body job : Nat) (s : State) : State :=
  let x := newWindow (cmdFor body job) w
  { s with cw := { s.cw with windows := Tbl.put s.cw.windows w { x with state := fld body 227 3, body := BitVec.ofNat 256 (setFld body 227 3 0) } } }

def applyItem (i : MirrorItem) (s : State) : State :=
  match i with
  | .job j (some res) => holdsFor kJob j { s with jobs := Tbl.put s.jobs j { res := res, releasing := false } }
  | .job j none => letsGo kJob j { s with jobs := Tbl.del s.jobs j }
  | .ring r (some b) job => holdsFor kRing r { s with rings := Tbl.put s.rings r (newRing (cmdFor b.toNat job)) }
  | .ring r none _ => letsGo kRing r { s with rings := Tbl.del s.rings r, irq := s.irq.clearRing r }
  | .ringStatus r w0 w1 => updRing r (statusRing w0.toNat w1.toNat) s
  | .stream k (some b) job => holdsFor kStream k (mirrorStream k b.toNat job s)
  | .stream k none _ =>
    letsGo kStream k (dropCtx k { s with streams := Tbl.del s.streams k, streamGen := Tbl.put s.streamGen k ((genOf s k + 1) % 256) })
  | .context k c =>
    storeCtx k (updStream k (contextOf c.toNat) { s with streamGen := Tbl.put s.streamGen k (fld c.toNat 56 8) })
  | .range n (some b) =>
    holdsFor kRange n { s with xlate := { s.xlate with ranges := Tbl.put s.xlate.ranges n (bodyRange b.toNat) } }
  | .range n none => letsGo kRange n (dropRangeCopies n { s with xlate := { s.xlate with ranges := Tbl.del s.xlate.ranges n } })
  | .paged root on key => dropPagedCopies { s with xlate := { s.xlate with enable := on, root := root.toNat, tableKey := key.toNat } }
  | .window w (some b) job => holdsFor kWindow w (mirrorWindow w b.toNat job s)
  | .window w none _ => letsGo kWindow w { s with cw := { s.cw with windows := Tbl.del s.cw.windows w } }
  | .mereAlloc p pages job fc cc perm =>
    let a : MereAlloc := { pages := pages, job := job, firstCore := fc, coreCount := cc, perm := perm, withdrawing := false }
    holdsFor kAlloc p (zeroPages (p * 4096) pages { s with allocs := Tbl.put s.allocs p a })
  | .mereFree p =>
    letsGo kAlloc p (zeroPages (p * 4096) (((Tbl.get? s.allocs p).map MereAlloc.pages).getD 0) { s with allocs := Tbl.del s.allocs p })
  | .binding c e (some b) => holdsFor kBinding (bindKey c e) { s with bindings := Tbl.put s.bindings (bindKey c e) (newBinding s b.toNat) }
  | .binding c e none => letsGo kBinding (bindKey c e) { s with bindings := Tbl.del s.bindings (bindKey c e) }
  | .history c e row slots =>
    { s with bindings := Tbl.upd s.bindings (bindKey c e) fun b => { b with hist := Tbl.put b.hist row slots } }
  | .stackWrite pa key data => { s with mem := stackPutAll (material s key.toNat) s.mem pa data }
  | .mereWrite a data =>
    { s with mem := (rowsOf a data.length).foldl (fun m r => putRowMere m r (cellsRow (cellsFrom a data) r).1 (cellsRow (cellsFrom a data) r).2) s.mem }

/-- The member receives mirror traffic. -/
def appliesItems (s : State) : Bool :=
  inService s && s.mirror.paired && decide (2 ≤ s.mirror.role) && (s.mirror.syncState == syncResync || s.mirror.syncState == syncInSync)

/-- MIRROR_ITEM_APPLY: the item takes effect and is acknowledged on Withy (R461). -/
def execMirrorItemApply (item : MirrorItem) (s : State) : Host.Outcome State Fault Refusal :=
  .next (if appliesItems s then sendWithy 8 0 (applyItem item s) else s)

/-! MIRROR_ACK (R462, R463, R471). -/

def ackItem (m : Mirror) : Mirror := Mirror.weigh { m with queue := m.queue.drop 1, copyLeft := m.copyLeft - 1 }

/-- MIRROR_ACK: the oldest item is acknowledged; the last of a copy ends it. -/
def execMirrorAck (s : State) : Host.Outcome State Fault Refusal :=
  .next (if inService s && mirrors s && !s.mirror.queue.isEmpty then
      let s1 := updMirror ackItem s
      if s1.mirror.syncState = syncResync ∧ s1.mirror.copyLeft = 0 then
        changePair rsResyncDone (fun m => { m with syncState := syncInSync, resyncs := m.resyncs + 1 }) s1
      else s1
    else s)

end Sys2Proof.Machine
end

