-- ==== Sys2Proof/Machine/FunctionReset.lean ====
section
/-! DEFINITION. Wedged functions and FUNCTION_RESET: what each reset drops and clears, the rings it abandons, and its
completion (01_complex_overview.md, R27; 03_bringup.md, R109 to R112; 05_rings.md, R177; and the rule of each function). -/

namespace Sys2Proof.Machine

/-- The FUNCTION code of R109 with QUARTER × 0x100: the unit of injection point 0x0028 (R503). -/
def fnCode : Fn → Nat
  | .mover q => q.val * 256
  | .expander q => q.val * 256 + 1
  | .quantiser q => q.val * 256 + 2
  | .slice q => q.val * 256 + 3
  | .causeway q => q.val * 256 + 4
  | .translation => 8
  | .mere => 9
  | .management => 10

/-- Island and level that report for a function: its quarter, or the complex. -/
def fnIsland : Fn → Nat
  | .mover q | .expander q | .quantiser q | .slice q | .causeway q => islQuarter q.val
  | _ => islMgmt

def fnLevel : Fn → Nat
  | .mover _ | .expander _ | .quantiser _ | .slice _ | .causeway _ => 2
  | _ => 3

/-! UNIT_WEDGED (R27). -/

def markWedged (f : Fn) (s : State) : State := setCause 0 (fnBit f) { s with wedged := s.wedged ++ [f] }

/-- UNIT_WEDGED: the mark, the cause, and point 0x0028 where it is armed (R27, R479, R503). Before Boardwalk opens nothing is
marked. DESIGN CHOICE (log entry 104). -/
def execUnitWedged (f : Fn) (s : State) : Host.Outcome State Fault Refusal :=
  .next (if inService s && fnTakes s f then markWedged f (injEvent [0x28] (fnCode f) (fnLevel f) (fnIsland f) s) else s)

/-! Armings and counters of a function (R78, R501). -/

/-- Points held by the units of a function, with the units per quarter of a per-quarter one. -/
def fnPoints : Fn → List (Nat × Nat)
  | .mover _ => [(0x07, 24), (0x08, 24), (0x0A, 24)]
  | .expander _ => [(0x0B, 8), (0x0C, 8), (0x23, 8), (0x24, 8)]
  | .quantiser _ => [(0x0D, 8), (0x0E, 8), (0x0F, 8), (0x25, 8)]
  | .slice _ => [(0x10, 1), (0x29, 1)]
  | .causeway _ => [(0x12, 8), (0x30, 8), (0x31, 8), (0x32, 8), (0x33, 8), (0x34, 8)]
  | .translation => [(0x09, 0), (0x11, 0), (0x22, 0)]
  | .mere => [(0x01, 0), (0x02, 0)]
  | .management => [(0x15, 0)]

/-- The arming is of a unit of the function, or of its watchdog. -/
def armedAt (f : Fn) (a : Arming) : Bool :=
  if a.point = 0x28 then a.unit == fnCode f
  else (fnPoints f).any fun p => p.1 == a.point && (p.2 == 0 || a.unit / p.2 == fnCode f / 256)

/-- Counter group of a function, with its first unit and its number of units (R498). -/
def fnCounters : Fn → Option (Nat × Nat × Nat)
  | .mover _ => none
  | .expander q => some (3, q.val * 8, 8)
  | .quantiser q => some (4, q.val * 8, 8)
  | .slice q => some (5, q.val, 1)
  | .causeway q => some (6, q.val * 8, 8)
  | .translation => some (2, 0, 4)
  | .mere => some (7, 0, 4)
  | .management => some (0, 0, 1)

def counterOfFn (f : Fn) (k : Nat) : Bool :=
  (fnCounters f).any fun g => k / 65536 == g.1 && decide (g.2.1 ≤ k / 256 % 256 ∧ k / 256 % 256 < g.2.1 + g.2.2)

def clearFn (f : Fn) (s : State) : State :=
  { s with inject := s.inject.filter fun a => !armedAt f a, counters := s.counters.filterV fun k _ => !counterOfFn f k }

/-! Entries and streams whose work is dropped (R177, R248). -/

/-- A completion that was only decided is dropped with the rest of its entry. -/
def undecide (e : RingEntry) : RingEntry :=
  { e with st := match e.st with
      | .held _ => .started
      | st => st }

/-- Drops the work of a stream: it becomes IDLE, and its entry waits for the end of the reset, which the OPND_NRDY bits of its
deliveries wait for too (R263). The destination bytes of an abandoned entry are undefined; DESIGN CHOICE (log entry 88): those
that have landed stay. -/
def dropStream (h : Option NrdyHold) (t : State) (i : Nat) : State :=
  match Tbl.get? t.streams i with
  | some x =>
    storeCtx i (updStream i toReset (updRing x.ring (updEntry x.entryPos undecide)
      (dropOrphans h i (dropFeed h i (endRow i (dropReplays i (leaveQueues i (giveUpSlot h i t))))))))
  | none => t

/-- The stream has an entry in progress. -/
def inProgress (x : Stream) : Bool := decide (2 ≤ x.state ∧ x.state ≤ 4)

/-- Streams with an entry in progress that `p` picks out. -/
def streamsWith (s : State) (p : Nat → Stream → Bool) : List Nat :=
  Tbl.keys (s.streams.filterV fun i x => inProgress x && p i x)

def ringsOf (s : State) (l : List Nat) : List Nat := dedupe (l.filterMap fun i => (Tbl.get? s.streams i).map Stream.ring)

/-- Streams that run a burst or hold a slot that `p` picks out. -/
def burstStreams (s : State) (p : Nat → Burst → Bool) : List Nat :=
  dedupe ((s.bursts.filterV p).map fun e => e.2.stream)

/-- STATE RESETTING, with the tail accepted as the reset begins. -/
def stopRing (r : Ring) : Ring := { r with state := 2 }

def tailOf (s : State) (n : Nat) : Nat := ((Tbl.get? s.rings n).map Ring.tail).getD 0

/-- What a reset has dropped as it begins: the state, and the rings it abandons. -/
structure Dropped where
  st : State
  rings : List Nat

def resetHold (f : Fn) : Option NrdyHold := some (.reset (fnCode f))

def dropStreams (f : Fn) (l : List Nat) (s : State) : Dropped := { st := l.foldl (dropStream (resetHold f)) s, rings := ringsOf s l }

/-! The mover group (R55, R229, R248, R263). -/

def onGroup (q : Nat) (x : Stream) : Bool :=
  if x.state = 2 then x.quarter == q else moverQuarter x.mover == q && x.mover != 0x7F

/-- The deliveries of the quarter's ports fail. -/
def failGroup (q : Nat) (h : Option NrdyHold) (s : State) : State :=
  s.ports.foldl (fun t e => if e.1 / 16 = q then e.2.dlvs.foldl (failAt h e.1) t else t) s

/-- A port's requests go, and its token counts start again. -/
def resetTokens (p : Port) : Port := { p with greqs := [], tseq := [] }

def resetMover (m : Mover) : Mover := { Mover.reset with lab := m.lab, relocking := m.relocking }

/-- What is left in the group's slots after its streams have gone. -/
def clearGroup (q : Nat) (s : State) : State :=
  let l := (Tbl.keys s.slots).filter fun n => moverQuarter (slotMover n) == q
  let h := resetHold (.mover (Fin.ofNat 4 q))
  let t := failGroup q h (l.foldl (fun t n => discardSlot h n t) s)
  { t with
    slots := t.slots.filterV fun n _ => moverQuarter (slotMover n) != q
    movers := t.movers.mapV fun m x => if moverQuarter m = q then resetMover x else x
    notices := t.notices.filter fun n => moverQuarter n.mover != q
    ports := t.ports.mapV fun p x => if p / 16 = q then resetTokens x else x }

def homeRings (s : State) (q : Nat) : List Nat := Tbl.keys (s.rings.filterV fun _ r => r.quarter == q)

def resetGroup (q : Nat) (s : State) : Dropped :=
  let d := dropStreams (.mover (Fin.ofNat 4 q)) (streamsWith s fun _ x => onGroup q x) s
  { st := clearGroup q d.st, rings := homeRings s q ++ d.rings }

/-! The expander group (R337). -/

def inGroup8 (q k : Nat) : Bool := k / 8 == q

def resetExpander (x : Expander) : Expander := { x with used := 0, cache := [], arb := .reset, input := [], lag := 0 }

/-- A credit that no burst has used yet is given up, and asked for again. -/
def loseCredit (q : Nat) (x : Slot) : Slot :=
  if x.creditHeld.any (inGroup8 q) then { x with creditHeld := none, creditAsked := false, pin := none } else x

def resetExpanders (q : Nat) (s : State) : Dropped :=
  let d := dropStreams (.expander (Fin.ofNat 4 q)) (burstStreams s fun _ b => b.block.isSome && inGroup8 q b.expander) s
  { st := { d.st with
      slots := d.st.slots.mapV fun _ x => loseCredit q x
      expanders := d.st.expanders.mapV fun k x => if inGroup8 q k then resetExpander x else x }
    rings := d.rings }

/-! The quantiser group (R369). -/

/-- The binding of an entry's source holds bytes or a row of it, or its tile holds a replay buffer. -/
def quantHolds (s : State) (q i : Nat) : Bool :=
  (s.quants.any fun e => inGroup8 q e.1 && e.2.replay.any fun r => r.stream == i) ||
    s.bindings.any fun e => inGroup8 q (quantOfCore s (e.1 / 4)) && e.2.stream == i && (!e.2.held.isEmpty || e.2.acc.isSome)

def ofQuant (x : Stream) : Bool := (x.desc.map Desc.op) == some 3

def groupBindings (s : State) (q : Nat) : List Nat :=
  (Tbl.keys s.bindings).filter fun k => inGroup8 q (quantOfCore s (k / 4))

/-- Held bytes go, each beat counted; histories and statistics are empty. -/
def resetBinding (t : State) (k : Nat) : State :=
  match Tbl.get? t.bindings k with
  | some b =>
    let u := dropHeld k b t
    { u with bindings := Tbl.upd u.bindings k fun y => { clearStats y with hist := [] } }
  | none => t

def resetQuants (q : Nat) (s : State) : Dropped :=
  let d := dropStreams (.quantiser (Fin.ofNat 4 q)) (streamsWith s fun i x => ofQuant x && quantHolds s q i) s
  let t := { d.st with quants := d.st.quants.mapV fun k x => if inGroup8 q k then { x with replay := [] } else x }
  { st := (groupBindings t q).foldl resetBinding t, rings := d.rings }

/-! A queue-service slice (R401). -/

/-- Messages in flight in the slice are lost. -/
def dropInFlight (q : Nat) (s : State) : State :=
  { s with slices := Tbl.upd s.slices q fun x => { x with waiting := [] } }

/-- At completion every queue of the slice has its reader reset, and one whose FREE is pending is freed. -/
def restartQueue (t : State) (n : Nat) : State :=
  let waits := ((queueAt t n).map Queue.freePending).getD false
  let u := flushWaiting .quiet n (resetQueue n qcDiscarded t)
  if waits && (queueAt u n).isSome then freeQueue n u else u

def restartSlice (q : Nat) (s : State) : State :=
  ((Tbl.keys s.queues).filter fun n => sliceNo n == q).foldl restartQueue s

/-! The Causeway group (R111, R444, R461). -/

/-- A link of the quarter loses its flits and trains again. -/
def relink (t : State) (p : Nat) : State :=
  if carriesFlits t p then
    setCport p (fun x => { beginTraining (emptyPort x) 1 with armed := false })
      { t with cw := { t.cw with ports := t.cw.ports.mapV fun i x => forgetVia p [] i x } }
  else t

def groupPorts (q : Nat) : List Nat := (List.range 8).map fun i => q * 8 + i

/-- Every tag outstanding at a port. -/
def tagsOf (s : State) (p : Nat) : List Nat := (Tbl.keys (cport s p).tags).map fun t => p * 1024 + t

def resetLinks (q : Nat) (s : State) : State :=
  let t := (groupPorts q).foldl relink s
  failTags ((groupPorts q).flatMap (tagsOf t)) stUnreachable t

/-! Translation (R111, R298). -/

/-- Streams with a page that waits for a walk. -/
def walkers (s : State) : List Nat :=
  let waits := fun (t : Option Tile) => t.any fun x => !x.walking.isEmpty
  dedupe ((s.slots.filterV fun _ x => waits x.cur || waits x.nxt).map fun e => e.2.stream)

def resetXlate (s : State) : Dropped :=
  let d := dropStreams .translation (walkers s) s
  { st := { d.st with
      movers := d.st.movers.mapV fun _ m => { m with lab := [] }
      xlate := { d.st.xlate with q := [] } }
    rings := d.rings }

/-! The Mere (R388). -/

def isMere : Target → Bool
  | .mere _ => true
  | _ => false

/-- A request that is in the crossbar or in a bank's queue. -/
def inMere (r : MemReq) : Bool := isMere r.target && r.res.isNone

def slotOwner (r : MemReq) : Option (Nat × Nat) :=
  match r.who with
  | .slot n i => some (n, i)
  | _ => none

def areaOwner (r : MemReq) : Option (Nat × Nat) :=
  match r.who with
  | .area n gen => some (n, gen)
  | _ => none

def coreOwner (r : MemReq) : Option (Nat × Nat) :=
  match r.who with
  | .core p rd => some (p, rd)
  | _ => none

def burstOwner (r : MemReq) : Option Nat :=
  match r.who with
  | .burst b => some b
  | _ => none

/-- A row that was being written becomes undefined; combining areas are kept (R111). -/
def spoilRow (t : State) (r : MemReq) : State :=
  if r.write && (areaOwner r).isNone then freeNext { t with mem := putRowMere t.mem r.addr (freeVal 512 t) (BitVec.allOnes 512) } else t

/-- A core's request that lost a row is answered. -/
def nackCore (r : State × List (Nat × DlvBeat)) (k : Nat × Nat) : State × List (Nat × DlvBeat) :=
  match (portAt r.1 k.1).reads.find? fun c => c.id == k.2 with
  | some c =>
    (countMereNack k.1 (endCoreReq k.1 c.id r.1), r.2 ++ [mereNackBeat r.1 k.1 c.slot stFunctionReset c.tag c.len c.addr c.write])
  | none => r

/-- A message whose slot write was dropped is lost. -/
def loseMessage (t : State) (k : Nat × Nat) : State :=
  if (queueAt t k.1).any fun q => q.slots.contains k.2 then
    afterFall k.1 (bumpQ k.1 qcLost 1 (updQueue k.1 (fun q => { q with slots := q.slots.filter fun i => i != k.2 }) t))
  else t

def dedupePairs (l : List (Nat × Nat)) : List (Nat × Nat) :=
  l.foldl (fun x k => if x.contains k then x else x ++ [k]) []

def resetMere (s : State) : Dropped :=
  let lost := s.mem.reqs.filter inMere
  let cores := dedupePairs (lost.filterMap coreOwner)
  let streams := dedupe ((lost.filterMap burstOwner).filterMap fun b => (Tbl.get? s.bursts b).map Burst.stream)
  let t := lost.foldl spoilRow s
  let u := { t with mem := { t.mem with
    reqs := t.mem.reqs.filter fun r => !inMere r && !((coreOwner r).any fun k => cores.contains k) } }
  let v := (dedupePairs (lost.filterMap slotOwner)).foldl loseMessage u
  let w := (lost.filterMap areaOwner).foldl (fun t k => loseAdd k.1 k.2 stFunctionReset t) v
  let n := cores.foldl nackCore (w, [])
  dropStreams .mere streams (presentAll n.2 n.1)

/-! Management (R111, R112, R142). -/

/-- Contents and cause are cleared; a command in progress waits to be answered once Hexob restarts. -/
def clearBox (keep : Bool) (b : Mbox) : Mbox :=
  if b.busy then
    { b with rsp := 0, done := false, cause := false, locked := 0, ignored := 0, clamps := [],
             wait := if keep then b.wait else .reset .management }
  else Mbox.reset

def resetMgmt (m : Nat) (s : State) : State :=
  { s with mbox := s.mbox.mapIdx fun k b => clearBox (k == m) b }

/-! FUNCTION_RESET (R109 to R112). -/

def beginFn (f : Fn) (m : Nat) (s : State) : Dropped :=
  match f with
  | .mover q => resetGroup q.val s
  | .expander q => resetExpanders q.val s
  | .quantiser q => resetQuants q.val s
  | .slice q => { st := dropInFlight q.val s, rings := [] }
  | .causeway q => { st := resetLinks q.val s, rings := [] }
  | .translation => resetXlate s
  | .mere => resetMere s
  | .management => { st := resetMgmt m s, rings := [] }

def stopRings (l : List Nat) (s : State) : State :=
  { s with rings := s.rings.mapV fun n r => if l.contains n then stopRing r else r }

/-- The reset begins: armings and counters of the function go, then its work, and its rings stop. -/
def startReset (f : Fn) (m : Nat) (s : State) : State :=
  let d := beginFn f m (clearFn f s)
  let l := dedupe d.rings
  let run : ResetRun := { fn := f, mboxes := [m], rings := l.map fun n => (n, tailOf s n) }
  settleWds (stopRings l { d.st with resets := d.st.resets ++ [run] })

def mergeReset (f : Fn) (m : Nat) (s : State) : State :=
  { s with resets := s.resets.map fun r => if r.fn = f then { r with mboxes := r.mboxes ++ [m] } else r }

/-- A reset of a function that is resetting already is merged with it (R112). -/
def functionReset (f : Nat → Fn) (c : Cmd) (s : State) : State × Reply :=
  let g := f (fld c.body 8 2)
  (if isResetting s g then mergeReset g c.m s else startReset g c.m s, .wait (.reset g))

def fnReserved (v : Nat) : Bool := decide (v = 5 ∨ v = 6 ∨ v = 7 ∨ v = 9 + 2 ∨ 11 < v)

def resetFlds (_ : State) (_ : Nat) : List (Nat → List Fld) :=
  [fun _ => [rsvd 1 10 6, chkB 2 8 2 fun b v => if 8 ≤ fld b 0 8 then .setTo 0 else .setTo v, chk 3 0 8 fun v => refuseUnless (!fnReserved v)]]

def specReset (code : Nat) (hw : Bool) (f : Nat → Fn) : CmdSpec :=
  { op := 0x0120, hw := hw, sel := fun b => fld b 0 8 == code, flds := resetFlds, act := functionReset f }

def specResetMover : CmdSpec :=
  { op := 0x0120, hw := false, sel := fun b => fld b 0 8 == 0 || fnReserved (fld b 0 8), flds := resetFlds,
    act := functionReset fun q => .mover (Fin.ofNat 4 q) }

/-- FUNCTION_RESET of a mover group, and of a reserved FUNCTION, which is refused (R109, R111, R248). -/
def execFunctionResetMover (m : Fin 8) (s : State) : Host.Outcome State Fault Refusal := .next (runCmd specResetMover m s)

def specResetExpander : CmdSpec := specReset 1 false fun q => .expander (Fin.ofNat 4 q)

/-- FUNCTION_RESET of an expander group (R111, R337). -/
def execFunctionResetExpander (m : Fin 8) (s : State) : Host.Outcome State Fault Refusal := .next (runCmd specResetExpander m s)

def specResetQuantiser : CmdSpec := specReset 2 false fun q => .quantiser (Fin.ofNat 4 q)

/-- FUNCTION_RESET of a quantiser group (R111, R369). -/
def execFunctionResetQuantiser (m : Fin 8) (s : State) : Host.Outcome State Fault Refusal := .next (runCmd specResetQuantiser m s)

def specResetSlice : CmdSpec := specReset 3 false fun q => .slice (Fin.ofNat 4 q)

/-- FUNCTION_RESET of a queue-service slice (R111, R401). -/
def execFunctionResetQueueSlice (m : Fin 8) (s : State) : Host.Outcome State Fault Refusal := .next (runCmd specResetSlice m s)

def specResetCauseway : CmdSpec := specReset 4 false fun q => .causeway (Fin.ofNat 4 q)

/-- FUNCTION_RESET of a Causeway group (R111, R444). -/
def execFunctionResetCauseway (m : Fin 8) (s : State) : Host.Outcome State Fault Refusal := .next (runCmd specResetCauseway m s)

def specResetTranslation : CmdSpec := specReset 8 false fun _ => .translation

/-- FUNCTION_RESET of translation (R111, R298). -/
def execFunctionResetTranslation (m : Fin 8) (s : State) : Host.Outcome State Fault Refusal := .next (runCmd specResetTranslation m s)

def specResetMere : CmdSpec := specReset 9 false fun _ => .mere

/-- FUNCTION_RESET of the Mere (R111, R388). -/
def execFunctionResetMere (m : Fin 8) (s : State) : Host.Outcome State Fault Refusal := .next (runCmd specResetMere m s)

def specResetManagement : CmdSpec := specReset 10 true fun _ => .management

/-- FUNCTION_RESET of management, carried out by the mailbox hardware (R112, R142). -/
def execFunctionResetManagement (m : Fin 8) (s : State) : Host.Outcome State Fault Refusal := .next (runCmd specResetManagement m s)

/-! FUNCTION_RESET_DONE (R110, R112, R177). -/

/-- An entry before the tail that has not completed. -/
def isAbandoned (e : RingEntry) : Bool := e.st != .done

/-- The stream that runs an abandoned entry. -/
def runsEntry (s : State) (n : Nat) (e : RingEntry) : Option Nat :=
  match Tbl.get? s.streams (w0Stream e.w0.toNat) with
  | some x => if inProgress x && x.ring == n && x.entryPos == e.pos then some (w0Stream e.w0.toNat) else none
  | none => none

/-- The entries waiting at streams' admission go with their ring. -/
def unqueue (n : Nat) (s : State) : State :=
  { s with streams := s.streams.mapV fun _ x => { x with waiting := x.waiting.filter fun w => w.1 != n } }

/-- STATE after a reset: a failed ring is in ERROR again, unless its home quarter's mover group was reset (R179). -/
def stateAfter (busy rel broken : Bool) : Nat := if busy then 2 else if rel then 4 else if broken then 3 else 1

/-- The ring once its entries are abandoned. It stays RESETTING while another reset of it runs; `home` is the reset of its home
quarter's mover group. -/
def restartRing (tail : Nat) (busy rel home : Bool) (r : Ring) : Ring :=
  { r with
    entries := []
    retire := tail
    head := tail
    fenceWait := false
    ownWait := false
    reread := false
    resetGen := (r.resetGen + 1) % 65536
    lastError := stFunctionReset
    broken := r.broken && !home
    state := stateAfter busy rel (r.broken && !home) }

def noteAbandon (n : Nat) (s : State) : State := { s with irq := s.irq.setRingErr n }

/-- Abandons the entries of a ring (R177). -/
def abandonRing (f : Fn) (others : List ResetRun) (t : State) (k : Nat × Nat) : State :=
  match Tbl.get? t.rings k.1 with
  | none => t
  | some r =>
    let l := r.entries.filter isAbandoned
    let t1 := unqueue k.1 ((l.filterMap (runsEntry t k.1)).foldl (dropStream (resetHold f)) t)
    let t2 := l.foldl (fun u e => dropRefs e u) t1
    let busy := others.any fun x => x.rings.any fun y => y.1 == k.1
    let home := f == .mover (Fin.ofNat 4 r.quarter)
    sendRingStatus k.1 (noteAbandon k.1 (updRing k.1 (restartRing k.2 busy (jobReleasing t2 r.job) home) t2))

/-- Doorbells that waited are checked now. -/
def takeBells (t : State) (n : Nat) : State :=
  match Tbl.get? t.rings n with
  | some r =>
    if r.state = 2 then t else r.bells.foldl (fun u v => bellCase n v.toNat u) (updRing n (fun x => { x with bells := [] }) t)
  | none => t

def unwedge (f : Fn) (s : State) : State :=
  { s with wedged := s.wedged.filter fun g => g != f, irq := s.irq.clearGroup 0 (fnBit f) }

/-- The commands in progress that a management reset ended (R112). -/
def answerEnded (issuers : List Nat) (s : State) : State :=
  (List.range 8).foldl (fun t m =>
    match busyBox t m with
    | some b => if b.wait == .reset .management && !issuers.contains m then respond m stFunctionReset 0 0 0 0 t else t
    | none => t) s

def finishFn (f : Fn) (r : ResetRun) (s : State) : State :=
  match f with
  | .slice q => restartSlice q.val s
  | .management => answerEnded r.mboxes s
  | _ => s

/-- A mailbox whose command a management reset ended. -/
def endedBox (b : Mbox) : Bool := b.busy && b.wait == .reset .management

/-- Contents of the mailboxes that held a command meanwhile are cleared, but for its response (R111). -/
def clearCmds (before : List Mbox) (s : State) : State :=
  { s with mbox := s.mbox.mapIdx fun k b => if before[k]?.any endedBox then { b with cmd := 0 } else b }

/-- The function runs again: entries are abandoned, the mark falls, and the commands are answered OK. -/
def endReset (r : ResetRun) (s : State) : State :=
  let rest := s.resets.filter fun x => x.fn != r.fn
  let s1 := freeNrdy (fun h => h == .reset (fnCode r.fn)) (r.rings.foldl (abandonRing r.fn rest) { s with resets := rest })
  let s2 := finishWait (.reset r.fn) stOk 0 0 (finishFn r.fn r (unwedge r.fn s1))
  settleWds ((r.rings.map Prod.fst).foldl takeBells (if r.fn = .management then checkHeld (clearCmds s.mbox s2) else s2))

/-- FUNCTION_RESET_DONE (R110, R112, R177, R401). -/
def execFunctionResetDone (f : Fn) (s : State) : Host.Outcome State Fault Refusal :=
  .next (match s.resets.find? fun r => r.fn == f with
    | some r => if blockUp s then endReset r s else s
    | none => s)

end Sys2Proof.Machine
end

