-- ==== Sys2Proof/Machine/HostWrite.lean ====
section
/-! DEFINITION. Register writes of the host register port, and GO, at whose acceptance the mailbox hardware carries out a
management reset or a warm reset by itself (02_ports.md, R63; 04_mailboxes.md, R114, R123, R125, R142). -/

namespace Sys2Proof.Machine

/-- A write of MBOX_DOORBELL[m]. FUNCTION_RESET of management and WARM_RESET take effect at once (R142). -/
def submit (m : Nat) (go : Bool) (s : State) : State :=
  runCmd specWarmReset m (runCmd specResetManagement m (goWrite m go s))

/-- A write to a word that has no row of its own. -/
def writeWord (tag : BitVec 5) (addr : BitVec 21) (be : BitVec 8) (data : Word64) (s : State) : State :=
  match hrpMap addr with
  | .readOnly => regWrite tag be id s
  | .irqMask => regWrite tag be (setMask data) s
  | .mboxGo m => regWrite tag be (submit m (data.getLsbD 0)) s
  | .quiet => answer tag hrpOk 0 s
  | .groupEnable g => regWrite tag be (setEnable g data) s
  | .groupVector g => regWrite tag be (setVector g data) s
  | .outside => answerDecode tag s
  | _ => s

/-- REGISTER_WRITE (R63, R114, R123, R478). -/
def execRegisterWrite (tag : BitVec 5) (addr : BitVec 21) (be : BitVec 8) (data : Word64) (s : State) :
    Host.Outcome State Fault Refusal :=
  .next (hrpRequest (.registerWrite tag addr be data) tag (writeWord tag addr be data) s)

end Sys2Proof.Machine
end

