-- ==== Sys2Proof/Machine/Inject.lean ====
section
/-! DEFINITION. The Peat writer and PEAT_STATUS, statistics counters, and the injection commands
(15_errors_peat.md, R484, R496 to R503). -/

namespace Sys2Proof.Machine

/-! PEAT_WRITER_TAKE (R484) and PEAT_STATUS (R496). -/

/-- What a held OPND_NRDY bit waits for is a record that its unit has handed over (R263). -/
def recordTaken (p : Peat) (h : NrdyHold) : Bool :=
  match h with
  | .record id => !(p.pend.any fun e => e.id == id)
  | _ => false

/-- The OPND_NRDY bits held for a record fall once it has been written. -/
def releaseRecorded (s : State) : State := freeNrdy (recordTaken s.peat) s

/-- PEAT_WRITER_TAKE: every 4 management cycles the writer takes one pending record (R263, R484). -/
def execPeatWriterTake (s : State) : Host.Outcome State Fault Refusal :=
  .next (if blockUp s && s.peat.online then releaseRecorded (peatTake s) else s)

def peatInfo (p : Peat) : Nat :=
  pack [(32, p.fill), (1, b2n p.full.isSome), (1, b2n p.spareUsed), (6, 0), (24, 0), (64, p.nextSeq), (64, p.appended), (64, p.folds),
    (64, p.refused), (64, p.lostBacklog)]

def specPeatStatus : CmdSpec :=
  { op := 0x0A11, hw := false, sel := fun _ => true, flds := fun _ _ => [], act := fun _ s => (s, okWith 48 (peatInfo s.peat)) }

/-- PEAT_STATUS (R496). -/
def execPeatStatus (m : Fin 8) (s : State) : Host.Outcome State Fault Refusal := .next (runCmd specPeatStatus m s)

/-! COUNTER_READ (R497, R498). -/

/-- Units and counters of a group; none for a reserved one. -/
def counterGroup (g : Nat) : Option (Nat × Nat) :=
  [(1, 5), (64, 3), (4, 6), (32, 7), (32, 6), (4, 6), (32, 8), (4, 3), (24, 3)][g]?

def groupUnits (b : Nat) : Nat := ((counterGroup (fld b 0 8)).map Prod.fst).getD 256
def groupSize (b : Nat) : Nat := ((counterGroup (fld b 0 8)).map Prod.snd).getD 256

def counterFlds (_ : State) (_ : Nat) : List (Nat → List Fld) :=
  [fun _ => [rsvd 1 32 32, chkB 2 24 8 fun b v => clampIn 1 (min 28 (groupSize b - fld b 16 8)) v,
    chkB 3 16 8 fun b v => refuseUnless (decide (v < groupSize b)), chkB 4 8 8 fun b v => refuseUnless (decide (v < groupUnits b)),
    chk 5 0 8 fun v => refuseUnless (counterGroup v).isSome]]

/-- The counters asked for, at this instant. -/
def readCounters (s : State) (body : Nat) : Nat :=
  pack ((List.range (fld body 24 8)).map fun i => (64, (counterOf s (fld body 0 8) (fld body 8 8) (fld body 16 8 + i)).toNat))

def specCounterRead : CmdSpec :=
  { op := 0x0A10, hw := false, sel := fun _ => true, flds := counterFlds,
    act := fun c s => (s, okWith (8 * fld c.body 24 8) (readCounters s c.body)) }

/-- COUNTER_READ (R497, R498). -/
def execCounterRead (m : Fin 8) (s : State) : Host.Outcome State Fault Refusal := .next (runCmd specCounterRead m s)

/-! INJECT_ARM (R499 to R501). -/

/-- A point's unit is in its range (R503). -/
def fnUnits : List Nat := (List.range 4).flatMap (fun q => (List.range 5).map fun f => q * 256 + f) ++ [8, 9, 10]

/-- Units of a point, when they are numbered from 0. -/
def pointUnits (p : Nat) : Option Nat :=
  [(0x01, 2048), (0x02, 2048), (0x03, 24), (0x04, 24), (0x05, 4), (0x06, 4), (0x07, 96), (0x08, 96), (0x09, 4), (0x0A, 96),
   (0x0B, 32), (0x0C, 32), (0x0D, 32), (0x0E, 32), (0x0F, 32), (0x10, 4), (0x11, 4), (0x12, 32), (0x13, 2), (0x14, 2),
   (0x15, 1), (0x20, 4), (0x21, 4), (0x22, 4), (0x23, 32), (0x24, 32), (0x25, 32), (0x26, 64), (0x27, 64), (0x28, 0x305),
   (0x29, 4), (0x30, 32), (0x31, 32), (0x32, 32), (0x33, 32), (0x34, 32), (0x35, 2), (0x36, 6), (0x37, 1), (0x40, 24),
   (0x41, 256), (0x42, 225)].lookup p

def unitInRange (p v : Nat) : Bool :=
  match pointUnits p with
  | some n => if p = 0x28 then fnUnits.contains v else decide (v < n)
  | none => true

/-- Words of the site behind a point whose ARG names a WORD (R476, R503). -/
def pointWords (p : Nat) : Option Nat :=
  [(0x01, 16), (0x02, 16), (0x03, 16), (0x04, 16), (0x05, 16), (0x06, 16), (0x0A, 4096), (0x0B, 1024), (0x0C, 16), (0x0D, 1024),
   (0x12, 64)].lookup p

def bitPoints : List Nat := [0x0F, 0x10, 0x11, 0x13, 0x14, 0x15]

/-- Points whose ARG is one field of so many low bits. -/
def fieldBits (p : Nat) : Option Nat := [(0x22, 4), (0x26, 10), (0x30, 3), (0x31, 3), (0x33, 16), (0x35, 8)].lookup p

/-- ARG as a point can use it (R500). -/
def clampArg (p v : Nat) : Nat :=
  let bit := min (fld v 0 6) 38
  match pointWords p, fieldBits p with
  | some n, _ => bit + (min (fld v 8 8) (n - 1)) * 256
  | none, some w => if p = 0x22 then min (fld v 0 w) 8 else fld v 0 w
  | none, none => if p = 0x0E then bit + fld v 16 12 * 65536 else if bitPoints.contains p then bit else 0

def armFlds (_ : State) (_ : Nat) : List (Nat → List Fld) :=
  [fun _ => [chkB 1 96 32 fun b v => if (pointUnits (fld b 0 16)).isSome then .setTo (clampArg (fld b 0 16) v) else .ok,
    chk 2 80 16 fun _ => .ok, chk 3 64 16 fun _ => .ok, rsvd 4 48 16,
    chkB 5 32 16 fun b v => refuseUnless (unitInRange (fld b 0 16) v), rsvd 6 16 16,
    chk 7 0 16 fun v => refuseUnless (pointUnits v).isSome]]

def newArming (c : Cmd) : Arming :=
  { point := fld c.body 0 16, unit := fld c.body 32 16, arg := BitVec.ofNat 32 (fld c.body 96 32), skip := fld c.body 80 16,
    times := fld c.body 64 16, forever := fld c.body 64 16 == 0, fired := 0, cmdSeq := c.seq }

def samePair (point unit : Nat) (a : Arming) : Bool := a.point == point && a.unit == unit

/-! Points that fire at once. -/

/-- Loss of signal: every CW_LOS bit is seen set (R426). -/
def loseSignal (p : Nat) (s : State) : State :=
  let s1 := setCport p (fun x => { x with los := 0xFF, armed := true }) s
  if carriesFlits s p then loseLink p 1 s1 else s1

/-- The event that an arming of such a point brings about itself; `needs` is the record of the firing. -/
def fireNow (a : Arming) (needs : Option Nat) (s : State) : State :=
  if a.point = 0x33 then loseSignal a.unit s
  else if a.point = 0x40 then tripStack a.unit needs s
  else if a.point = 0x41 then { s with power := { s.power with driftInj := s.power.driftInj ++ [a.unit] } }
  else if a.point = 0x42 then { s with power := { s.power with tempInj := Tbl.put s.power.tempInj a.unit 10 } }
  else s

def atOnce (p : Nat) : Bool := p == 0x33 || p == 0x40 || p == 0x41 || p == 0x42

/-- Island and level of the detector of such a point. -/
def onceIsland (a : Arming) : Nat :=
  if a.point = 0x33 then islPort a.unit else if a.point = 0x40 then islStack a.unit else if a.point = 0x42 then a.unit else islMgmt

def onceLevel (a : Arming) : Nat := if a.point = 0x41 then 3 else 1

def fireOnce (a : Arming) (s : State) : State :=
  if atOnce a.point then
    let n := injNeeds [a.point] a.unit (onceLevel a) (onceIsland a) s
    let s1 := injEvent [a.point] a.unit (onceLevel a) (onceIsland a) s
    if a.skip = 0 then fireNow a n s1 else s1
  else s

/-- Arms the point, in place of an arming of the same pair. -/
def arm (c : Cmd) (s : State) : State × Reply :=
  let a := newArming c
  let others := s.inject.filter fun x => !samePair a.point a.unit x
  if 16 ≤ others.length then (s, endWith stExhausted)
  else (fireOnce a { s with inject := others ++ [a] }, okEmpty)

def specInjectArm : CmdSpec := { op := 0x0A01, hw := false, sel := fun _ => true, flds := armFlds, act := arm }

/-- INJECT_ARM (R499 to R501). -/
def execInjectArm (m : Fin 8) (s : State) : Host.Outcome State Fault Refusal := .next (runCmd specInjectArm m s)

/-! INJECT_DISARM and INJECT_QUERY (R500, R502). -/

def disarm (c : Cmd) (s : State) : State × Reply :=
  ({ s with inject := s.inject.filter fun x => !samePair (fld c.body 0 16) (fld c.body 32 16) x }, okEmpty)

def specInjectDisarm : CmdSpec :=
  { op := 0x0A02, hw := false, sel := fun _ => true, flds := fun _ _ => [fun _ => [rsvd 1 48 16, rsvd 3 16 16]], act := disarm }

/-- INJECT_DISARM (R500). -/
def execInjectDisarm (m : Fin 8) (s : State) : Host.Outcome State Fault Refusal := .next (runCmd specInjectDisarm m s)

def armingInfo (a : Arming) : Nat :=
  pack [(16, a.point), (16, a.unit), (16, if a.forever then 0 else a.times), (16, a.skip), (32, a.fired)]

def injectInfo (l : List Arming) : Nat := pack (l.map fun a => (96, armingInfo a))

def specInjectQuery : CmdSpec :=
  { op := 0x0A03, hw := false, sel := fun _ => true, flds := fun _ _ => [],
    act := fun _ s => (s, okWith (12 * s.inject.length) (injectInfo s.inject)) }

/-- INJECT_QUERY (R502). -/
def execInjectQuery (m : Fin 8) (s : State) : Host.Outcome State Fault Refusal := .next (runCmd specInjectQuery m s)

end Sys2Proof.Machine
end

