-- ==== Sys2Proof/Machine/Query.lean ====
section
/-! DEFINITION. STREAM_QUERY: what a stream waits for (07_movers.md, R251; R333, R374, R443, R462). -/

namespace Sys2Proof.Machine

/-- The tile has a burst to issue. -/
def atTurn (t : Tile) : Bool := t.translated && !tileSpent t

/-- The tile at its turn lacks a grant, a credit, a tag, its activation bytes or its replay buffer, or the lag holds it. -/
def tileHeld (s : State) (n : Nat) (x : Slot) (t : Tile) : Bool :=
  atTurn t && ((x.desc.dstSpace == spCore && x.grant.isNone) || !creditOk x t || !quantHeld s x t || !tagsFree s (moverQuarter (slotMover n)) x t || lagHolds s x t)

/-- What slot `n` waits for; the lowest code of several. -/
def slotWait (s : State) (x : Stream) (n : Nat) (y : Slot) : Nat :=
  if x.paced then 1
  else if parked y || y.cur.any missedTile then 2
  else if y.cur.any (tileHeld s n y) then 3
  else if y.cur.any fun t => atTurn t && windowHolds s (slotMover n) y t then 4
  else 0

/-- WAIT; the lowest code of several. DESIGN CHOICE (log entry 99). -/
def waitCode (s : State) (x : Stream) : Nat :=
  match (x.slot.bind fun n => (Tbl.get? s.slots n).map (slotWait s x n)).getD 0 with
  | 0 => if x.state = stQueued then 5 else if x.waiting.isEmpty then 0 else 6
  | k => k

def streamInfo (s : State) (i : Nat) : Nat :=
  match Tbl.get? s.streams i with
  | some x => pack [(512, ctxWord x), (8, waitCode s x), (8, 0), (16, x.slot.getD 0xFFFF), (32, 0)]
  | none => 0

def specStreamQuery : CmdSpec :=
  { op := 0x0215, hw := false, sel := fun _ => true, flds := handleFlds fun _ => true,
    act := fun c s => (s, okWith 72 (streamInfo s (bodyIndex c.body))) }

/-- STREAM_QUERY (R251). -/
def execStreamQuery (m : Fin 8) (s : State) : Host.Outcome State Fault Refusal := .next (runCmd specStreamQuery m s)

end Sys2Proof.Machine
end

