-- ==== Sys2Proof/Machine/Dispatch.lean ====
section
/-! DEFINITION. The effect of each command on everything but the queue: one arm per row of the table. -/

namespace Sys2Proof.Machine

def exec (i : Instr) (s : State) : Host.Outcome State Fault Refusal :=
  match i with
  -- power, resets and test access (03_bringup.md, 02_ports.md)
  | .coldReset cool split mods engines => Sys2Proof.Machine.execColdReset cool split mods engines s
  | .powerDown => Sys2Proof.Machine.execPowerDown s
  | .warmResetAssert => Sys2Proof.Machine.execWarmResetAssert s
  | .warmResetRelease cool engines => Sys2Proof.Machine.execWarmResetRelease cool engines s
  | .tapReset => Sys2Proof.Machine.execTapReset s
  | .bypass code tdi => Sys2Proof.Machine.execBypass code tdi s
  | .idcode => Sys2Proof.Machine.execIdcode s
  | .samplePreload captured preload => Sys2Proof.Machine.execSamplePreload captured preload s
  | .extest scan => Sys2Proof.Machine.execExtest scan s
  | .wrapSel unit => Sys2Proof.Machine.execWrapSel unit s
  | .wrapWir tdi => Sys2Proof.Machine.execWrapWir tdi s
  | .wrapWdr tdi => Sys2Proof.Machine.execWrapWdr tdi s
  | .mbistRun failing => Sys2Proof.Machine.execMbistRun failing s
  | .mbistResult => Sys2Proof.Machine.execMbistResult s
  | .statusRead => Sys2Proof.Machine.execStatusRead s
  -- bring-up
  | .pllLock => Sys2Proof.Machine.execPllLock s
  | .pllLockTimeout => Sys2Proof.Machine.execPllLockTimeout s
  | .mgmtSramTestDone pass peatOk => Sys2Proof.Machine.execMgmtSramTestDone pass peatOk s
  | .ucieTrainDone u => Sys2Proof.Machine.execUcieTrainDone u s
  | .ucieTrainTimeout u => Sys2Proof.Machine.execUcieTrainTimeout u s
  | .imageBegin m => Sys2Proof.Machine.execImageBegin m s
  | .imageChunk m => Sys2Proof.Machine.execImageChunk m s
  | .imageEnd m peatOk => Sys2Proof.Machine.execImageEnd m peatOk s
  | .mereSelfTestDone failing => Sys2Proof.Machine.execMereSelfTestDone failing s
  | .stackTrainAttemptDone k ok found => Sys2Proof.Machine.execStackTrainAttemptDone k ok found s
  | .stackTrainTimeout k => Sys2Proof.Machine.execStackTrainTimeout k s
  | .portTrainDone p res => Sys2Proof.Machine.execPortTrainDone p res s
  | .portTrainTimeout p => Sys2Proof.Machine.execPortTrainTimeout p s
  | .laserEnable p => Sys2Proof.Machine.execLaserEnable p s
  | .s5Entry => Sys2Proof.Machine.execS5Entry s
  | .profileConfirmTimeout => Sys2Proof.Machine.execProfileConfirmTimeout s
  | .stackPinRateSwitch k pause => Sys2Proof.Machine.execStackPinRateSwitch k pause s
  | .moverRelock mv pause => Sys2Proof.Machine.execMoverRelock mv pause s
  -- the host register port
  | .hrpNotPresent tag write => Sys2Proof.Machine.execHrpNotPresent tag write s
  | .registerWrite tag addr be data => Sys2Proof.Machine.execRegisterWrite tag addr be data s
  | .mboxCmdAreaWrite tag m w be data => Sys2Proof.Machine.execMboxCmdAreaWrite tag m w be data s
  | .mboxDoneAck tag m be data => Sys2Proof.Machine.execMboxDoneAck tag m be data s
  | .causeClear tag addr be data => Sys2Proof.Machine.execCauseClear tag addr be data s
  | .ringStatusRead tag r word => Sys2Proof.Machine.execRingStatusRead tag r word s
  | .peatWindowRead tag w env => Sys2Proof.Machine.execPeatWindowRead tag w env s
  -- mailbox commands
  | .nop m => Sys2Proof.Machine.execNop m s
  | .identify m => Sys2Proof.Machine.execIdentify m s
  | .jobAdmit m => Sys2Proof.Machine.execJobAdmit m s
  | .jobRelease m => Sys2Proof.Machine.execJobRelease m s
  | .jobQuery m => Sys2Proof.Machine.execJobQuery m s
  | .corePortMap m => Sys2Proof.Machine.execCorePortMap m s
  | .svnCommit m => Sys2Proof.Machine.execSvnCommit m s
  | .functionResetMover m => Sys2Proof.Machine.execFunctionResetMover m s
  | .functionResetExpander m => Sys2Proof.Machine.execFunctionResetExpander m s
  | .functionResetQuantiser m => Sys2Proof.Machine.execFunctionResetQuantiser m s
  | .functionResetQueueSlice m => Sys2Proof.Machine.execFunctionResetQueueSlice m s
  | .functionResetCauseway m => Sys2Proof.Machine.execFunctionResetCauseway m s
  | .functionResetTranslation m => Sys2Proof.Machine.execFunctionResetTranslation m s
  | .functionResetMere m => Sys2Proof.Machine.execFunctionResetMere m s
  | .functionResetManagement m => Sys2Proof.Machine.execFunctionResetManagement m s
  | .functionResetDone f => Sys2Proof.Machine.execFunctionResetDone f s
  | .warmReset m => Sys2Proof.Machine.execWarmReset m s
  | .joinRetryStack m => Sys2Proof.Machine.execJoinRetryStack m s
  | .joinRetryPort m => Sys2Proof.Machine.execJoinRetryPort m s
  | .ringCreate m => Sys2Proof.Machine.execRingCreate m s
  | .ringDestroy m => Sys2Proof.Machine.execRingDestroy m s
  | .ringQuery m => Sys2Proof.Machine.execRingQuery m s
  | .streamAlloc m => Sys2Proof.Machine.execStreamAlloc m s
  | .streamFree m => Sys2Proof.Machine.execStreamFree m s
  | .streamResume m => Sys2Proof.Machine.execStreamResume m s
  | .streamAbort m => Sys2Proof.Machine.execStreamAbort m s
  | .streamDisableSet m => Sys2Proof.Machine.execStreamDisableSet m s
  | .streamDisableClear m => Sys2Proof.Machine.execStreamDisableClear m s
  | .streamQuery m => Sys2Proof.Machine.execStreamQuery m s
  | .rangeMap m => Sys2Proof.Machine.execRangeMap m s
  | .rangeUnmap m => Sys2Proof.Machine.execRangeUnmap m s
  | .pageRootSet m => Sys2Proof.Machine.execPageRootSet m s
  | .withdraw m => Sys2Proof.Machine.execWithdraw m s
  | .xlateQuery m env => Sys2Proof.Machine.execXlateQuery m env s
  | .baseRegister m => Sys2Proof.Machine.execBaseRegister m s
  | .baseRelease m => Sys2Proof.Machine.execBaseRelease m s
  | .tableLoadNew m => Sys2Proof.Machine.execTableLoadNew m s
  | .tableLoadReplace m => Sys2Proof.Machine.execTableLoadReplace m s
  | .tableLoadFree m => Sys2Proof.Machine.execTableLoadFree m s
  | .tableQuery m => Sys2Proof.Machine.execTableQuery m s
  | .keyLoad m => Sys2Proof.Machine.execKeyLoad m s
  | .keyClear m => Sys2Proof.Machine.execKeyClear m s
  | .qntConfigBind m => Sys2Proof.Machine.execQntConfigBind m s
  | .qntConfigUnbind m => Sys2Proof.Machine.execQntConfigUnbind m s
  | .scaleLoadLoad m env => Sys2Proof.Machine.execScaleLoadLoad m env s
  | .scaleLoadRelease m => Sys2Proof.Machine.execScaleLoadRelease m s
  | .qntStats m => Sys2Proof.Machine.execQntStats m s
  | .qntThreshold m => Sys2Proof.Machine.execQntThreshold m s
  | .mereAlloc m => Sys2Proof.Machine.execMereAlloc m s
  | .mereFree m => Sys2Proof.Machine.execMereFree m s
  | .queueCreate m => Sys2Proof.Machine.execQueueCreate m s
  | .queueClose m => Sys2Proof.Machine.execQueueClose m s
  | .queueResetReader m => Sys2Proof.Machine.execQueueResetReader m s
  | .combineCreate m => Sys2Proof.Machine.execCombineCreate m s
  | .queueQuery m => Sys2Proof.Machine.execQueueQuery m s
  | .deviceIdSet m => Sys2Proof.Machine.execDeviceIdSet m s
  | .routeSetDevice m => Sys2Proof.Machine.execRouteSetDevice m s
  | .routeSetPort m => Sys2Proof.Machine.execRouteSetPort m s
  | .windowOpen m => Sys2Proof.Machine.execWindowOpen m s
  | .windowClose m => Sys2Proof.Machine.execWindowClose m s
  | .windowQuery m => Sys2Proof.Machine.execWindowQuery m s
  | .linkQuery m => Sys2Proof.Machine.execLinkQuery m s
  | .mirrorPair m => Sys2Proof.Machine.execMirrorPair m s
  | .mirrorUnpair m => Sys2Proof.Machine.execMirrorUnpair m s
  | .mirrorPromote m => Sys2Proof.Machine.execMirrorPromote m s
  | .mirrorQuery m => Sys2Proof.Machine.execMirrorQuery m s
  | .coolConfirm m => Sys2Proof.Machine.execCoolConfirm m s
  | .powerQuery m => Sys2Proof.Machine.execPowerQuery m s
  | .marginQuery m => Sys2Proof.Machine.execMarginQuery m s
  | .marginReplan m => Sys2Proof.Machine.execMarginReplan m s
  | .injectArm m => Sys2Proof.Machine.execInjectArm m s
  | .injectDisarm m => Sys2Proof.Machine.execInjectDisarm m s
  | .injectQuery m => Sys2Proof.Machine.execInjectQuery m s
  | .counterRead m => Sys2Proof.Machine.execCounterRead m s
  | .peatStatus m => Sys2Proof.Machine.execPeatStatus m s
  -- rings, streams and movers
  | .doorbell tag r be data => Sys2Proof.Machine.execDoorbell tag r be data s
  | .ringFetch r env => Sys2Proof.Machine.execRingFetch r env s
  | .entryStart r => Sys2Proof.Machine.execEntryStart r s
  | .streamAdmission idx => Sys2Proof.Machine.execStreamAdmission idx s
  | .contextReadDone idx env => Sys2Proof.Machine.execContextReadDone idx env s
  | .slotGrant q => Sys2Proof.Machine.execSlotGrant q s
  | .burstBoundary mv => Sys2Proof.Machine.execBurstBoundary mv s
  | .tileTranslate slot env => Sys2Proof.Machine.execTileTranslate slot env s
  | .secondLevelLookup slot => Sys2Proof.Machine.execSecondLevelLookup slot s
  | .pageWalkStart q => Sys2Proof.Machine.execPageWalkStart q s
  | .walkTableRead q env evict => Sys2Proof.Machine.execWalkTableRead q env evict s
  | .moverDrainAck mv => Sys2Proof.Machine.execMoverDrainAck mv s
  | .grantRequest slot => Sys2Proof.Machine.execGrantRequest slot s
  | .grantAnswer p buf => Sys2Proof.Machine.execGrantAnswer p buf s
  | .fillNotice mv => Sys2Proof.Machine.execFillNotice mv s
  | .expanderCreditRequest slot => Sys2Proof.Machine.execExpanderCreditRequest slot s
  | .readResponse req env => Sys2Proof.Machine.execReadResponse req env s
  | .writeResponse req env => Sys2Proof.Machine.execWriteResponse req env s
  | .stackRequest k env => Sys2Proof.Machine.execStackRequest k env s
  | .stackRefresh k => Sys2Proof.Machine.execStackRefresh k s
  | .dfiPhyupdReq req => Sys2Proof.Machine.execDfiPhyupdReq req s
  | .stkCattrip k level => Sys2Proof.Machine.execStkCattrip k level s
  | .mereBankAccess b env => Sys2Proof.Machine.execMereBankAccess b env s
  | .patrolScrub b env => Sys2Proof.Machine.execPatrolScrub b env s
  | .expanderBlock x env => Sys2Proof.Machine.execExpanderBlock x env s
  | .portDelivery p buf => Sys2Proof.Machine.execPortDelivery p buf s
  | .dueTimeCheck p => Sys2Proof.Machine.execDueTimeCheck p s
  | .entryComplete r pos env => Sys2Proof.Machine.execEntryComplete r pos env s
  -- core delivery ports and quantisers
  | .creditReturn p core sel cnt => Sys2Proof.Machine.execCreditReturn p core sel cnt s
  | .returnBeatArrive p lane beat => Sys2Proof.Machine.execReturnBeatArrive p lane beat s
  | .activation p lane => Sys2Proof.Machine.execActivation p lane s
  | .mereRead p lane => Sys2Proof.Machine.execMereRead p lane s
  | .mereWrite p lane => Sys2Proof.Machine.execMereWrite p lane s
  | .mereReadData p idx => Sys2Proof.Machine.execMereReadData p idx s
  | .qntTile slot env => Sys2Proof.Machine.execQntTile slot env s
  -- messages and queues
  | .message p lane env => Sys2Proof.Machine.execMessage p lane env s
  | .contribute p lane env => Sys2Proof.Machine.execContribute p lane env s
  | .rearm p lane => Sys2Proof.Machine.execRearm p lane s
  | .combineComplete queue => Sys2Proof.Machine.execCombineComplete queue s
  | .areaZeroingDone queue => Sys2Proof.Machine.execAreaZeroingDone queue s
  | .messageDelivery core env => Sys2Proof.Machine.execMessageDelivery core env s
  | .remoteMessage p env => Sys2Proof.Machine.execRemoteMessage p env s
  -- Causeway
  | .cwOeFault p faultN => Sys2Proof.Machine.execCwOeFault p faultN s
  | .lossOfSignal p => Sys2Proof.Machine.execLossOfSignal p s
  | .lightWatchExpiry p => Sys2Proof.Machine.execLightWatchExpiry p s
  | .flitReceive p flit codewordBad => Sys2Proof.Machine.execFlitReceive p flit codewordBad s
  | .retry p seq => Sys2Proof.Machine.execRetry p seq s
  | .retryResendTimer p => Sys2Proof.Machine.execRetryResendTimer p s
  | .ackTimer p => Sys2Proof.Machine.execAckTimer p s
  | .replayExhausted p => Sys2Proof.Machine.execReplayExhausted p s
  | .tlinkMeasure p tlink => Sys2Proof.Machine.execTlinkMeasure p tlink s
  | .flitForward p => Sys2Proof.Machine.execFlitForward p s
  | .ucieRetrain u ended => Sys2Proof.Machine.execUcieRetrain u ended s
  | .remoteWrite p => Sys2Proof.Machine.execRemoteWrite p s
  | .remoteWriteLanded p env => Sys2Proof.Machine.execRemoteWriteLanded p env s
  | .remoteRead p env => Sys2Proof.Machine.execRemoteRead p env s
  | .remoteResponse p => Sys2Proof.Machine.execRemoteResponse p s
  | .remoteTimeout p reqTag => Sys2Proof.Machine.execRemoteTimeout p reqTag s
  | .windowCloseDrained w => Sys2Proof.Machine.execWindowCloseDrained w s
  | .linkProbeAnswer m cycles => Sys2Proof.Machine.execLinkProbeAnswer m cycles s
  -- mirroring
  | .heartbeatSend => Sys2Proof.Machine.execHeartbeatSend s
  | .heartbeatReceive withy hb => Sys2Proof.Machine.execHeartbeatReceive withy hb s
  | .pathLoss withy => Sys2Proof.Machine.execPathLoss withy s
  | .pairEnd => Sys2Proof.Machine.execPairEnd s
  | .mirrorItemApply item => Sys2Proof.Machine.execMirrorItemApply item s
  | .mirrorAck => Sys2Proof.Machine.execMirrorAck s
  -- power, ageing and errors
  | .powerEstimate r => Sys2Proof.Machine.execPowerEstimate r s
  | .thermalSensorRead temps => Sys2Proof.Machine.execThermalSensorRead temps s
  | .monitorRead readings => Sys2Proof.Machine.execMonitorRead readings s
  | .operatingHours => Sys2Proof.Machine.execOperatingHours s
  | .offsetStep island => Sys2Proof.Machine.execOffsetStep island s
  | .unitWedged f => Sys2Proof.Machine.execUnitWedged f s
  | .peatWriterTake => Sys2Proof.Machine.execPeatWriterTake s
  | .controlFlit p flit bad => Sys2Proof.Machine.execControlFlit p flit bad s
  | .cwLosChange p los => Sys2Proof.Machine.execCwLosChange p los s
  | .probeTimeout m => Sys2Proof.Machine.execProbeTimeout m s

end Sys2Proof.Machine
end

