-- ==== Sys2Proof/Machine/Tick.lean ====
section
/-! DEFINITION. What happens with no command waiting: a request held at the host register port is accepted, or half a
nanosecond passes. -/

namespace Sys2Proof.Machine

/-- Eightieths of a clock pulse of a mover that are withheld in a tick, by throttling and by a bin raised since the last
bring-up (R508, R510, R517). -/
def withheldNow (s : State) (mv : Nat) : Nat := 5 * min (throttleOf s) 8 + 2 * ((planOf s mv).bin - (planOf s mv).locked)

/-- A delivery in progress adds what is withheld meanwhile. -/
def addWithheld (s : State) (d : Delivery) : Delivery :=
  if d.timed then { d with throttle := d.throttle + withheldNow s (d.slot / 32) } else d

/-- Some pulses are withheld. -/
def withholds (s : State) : Bool := throttleOf s != 0 || s.power.plans.any fun e => decide (e.2.locked < e.2.bin)

/-- The deliveries in progress are charged what is withheld. -/
def chargeThrottle (s : State) : State :=
  if withholds s then { s with ports := s.ports.mapV fun _ p => { p with dlvs := p.dlvs.map (addWithheld s) } } else s

/-- One tick of 0.5 ns: every island counts its cycles, and the far side of the HRP takes its oldest response
(R32, R61). DESIGN CHOICE (log entry 1). -/
def tick (s : State) : State :=
  chargeThrottle { s with clk := advanceClocks s, hrp := { s.hrp with rsp := s.hrp.rsp.drop 1 } }

/-- Tag of a request of the host register port. -/
def requestTag : Instr → BitVec 5
  | .hrpNotPresent tag _ | .registerWrite tag _ _ _ | .mboxCmdAreaWrite tag _ _ _ _ | .mboxDoneAck tag _ _ _
  | .causeClear tag _ _ _ | .ringStatusRead tag _ _ | .peatWindowRead tag _ _ | .doorbell tag _ _ _ => tag
  | _ => 0

/-- The first request held at the port, where the port accepts it now, and those behind it (R62). -/
def heldFront (s : State) : Option (Instr × List Instr) :=
  match s.hrp.waiting with
  | [] => none
  | c :: rest => if hrpTakes s (requestTag c) then some (c, rest) else none

/-- The queue's rest and the command at its front. -/
def popFront (s : State) : Option (Instr × State) :=
  match s.pending with
  | [] => none
  | i :: rest => some (i, { s with pending := rest })

/-- The state with a command put at the front of its queue. -/
def pushFront (i : Instr) (s : State) : State := { s with pending := i :: s.pending }

end Sys2Proof.Machine
end

