-- ==== Sys2Proof/Machine/Step.lean ====
section
/-! DEFINITION. One step: the command at the front of the queue runs on the queue's rest. On an empty queue the port
accepts the first request that the host holds there, where it can; else a tick passes. -/

namespace Sys2Proof.Machine

/-- A held request runs as if it had just been presented. One that the shell would have answered while the page was closed is
answered so (R61, R64). -/
def runHeld (c : Instr) (s : State) : Host.Outcome State Fault Refusal :=
  match c with
  | .hrpNotPresent tag _ => .next (answer tag hrpAbsent 0 s)
  | c => exec c s

/-- The port accepts a held request; those behind it stay held (R62). -/
def acceptHeld (c : Instr) (rest : List Instr) (s : State) : Host.Outcome State Fault Refusal :=
  match runHeld c { s with hrp := { s.hrp with waiting := [] } } with
  | .next t => .next { t with hrp := { t.hrp with waiting := rest } }
  | .fault f => .fault f
  | .refused r => .refused r

def step (s : State) : Host.Outcome State Fault Refusal :=
  match popFront s with
  | some (i, rest) => exec i rest
  | none =>
    match heldFront s with
    | some (c, rest) => acceptHeld c rest s
    | none => .next (tick s)

/-- The command that a word spells, put at the front of the queue; no word spells one. -/
def State.withFetchWord (s : State) (nbits w : Nat) : State :=
  match decodeTableWord nbits w with
  | some i => pushFront i s
  | none => s

end Sys2Proof.Machine
end

