-- ==== Sys2Proof/Machine/Pins.lean ====
section
/-! DEFINITION. The outputs of the block as its pins show them, with the idle values of isolation (02_ports.md, R46). -/

namespace Sys2Proof.Machine

/-- A stack port is clamped while the complex is not up, and while its stack neither serves nor trains. -/
def stackIsolated (s : State) (k : Nat) : Bool := !(blockUp s && stackWorks s k)

/-- DFI_RESET_N of a stack port. -/
def dfiResetN (s : State) (k : Nat) : Bool := !stackIsolated s k

/-- DFI_CKE of a stack port. -/
def dfiCke (s : State) (k : Nat) : Bool := !stackIsolated s k

/-- DFI_PHYUPD_ACK of a stack port (R50). -/
def dfiPhyupdAck (s : State) (k : Nat) : Bool := !stackIsolated s k && phyupdAck s k

/-- The beats on the delivery lanes of a port. -/
def dlvLanes (s : State) (p : Nat) : List DlvBeat := if inService s then (portAt s p).out else []

/-- OPND_NRDY of a port. -/
def opndNrdy (s : State) (p : Nat) : BitVec 64 := if inService s then (portAt s p).nrdy else 0

/-- RTN_CREDIT of a port, by lane. -/
def rtnCredits (s : State) (p : Nat) : List Nat := if inService s then (portAt s p).rtnCredit else []

/-- CW_OE_EN of a Causeway port. -/
def cwOeEn (s : State) (p : Nat) : Bool := blockUp s && (cport s p).oeEn

/-- CW_LASER_EN of a Causeway port. -/
def cwLaserEn (s : State) (p : Nat) : Bool := blockUp s && (cport s p).laserEn

/-- The flits that a Causeway port sends; electrical idle has none. -/
def cwTx (s : State) (p : Nat) : List (BitVec 2048) := if cwOeEn s p then (cport s p).out else []

/-- FDI of a UCIe interface is out of reset: SPLIT requires it, the complex is past S0, and it has not failed (R71). -/
def fdiUp (s : State) (i : Nat) : Bool := blockUp s && decide (0 < s.bring.stage) && (ucieNeeded s.straps.split).contains i && !s.cw.ucieDown.contains i

end Sys2Proof.Machine
end

