-- ==== Sys2Proof/Safety.lean ====
section
/-! DEFINITION. The terms in which claims speak of a run: what a command leaves still, and the form that the state
keeps. -/

namespace Sys2Proof.Machine

/-- The parts of the state that hardly any command writes: the queue of waiting commands, straps and fuses (R72, R78),
test access (R75), the islands' own counts (R8), CMD_SEQ assigned next (R126), key slots (R304 to R308), jobs (R147),
the functions marked wedged (R27), and how many mailboxes and cause groups there are (R122, R479). -/
structure Still where
  pending : List Instr
  straps : Straps
  fuses : Fuses
  tap : Tap
  clk : Clk
  cmdSeq : Word32
  keys : Tbl KeySlot
  jobs : Tbl Job
  wedged : List Fn
  mailboxes : Nat
  groups : Nat
deriving DecidableEq, Repr

def State.still (s : State) : Still :=
  { pending := s.pending, straps := s.straps, fuses := s.fuses, tap := s.tap, clk := s.clk, cmdSeq := s.cmdSeq,
    keys := s.keys, jobs := s.jobs, wedged := s.wedged, mailboxes := s.mbox.length, groups := s.irq.groups.length }

/-- What is still, but for jobs and the key slots that go with them. -/
def Still.sansJobs (x : Still) : Still := { x with keys := [], jobs := [] }

/-- Every byte memory of the complex: stacks, the Mere, what the host's own memory was given, and the image area. -/
structure Cells where
  stack : List Host.Cell
  hostOut : List Host.Cell
  mere : List Host.Cell
  image : List Host.Cell
deriving DecidableEq, Repr

def State.cells (s : State) : Cells :=
  { stack := s.mem.stack, hostOut := s.mem.hostOut, mere := s.mem.mere, image := s.bring.image }

/-- The canonical form of the byte memories, as `Memory.wf` states it of a state. -/
def Cells.wf (c : Cells) : Bool :=
  cellsRising c.stack && cellsRising c.hostOut && zeroForm c.mere && zeroForm c.image

/-- `t` has what is still in `s`, and its byte memories are in canonical form where those of `s` are. -/
def Keeps (s t : State) : Prop := t.still = s.still ∧ (s.cells.wf = true → t.cells.wf = true)

/-- `t` is as after a warm reset of the complex, so far as R78 clears it whole: mailboxes, interrupt state, CMD_SEQ, the
islands' counts, keys, jobs and wedged marks. The commands waiting, the straps, the fuses and the TAP stand. -/
def Restarts (s t : State) : Prop :=
  t.still = { State.reset.still with pending := s.pending, straps := s.straps, fuses := s.fuses, tap := s.tap } ∧
    t.mbox = State.reset.mbox ∧ t.irq = .reset ∧ (s.cells.wf = true → t.cells.wf = true)

/-- All that SVN_COMMIT does to what is still: SVN_MIN may rise (R91). -/
def SvnRises (s t : State) : Prop :=
  t.still = { s.still with fuses := t.fuses } ∧ t.cells = s.cells ∧ s.fuses.svnMin.toNat ≤ t.fuses.svnMin.toNat ∧
    t.fuses = { s.fuses with svnMin := t.fuses.svnMin }

/-- The form that every step keeps. -/
def State.Formed (s : State) : Prop :=
  Memory.wf s = true ∧ s.cmdSeq ≠ 0 ∧ s.mbox.length = 8 ∧ s.irq.groups.length = 10 ∧ s.clk.acc.length = 225

/-- The command completes: `exec` answers a next state, and `P` holds of it. -/
def Completes (c : Instr) (s : State) (P : State → Prop) : Prop := ∃ t, exec c s = .next t ∧ P t

/-- The port accepts a request of that tag now, and the page is open (R62, R64). -/
def serves (s : State) (tag : BitVec 5) : Bool := hrpTakes s tag && s.hrp.waiting.isEmpty && hrpOpen s

/-! Mailbox commands (R122 to R145). -/

/-- The state as a command's row meets it: Hexob has read its SRAM, the mailbox hardware reads none (R142, R503). -/
def seen (k : CmdSpec) (s : State) : State := if k.hw then s else hexobReads s

/-- The command of mailbox `m` that row `k` carries out now: it is ready (R95, R139, R142), its stage accepts it, and its
checks pass and leave a body as applied and the clamps made (R130 to R135). -/
def accepts (k : CmdSpec) (m : Nat) (s : State) : Option (Mbox × Nat × List Clamp) :=
  if cmdReady k s m then
    match busyBox s m with
    | some b =>
      if opAccepted (seen k s) (cmdOp b) then
        match checkAll k (seen k s) b with
        | .ok (body, cl) => some (b, body, cl)
        | .error _ => none
      else none
    | none => none
  else none

/-- The command of mailbox `m` that row `k` refuses now, with the field and entry that refuse it. -/
def refuses (k : CmdSpec) (m : Nat) (s : State) : Option (Mbox × Nat × Nat) :=
  if cmdReady k s m then
    match busyBox s m with
    | some b =>
      if opAccepted (seen k s) (cmdOp b) then
        match checkAll k (seen k s) b with
        | .ok _ => none
        | .error r => if r.status = stRefused then some (b, r.field, r.entry) else none
      else some (b, 0xF0, noEntry)
    | none => none
  else none

/-- STATUS of a command carried out: OK, or OK_CLAMPED where values were clamped (R475). -/
def okStatus (cl : List Clamp) : Nat := if cl.isEmpty then stOk else stOkClamped

/-- `t` is `s` but for mailbox `m` and what a command may bring beside its effect: cause groups, Peat, statistics
counters, armings, and free values taken. -/
def ButReply (m : Nat) (s t : State) : Prop :=
  t = { s with mbox := t.mbox, irq := { s.irq with groups := t.irq.groups }, peat := t.peat, counters := t.counters,
               inject := t.inject, freeTick := t.freeTick } ∧
    t.mbox.length = s.mbox.length ∧ ∀ k, k ≠ m → t.mbox[k]? = s.mbox[k]?

/-- `t` is `s` but for cause groups, Peat, statistics counters and armings: what a unit reports of itself. -/
def ButReports (s t : State) : Prop :=
  t = { s with irq := { s.irq with groups := t.irq.groups }, peat := t.peat, counters := t.counters, inject := t.inject }

/-- Mailbox `m` holds the response to the command `b`: DONE, not BUSY, its cause set unless NO_IRQ, with OPCODE, TAG,
STATUS, RESULT_LEN and CMD_SEQ in the header, and the result after it (R125, R129). -/
def Answered (m : Nat) (b : Mbox) (status len bits : Nat) (t : State) : Prop :=
  ∃ x, t.mbox[m]? = some x ∧ x.busy = false ∧ x.done = true ∧ x.cause = !cmdNoIrq b ∧
    fld x.rsp.toNat 0 16 = cmdOp b ∧ fld x.rsp.toNat 16 16 = cmdTag b ∧ fld x.rsp.toNat 32 8 = status % 256 ∧
    fld x.rsp.toNat 80 16 = len ∧ fld x.rsp.toNat 128 32 = b.cmdSeq.toNat ∧
    fld x.rsp.toNat 256 (8 * len) = bits % 2 ^ (8 * len)

/-- The response in mailbox `m` names the field and entry that refuse the command, lists no clamp and no record (R135). -/
def Refuses (m field entry : Nat) (t : State) : Prop :=
  ∃ x, t.mbox[m]? = some x ∧ fld x.rsp.toNat 40 8 = 0 ∧ fld x.rsp.toNat 48 8 = field % 256 ∧ fld x.rsp.toNat 56 1 = 0 ∧
    fld x.rsp.toNat 64 16 = entry % 65536 ∧ fld x.rsp.toNat 160 32 = 0

/-- Row `k`, as command `c`, is carried out wherever its checks pass and `pre` holds: it answers OK with a result of
`len` bytes, and the state is `eff` of the one met, but for the reply. -/
def CarriesOut (c : Fin 8 → Instr) (k : CmdSpec) (pre : State → Cmd → Prop) (eff : State → Cmd → State)
    (len : State → Cmd → Nat) (res : State → Cmd → Nat) : Prop :=
  ∀ (m : Fin 8) (s : State) (b : Mbox) (body : Nat) (cl : List Clamp),
    accepts k m s = some (b, body, cl) → pre (seen k s) (cmdOf m b body) →
      Completes (c m) s fun t =>
        ButReply m (eff (seen k s) (cmdOf m b body)) t ∧
        Answered m b (okStatus cl) (len (seen k s) (cmdOf m b body)) (res (seen k s) (cmdOf m b body)) t

/-- Row `k` ends with a status that is not OK, and changes nothing but the reply. -/
def EndsWith (c : Fin 8 → Instr) (k : CmdSpec) (pre : State → Cmd → Prop) (status : Nat) : Prop :=
  ∀ (m : Fin 8) (s : State) (b : Mbox) (body : Nat) (cl : List Clamp),
    accepts k m s = some (b, body, cl) → pre (seen k s) (cmdOf m b body) →
      Completes (c m) s fun t => ButReply m (seen k s) t ∧ Answered m b status 0 0 t

/-- Row `k` is accepted and waits: the mailbox stays BUSY and holds what it waits for, with the clamps made. -/
def Suspends (c : Fin 8 → Instr) (k : CmdSpec) (pre : State → Cmd → Prop) (eff : State → Cmd → State)
    (w : State → Cmd → CmdWait) : Prop :=
  ∀ (m : Fin 8) (s : State) (b : Mbox) (body : Nat) (cl : List Clamp),
    accepts k m s = some (b, body, cl) → pre (seen k s) (cmdOf m b body) →
      Completes (c m) s fun t =>
        ButReply m (eff (seen k s) (cmdOf m b body)) t ∧
        ∃ x, t.mbox[m.val]? = some x ∧ x.busy = true ∧ x.wait = w (seen k s) (cmdOf m b body) ∧ x.clamps = cl ∧ x.cmd = b.cmd

/-- Row `k` is carried out wherever its checks pass and `pre` holds, and `post` says what it leaves: of the mailbox as it
held the command, the clamps made, the state as the row met it, and the next state. -/
def Yields (c : Fin 8 → Instr) (k : CmdSpec) (pre : State → Cmd → Prop) (post : Mbox → List Clamp → State → Cmd → State → Prop) : Prop :=
  ∀ (m : Fin 8) (s : State) (b : Mbox) (body : Nat) (cl : List Clamp),
    accepts k m s = some (b, body, cl) → pre (seen k s) (cmdOf m b body) →
      Completes (c m) s (post b cl (seen k s) (cmdOf m b body))

/-- Row `k` creates an object: it makes number `i` where `num` finds that number and `may` allows it, and answers with a
result of `len` bytes; where no number is found, or none may be made, it ends RESOURCE_EXHAUSTED and makes nothing. -/
def Creates (c : Fin 8 → Instr) (k : CmdSpec) (num : State → Cmd → Option Nat) (may : State → Cmd → Bool)
    (put : Nat → State → Cmd → State) (len : Nat) (res : Nat → State → Cmd → Nat) : Prop :=
  (∀ i, CarriesOut c k (fun s x => num s x = some i ∧ may s x = true) (put i) (fun _ _ => len) (res i)) ∧
    EndsWith c k (fun s x => num s x = none ∨ may s x = false) stExhausted

/-- The number a creator gets: the lowest free one where it asks for any, else the one it names. -/
def chosen (any : Nat) (free : Option Nat) (v : Nat) : Option Nat := if v = any then free else some v

/-- No effect beside the reply. -/
def noEffect : State → Cmd → State := fun s _ => s

/-- Any command that passes its checks. -/
def always : State → Cmd → Prop := fun _ _ => True

/-- The command's field of `w` bits at bit `lo` of its body. -/
abbrev Cmd.fld (c : Cmd) (lo w : Nat) : Nat := Sys2Proof.Machine.fld c.body lo w

/-- What a slice says to a message that it does not take (R393): the beat is gone, and a NACK with the status goes out. -/
def Nacked (p lane : Nat) (b : RtnBeat) (m : Msg) (status : Nat) (s t : State) : Prop :=
  (portAt t p).out = onLanes (shownNow (portCycle s p) (portAt s p) ++ [nackBeat b.core.toNat (withStatus m.hdr status)]) ∧ laneOf (portAt t p) lane = (laneOf (portAt s p) lane).drop 1

end Sys2Proof.Machine
end

