-- ==== Sys2Proof/Certificates/Slice0/Obligations.lean ====
section
/-! DEFINITION. What is claimed of the complex. A claim about a mailbox command reads it through `accepts`, the body as
applied being the last argument of `cmdOf`; "but for the reply" is `ButReply`. -/

section

open Sys2Proof Sys2Proof.Machine

/-! The whole machine. -/

/-- A step takes the command at the front of the queue and runs it on the queue's rest. -/
def Obligations.FrontCommandRuns : Prop :=
  ∀ (c : Instr) (rest : List Instr) (s : State),
    step { s with pending := c :: rest } = exec c { s with pending := rest }

/-- On an empty queue the port accepts the first request that the host holds there, where it can; else half a nanosecond
passes: every island's count advances at its clock, one HRP response is taken, deliveries in progress add what is withheld
of their mover's clock, and nothing else changes. The model's choice (log entries 1 and 85). -/
def Obligations.EmptyQueueTicks : Prop :=
  ∀ s : State, s.pending = [] →
    (heldFront s = none → ∃ t, step s = .next t ∧
      t = { s with clk := { acc := s.clk.acc.mapIdx fun i a => a + clockRate s i }, hrp := { s.hrp with rsp := s.hrp.rsp.drop 1 }
                   ports := t.ports } ∧
      (∀ p, portAt t p = { portAt s p with dlvs := (portAt s p).dlvs.map fun d => if withholds s && d.timed then
        { d with throttle := d.throttle + withheldNow s (d.slot / 32) } else d }) ∧
      (s.bring.stage = 0 → t.clk = s.clk)) ∧
    ∀ c rest, s.hrp.waiting = c :: rest →
      (hrpTakes s (requestTag c) = false → heldFront s = none) ∧
      (hrpTakes s (requestTag c) = true →
        (∀ tag w, c = .hrpNotPresent tag w →
          step s = .next (answer tag 1 0 { s with hrp := { s.hrp with waiting := rest } })) ∧
        ((∀ tag w, c ≠ .hrpNotPresent tag w) → ∀ t, exec c { s with hrp := { s.hrp with waiting := [] } } = .next t →
          step s = .next { t with hrp := { t.hrp with waiting := rest } }))

/-- The state after reset has the form that every step keeps. -/
def Obligations.ResetHasForm : Prop := State.reset.Formed

/-- Every step, of whatever command or of none, keeps the form: byte memories canonical, CMD_SEQ never 0 (R126), eight
mailboxes (R122), ten cause groups (R479), 225 island counts (R482). -/
def Obligations.EveryStepKeepsForm : Prop := ∀ s t : State, step s = .next t → s.Formed → t.Formed

/-- Every command completes in every state, and leaves the commands behind it as they wait. -/
def Obligations.EveryCommandCompletes : Prop :=
  ∀ (c : Instr) (s : State), Completes c s fun t => t.pending = s.pending

/-- R91 and R78: the fused minimum SVN is never lowered, and no fuse changes but by SVN_COMMIT; no reset touches one. -/
def Obligations.FusesOnlyRise : Prop :=
  ∀ (c : Instr) (s t : State), exec c s = .next t →
    s.fuses.svnMin.toNat ≤ t.fuses.svnMin.toNat ∧ t.fuses = { s.fuses with svnMin := t.fuses.svnMin } ∧
      (t.fuses ≠ s.fuses → ∃ m, c = .svnCommit m)

/-- R72: SPLIT and UCIE_MODS are latched at a cold reset and never otherwise; COOL and the fitted engines also at a
rising RST_N. -/
def Obligations.StrapsSampledAtReset : Prop :=
  ∀ (c : Instr) (s t : State), exec c s = .next t →
    (∃ cool split mods engines, c = .coldReset cool split mods engines ∧ t.straps = ⟨cool, split, mods, engines⟩) ∨
      (∃ cool engines, c = .warmResetRelease cool engines ∧ s.bring.rstN = false ∧
        t.straps = { s.straps with cool := cool, engines := engines }) ∨
      t.straps = s.straps

/-- R75, R77 and R78: test access changes by its own instructions and by a rising PWR_OK, and by nothing else. -/
def Obligations.TapStandsApart : Prop :=
  ∀ (c : Instr) (s t : State), exec c s = .next t →
    t.tap = s.tap ∨ (∃ cool split mods engines, c = .coldReset cool split mods engines ∧ t.tap = .reset) ∨
      c ∈ [.tapReset, .idcode, .mbistResult, .statusRead] ∨ (∃ code tdi, c = .bypass code tdi) ∨
      (∃ a b, c = .samplePreload a b) ∨ (∃ a, c = .extest a) ∨ (∃ u, c = .wrapSel u) ∨ (∃ a, c = .wrapWir a) ∨
      (∃ a, c = .wrapWdr a) ∨ ∃ a, c = .mbistRun a

/-- R27: a mark of a wedged function comes only by UNIT_WEDGED of that function, and goes only by its function reset or
by a reset of the whole complex. -/
def Obligations.WedgedMarks : Prop :=
  ∀ (c : Instr) (s t : State) (f : Fn), exec c s = .next t →
    (f ∈ t.wedged → f ∉ s.wedged → c = .unitWedged f) ∧
      (f ∈ s.wedged → f ∉ t.wedged → c = .functionResetDone f ∨ t.wedged = [])

/-- R126: CMD_SEQ rises, from 0xFFFF_FFFF to 1, only by an accepted GO, and starts again at 1 only with every mailbox
cleared, at a cold or warm reset. -/
def Obligations.CmdSeqRises : Prop :=
  ∀ (c : Instr) (s t : State), exec c s = .next t →
    t.cmdSeq = s.cmdSeq ∨
      (∃ tag addr be data, c = .registerWrite tag addr be data ∧
        t.cmdSeq = if s.cmdSeq = 0xFFFFFFFF then 1 else s.cmdSeq + 1) ∨
      (t.cmdSeq = 1 ∧ t.mbox = State.reset.mbox)

/-- The values the spec gives at a cold reset: VECTOR of group g is 63 − g (R479), MASK and ENABLE all ones, no cause
set, CMD_SEQ 1 (R126), no response, no doorbell answered, the control page shut until the boot ROM opens it (R64), COOL
unconfirmed under the cap of the AIR profile (R119), no object of any kind in use (R78). -/
def Obligations.ResetValues : Prop :=
  (∀ g < 10, (State.reset.irq.groups[g]?).map CauseGroup.vector = some (BitVec.ofNat 6 (63 - g)) ∧
      (State.reset.irq.groups[g]?).map CauseGroup.cause = some 0) ∧
    State.reset.cmdSeq = 1 ∧ State.reset.bring.pageOpen = false ∧ State.reset.bring.stage = 0 ∧
    State.reset.bring.blockReady = false ∧ State.reset.power.confirmed = false ∧
    (∀ m < 8, ∃ b, State.reset.mbox[m]? = some b ∧ b.busy = false ∧ b.done = false ∧ b.locked = 0 ∧ b.ignored = 0) ∧
    State.reset.rings = [] ∧ State.reset.streams = [] ∧ State.reset.xlate.ranges = [] ∧ State.reset.tables = [] ∧
    State.reset.bases = [] ∧ State.reset.queues = [] ∧ State.reset.cw.windows = [] ∧ State.reset.counters = []

/-- Byte memory: the Mere reads back what was written, other bytes as before, and keeps its one canonical form. -/
def Obligations.MemoryReadsBack : Prop :=
  ∀ (l : List Host.Cell) (a b : Nat) (x : Byte), zeroForm l = true →
    zeroForm (zeroPut l a x) = true ∧ zeroGet (zeroPut l a x) b = (if b = a then x else zeroGet l b)

/-! The host register port and the mailboxes. -/

/-- R62 and R64: while the page is closed the shell answers a request of any row NOT_PRESENT with zero data and performs
nothing. A request is held at the port, behind those held already, while 32 are outstanding or its tag is; with no command in
the queue (log entry 85) the first held is accepted once neither is so. HRP_NOT_PRESENT is no request of an open page. -/
def Obligations.ShellAnswersNotPresent : Prop :=
  ∀ (tag : BitVec 5) (s : State) (c : Instr),
    ((∃ w, c = .hrpNotPresent tag w) ∨ (∃ a be d, c = .registerWrite tag a be d) ∨
      (∃ m w be d, c = .mboxCmdAreaWrite tag m w be d) ∨ (∃ m be d, c = .mboxDoneAck tag m be d) ∨
      (∃ a be d, c = .causeClear tag a be d ∧ isCause (hrpMap a) = true) ∨ (∃ r w, c = .ringStatusRead tag r w) ∨
      (∃ w env, c = .peatWindowRead tag w env) ∨ ∃ r be d, c = .doorbell tag r be d) →
    (s.hrp.rsp.length < 32 → (∀ r ∈ s.hrp.rsp, r.tag ≠ tag) → s.hrp.waiting = [] → hrpOpen s = false →
      exec c s = .next { s with hrp := { rsp := s.hrp.rsp ++ [⟨tag, 0, 1⟩], waiting := [] } }) ∧
    (32 ≤ s.hrp.rsp.length ∨ (∃ r ∈ s.hrp.rsp, r.tag = tag) ∨ s.hrp.waiting ≠ [] →
      (hrpOpen s = false ∨ ∀ w, c ≠ .hrpNotPresent tag w) →
      exec c s = .next { s with hrp := { s.hrp with waiting := s.hrp.waiting ++ [c] } }) ∧
    (hrpOpen s = true → ∀ w, exec (.hrpNotPresent tag w) s = .next s) ∧
    ∀ rest, s.pending = [] → s.hrp.waiting = c :: rest → s.hrp.rsp.length < 32 → (∀ r ∈ s.hrp.rsp, r.tag ≠ tag) →
      (∀ w, c ≠ .hrpNotPresent tag w) → ∀ t, exec c { s with hrp := { s.hrp with waiting := [] } } = .next t →
        step s = .next { t with hrp := { t.hrp with waiting := rest } }

/-- REGISTER_WRITE (R63, R114, R120, R478): IRQ_MASK, ENABLE[g] and VECTOR[g] take a full write; VECTOR keeps its value on
0 to 7; a read-only register ignores it; each answers OK. A partial write, or one outside the map, is DECODE_ERROR, counted,
and changes nothing else.
The command area (R122, R125): a write changes exactly the bytes that its byte enables select; while BUSY it is ignored
and adds to LOCKED_WRITES, up to 255. Either is answered OK. -/
def Obligations.PortWrites : Prop :=
   (∀ (tag : BitVec 5) (be : BitVec 8) (d : Word64) (g : Fin 10) (s : State), serves s tag = true →
      (exec (.registerWrite tag 9 0xFF d) s = .next (answer tag 0 0 { s with irq := { s.irq with mask := d } })) ∧
      (exec (.registerWrite tag (BitVec.ofNat 21 (0x281 + 3 * g)) 0xFF d) s = .next (answer tag 0 0 { s with
        irq := { s.irq with groups := updAt s.irq.groups g fun c => { c with enable := d } } })) ∧
      (exec (.registerWrite tag (BitVec.ofNat 21 (0x282 + 3 * g)) 0xFF d) s = .next (answer tag 0 0 { s with
        irq := { s.irq with groups := updAt s.irq.groups g fun c =>
          { c with vector := if d.toNat % 64 < 8 then c.vector else d.setWidth 6 } } })) ∧
      (∀ a ∈ [0, 1, 2, 3, 4, 8], exec (.registerWrite tag a 0xFF d) s = .next (answer tag 0 0 s)) ∧
      (∀ a : BitVec 21, (a.toNat ∈ [0, 1, 2, 3, 4, 8, 9] ∨ 32 ≤ a.toNat ∧ a.toNat < 40) → be ≠ 0xFF →
        exec (.registerWrite tag a be d) s = .next (answer tag 2 0 (bump 0 0 4 1 s))) ∧
      (∀ a : BitVec 21, (a.toNat ∈ [5, 6, 7] ∨ 10 ≤ a.toNat ∧ a.toNat < 32 ∨ 48 ≤ a.toNat ∧ a.toNat < 0x200 ∨
          0xA000 ≤ a.toNat ∧ a.toNat < 0x20000 ∨ 0x40000 ≤ a.toNat) →
        exec (.registerWrite tag a be d) s = .next (answer tag 2 0 (bump 0 0 4 1 s)))) ∧
   (∀ (tag : BitVec 5) (m : Fin 8) (w : Fin 32) (be : BitVec 8) (d : Word64) (s : State) (b : Mbox), serves s tag = true →
      s.mbox[m.val]? = some b →
      (b.busy = false → ∃ x : BitVec 2048,
        exec (.mboxCmdAreaWrite tag m w be d) s = .next (answer tag 0 0 { s with mbox := s.mbox.set m { b with cmd := x } }) ∧
        ∀ i < 256, fld x.toNat (8 * i) 8 =
          if i / 8 = w.val ∧ be.getLsbD (i % 8) = true then fld d.toNat (8 * (i % 8)) 8 else fld b.cmd.toNat (8 * i) 8) ∧
      (b.busy = true → b.locked ≤ 255 →
        exec (.mboxCmdAreaWrite tag m w be d) s =
          .next (answer tag 0 0 { s with mbox := s.mbox.set m { b with locked := min (b.locked + 1) 255 } })))

/-- The mailbox takes a command (R123, R125, R126, R142): GO = 1 in a mailbox not BUSY assigns CMD_SEQ, copies TAG, clears
LOCKED_WRITES, IGNORED_GO, DONE and its cause, and locks the area. Where the opcode needs no refusal at once, nothing else
changes, but that a management reset and a warm reset take effect with it. GO = 1 in a BUSY mailbox only adds to IGNORED_GO, up
to 15; GO = 0 has no effect. Each is answered OK. -/
def Obligations.GoTakesCommand : Prop :=
  ∀ (tag : BitVec 5) (m : Fin 8) (d : Word64) (s : State) (b : Mbox), serves s tag = true → s.mbox[m.val]? = some b →
    let go := exec (.registerWrite tag (BitVec.ofNat 21 (32 + m)) 0xFF d) s
    let taken := answer tag 0 0 { s with
      mbox := s.mbox.set m { b with
        busy := true, done := false, cause := false, locked := 0, ignored := 0, cmdSeq := s.cmdSeq,
        tag := BitVec.ofNat 16 (fld b.cmd.toNat 16 16), wait := .none, clamps := [], goAt := cyclesOf s islMgmt }
      cmdSeq := if s.cmdSeq = 0xFFFFFFFF then 1 else s.cmdSeq + 1 }
    let resets := cmdOp b = 0x0120 ∧ fld (cmdBody b) 0 8 = 10
    (d.getLsbD 0 = true → b.busy = false → (mgmtRuns s && !held s && !opAccepted s (cmdOp b)) = false →
      (¬ resets → cmdOp b ≠ 0x0121 → go = .next taken) ∧
      (resets → go = exec (.functionResetManagement m) taken) ∧
      (cmdOp b = 0x0121 → go = exec (.warmReset m) taken)) ∧
    ((b.busy = true → (resets ∨ cmdOp b = 0x0121) → b.wait ≠ .none ∨ held s = true ∨ blockUp s = false) →
      (d.getLsbD 0 = true → b.busy = true → b.ignored ≤ 15 →
        go = .next (answer tag 0 0 { s with mbox := s.mbox.set m { b with ignored := min (b.ignored + 1) 15 } })) ∧
      (d.getLsbD 0 = false → go = .next (answer tag 0 0 s)))

/-- R130 step 1, R135 and R145: a GO whose opcode the index does not list, or the stage does not accept, is answered at once
with REFUSED_FIELD, FIELD 0xF0 and no clamp, and has no effect. -/
def Obligations.UnlistedOpcodeRefused : Prop :=
  ∀ (tag : BitVec 5) (m : Fin 8) (d : Word64) (s : State) (b : Mbox), serves s tag = true →
    s.mbox[m.val]? = some b → d.getLsbD 0 = true → b.busy = false → mgmtRuns s = true → held s = false →
    opAccepted s (cmdOp b) = false →
      Completes (.registerWrite tag (BitVec.ofNat 21 (32 + m)) 0xFF d) s fun t =>
        ButReply m { s with cmdSeq := nextSeq s.cmdSeq, hrp := { s.hrp with rsp := s.hrp.rsp ++ [⟨tag, 0, 0⟩] } } t ∧
        Answered m { b with cmdSeq := s.cmdSeq } stRefused 0 0 t ∧ Refuses m 0xF0 0xFFFF t

/-- Acknowledging (R124, R125): writing 1 to DONE of a mailbox that is DONE makes it IDLE and clears its cause; the response
stays readable. In any other state, or writing 0, nothing changes.
Causes (R12, R477, R478): writing 1 to bits of RING_DONE[i], RING_ERR[i] or CAUSE of a group clears those bits and no
others; ENABLE, VECTOR and the mask stand. -/
def Obligations.AcknowledgementsClear : Prop :=
   (∀ (tag : BitVec 5) (m : Fin 8) (be : BitVec 8) (d : Word64) (s : State) (b : Mbox), serves s tag = true →
      s.mbox[m.val]? = some b →
      (d.getLsbD 0 = true → b.done = true →
        exec (.mboxDoneAck tag m 0xFF d) s =
          .next (answer tag 0 0 { s with mbox := s.mbox.set m { b with done := false, cause := false } })) ∧
      ((d.getLsbD 0 = false ∨ b.done = false) → exec (.mboxDoneAck tag m 0xFF d) s = .next (answer tag 0 0 s)) ∧
      (be ≠ 0xFF → exec (.mboxDoneAck tag m be d) s = .next (answer tag 2 0 (bump 0 0 4 1 s)))) ∧
   (∀ (tag : BitVec 5) (i : Fin 64) (g : Fin 10) (d : Word64) (s : State), serves s tag = true →
      (exec (.causeClear tag (BitVec.ofNat 21 (0x200 + i)) 0xFF d) s = .next (answer tag 0 0 { s with
        irq := { s.irq with ringDone := Tbl.put s.irq.ringDone i (Tbl.getD s.irq.ringDone i 0 &&& ~~~d) } })) ∧
      (exec (.causeClear tag (BitVec.ofNat 21 (0x240 + i)) 0xFF d) s = .next (answer tag 0 0 { s with
        irq := { s.irq with ringErr := Tbl.put s.irq.ringErr i (Tbl.getD s.irq.ringErr i 0 &&& ~~~d) } })) ∧
      (exec (.causeClear tag (BitVec.ofNat 21 (0x280 + 3 * g)) 0xFF d) s = .next (answer tag 0 0 { s with
        irq := { s.irq with groups := updAt s.irq.groups g fun c => { c with cause := c.cause &&& ~~~d } } })))

/-- A ring status page (R169 to R171): the word read, in its layout, zero where the ring is not created; word 0 clears
LAST_ERROR and word 1 BAD_DOORBELLS, and nothing else changes.
The Peat window (R480, R488): a read gives the word of the record at that place, or zero beyond them; offline it is
NOT_PRESENT. Where the copy read is damaged the spare serves it, and where both are the answer is DECODE_ERROR. -/
def Obligations.StatusAndPeatReads : Prop :=
   (∀ (tag : BitVec 5) (r : Fin 4096) (s : State), serves s tag = true →
      (∀ x, Tbl.get? s.rings r = some x →
        exec (.ringStatusRead tag r false) s = .next (answer tag 0
          (pack [(8, x.lastError), (1, b2n x.ownWait), (1, b2n x.fenceWait), (3, x.state), (1, wrapOf x x.tail),
            (1, wrapOf x x.head), (1, wrapOf x x.retire), (16, posOf x x.tail), (16, posOf x x.head), (16, posOf x x.retire)])
          { s with rings := Tbl.put s.rings r { x with lastError := 0 } }) ∧
        exec (.ringStatusRead tag r true) s = .next (answer tag 0
          (pack [(6, 0), (1, b2n x.place), (5, x.sizeLog2), (4, x.job), (16, x.mask.toNat), (16, x.badBells), (16, x.resetGen)])
          { s with rings := Tbl.put s.rings r { x with badBells := 0 } })) ∧
      (Tbl.get? s.rings r = none → ∀ w, exec (.ringStatusRead tag r w) s = .next (answer tag 0 0 s))) ∧
   (∀ (tag : BitVec 5) (w : Fin 131072) (env : Env) (s : State), serves s tag = true →
      (s.peat.online = false → exec (.peatWindowRead tag w env) s = .next (answer tag 1 0 s)) ∧
      (s.peat.online = true → s.inject = [] → env.flips = [] →
        exec (.peatWindowRead tag w env) s = .next (answer tag 0 (peatWord s.peat w) s)) ∧
      (s.peat.online = true → Completes (.peatWindowRead tag w env) s fun t =>
        (∃ x, t.hrp.rsp = s.hrp.rsp ++ [x] ∧ x.tag = tag ∧
          (x.status = 0 ∧ x.rdata = BitVec.ofNat 64 (peatWord s.peat w) ∨ x.status = 2 ∧ x.rdata = 0)) ∧
        ButReports { s with hrp := t.hrp } t))

/-- Doorbells (R161 to R164). In RUN and ERROR a doorbell is accepted where TAIL is below S, d_ret at most S and d_tail at
most d_ret: the tail becomes Enew and the entry there is read again. Otherwise it is ignored and adds one to BAD_DOORBELLS,
with a record and PEAT cause 4. A ring not created counts an orphan; a ring of a job being released counts a bad doorbell
with no record; a ring being reset holds the doorbell. Each is answered OK, and NOT_PRESENT before Boardwalk opens. -/
def Obligations.Doorbells : Prop :=
  ∀ (tag : BitVec 5) (n : Fin 4096) (be : BitVec 8) (d : Word64) (s : State), serves s tag = true →
    let did := fun t => exec (.doorbell tag n be d) s = .next t
    let setRing := fun r => { s with rings := Tbl.put s.rings n r }
    (s.bring.blockReady = false → did (answer tag 1 0 s)) ∧
    (s.bring.blockReady = true → fld be.toNat 0 4 ≠ 15 → did (answer tag 2 0 (bump 0 0 4 1 s))) ∧
    (s.bring.blockReady = true → fld be.toNat 0 4 = 15 → Tbl.get? s.rings n = none → did (answer tag 0 0 (bump 0 0 0 1 s))) ∧
    ∀ r, Tbl.get? s.rings n = some r → s.bring.blockReady = true → fld be.toNat 0 4 = 15 →
      let size := 2 ^ r.sizeLog2
      let new := fld d.toNat 16 1 * size + fld d.toNat 0 16
      let dRet := (new + 2 * size - r.retire) % (2 * size)
      let dTail := (new + 2 * size - r.tail) % (2 * size)
      let count := { r with badBells := satAdd 16 r.badBells 1 }
      (r.state = 2 → did (answer tag 0 0 (setRing { r with bells := r.bells ++ [d.setWidth 32] }))) ∧
      (r.state ≠ 2 → (r.state = 4 ∨ jobReleasing s r.job = true) → did (answer tag 0 0 (setRing count))) ∧
      ((r.state = 1 ∨ r.state = 3) → jobReleasing s r.job = false → (standsBy s && isMirrored s 1 n) = false →
        (fld d.toNat 0 16 < size ∧ dRet ≤ size ∧ dTail ≤ dRet →
          did (answer tag 0 0 (setRing { r with tail := new, reread := true }))) ∧
        (¬ (fld d.toNat 0 16 < size ∧ dRet ≤ size ∧ dTail ≤ dRet) → ∃ reason,
          did (answer tag 0 0 (setCause 8 4 (offer none (bellRec s n r (fld d.toNat 0 32) reason) (setRing count))))))

/-- R135: a command that its checks refuse changes nothing but the reply, which holds REFUSED_FIELD, the field and entry
that refuse it, no clamp and no Peat sequence number. -/
def Obligations.RefusedCommandsChangeNothing : Prop :=
  ∀ (k : CmdSpec) (m : Fin 8) (s : State) (b : Mbox) (f e : Nat), refuses k m s = some (b, f, e) →
    ButReply m (seen k s) (runCmd k m s) ∧ Answered m b stRefused 0 0 (runCmd k m s) ∧ Refuses m f e (runCmd k m s)

/-- A row waits, and the state stands, while its mailbox holds no command of its own (another opcode, or another kind), while
that is held until Boardwalk (R95), or while an older command that conflicts with it is still in progress (R139). -/
def Obligations.CommandsWaitTheirTurn : Prop :=
  ∀ (k : CmdSpec) (m : Nat) (s : State),
    (∀ b, s.mbox[m]? = some b → b.busy = true → cmdOp b = k.op → b.wait = .none → k.sel (cmdBody b) = true →
      held s = true ∨ (k.hw = false ∧ blocked s m b = true)) → runCmd k m s = s

/-! Power, resets and test access. -/

/-- COLD_RESET (R78, R79): the straps are sampled, everything else stands at reset, and bring-up waits in S0, stopped where
SPLIT is 0b11 (R86). Fuses, the commands waiting and the host's memory are outside it, and what stacks hold is lost.
POWER_DOWN and a falling RST_N (R46, R79, R83, R84, R78): outstanding requests are answered NOT_PRESENT. PWR_OK falling clamps
the outputs of every port and clears nothing else yet. RST_N falling leaves Peat's records, the straps, the fuses, the TAP, the
Hexob image, what is outside the complex and its pins, and the readings of its sensors and monitors, and puts everything else at
reset. -/
def Obligations.ResetsAndPower : Prop :=
   (∀ (cool split : BitVec 2) (mods : BitVec 4) (engines : BitVec 32) (s : State),
      exec (.coldReset cool split mods engines) s = .next { State.reset with
        pending := s.pending
        straps := ⟨cool, split, mods, engines⟩
        fuses := s.fuses
        freeTick := s.freeTick
        bring := { Bringup.reset with rstN := s.bring.rstN, stopCause := if split = 3 then 1 else 0 }
        mem := { MemSys.reset with stackEpoch := s.mem.stackEpoch + 1, hostOut := s.mem.hostOut } }) ∧
   (∀ s : State, let shut := s.hrp.rsp.map fun r => HrpRsp.mk r.tag 0 1
      (Completes .powerDown s fun t =>
        (∀ p, portAt t p = { portAt s p with nrdy := 0, out := [], rtnCredit := [] }) ∧
        (∀ p, cport t p = { cport s p with oeEn := false, laserEn := false, out := [] }) ∧
        (∀ k, stackAt t k = { stackAt s k with updating := false }) ∧
        t = { s with
          bring := { s.bring with pwrOk := false }, hrp := { s.hrp with rsp := shut }, ports := t.ports, stackTbl := t.stackTbl
          cw := { s.cw with ports := t.cw.ports } }) ∧
      (s.bring.pwrOk = true → s.bring.rstN = true → Completes .warmResetAssert s fun t =>
        (∀ k, stackAt t k = { Stack.reset with cattrip := (stackAt s k).cattrip }) ∧
        (∀ p, cport t p = { CPort.reset with faultN := (cport s p).faultN, los := (cport s p).los }) ∧
        t = { State.reset with
          pending := s.pending, straps := s.straps, fuses := s.fuses, tap := s.tap, freeTick := s.freeTick
          bring := { Bringup.reset with
            pwrOk := true, rstN := false, shutdown := s.bring.shutdown, warm := true, image := s.bring.image }
          hrp := { s.hrp with rsp := shut }
          peat := { s.peat with online := false, pend := [] }
          mem := { MemSys.reset with stackEpoch := s.mem.stackEpoch + 1, hostOut := s.mem.hostOut }
          stackTbl := t.stackTbl, cw := { Causeway.reset with ports := t.cw.ports }
          power := { Power.reset with
            temps := s.power.temps, hot := s.power.hot, hotTemp := s.power.hotTemp, tempMax := s.power.hotTemp
            mons := s.power.mons, oscs := s.power.oscs } }) ∧
      (s.bring.pwrOk = false → s.bring.rstN = true →
        exec .warmResetAssert s = .next { s with bring := { s.bring with rstN := false } }) ∧
      (s.bring.rstN = false → exec .warmResetAssert s = .next s))

/-- A rising RST_N (R72, R84, R511): COOL is sampled and bring-up restarts at S0, but a complex that shut itself down stays
down while a sensor is at its trip temperature. With RST_N high nothing happens. WARM_RESET with CONFIRM 0x5741 acts as both
edges, with no response (R79, R113); any other value is refused. -/
def Obligations.WarmResetRelease : Prop :=
  ∀ (cool : BitVec 2) (engines : BitVec 32) (s : State),
    let sampled := { s with straps := { s.straps with cool := cool, engines := engines }, bring := { s.bring with rstN := true } }
    (s.bring.rstN = false → s.bring.pwrOk = true → (s.bring.shutdown = true → allCool s = true) →
      exec (.warmResetRelease cool engines) s = .next { sampled with bring := { sampled.bring with
        shutdown := false, stage := 0, stopCause := if s.straps.split = 3 then 1 else 0 } }) ∧
    (s.bring.rstN = false → (s.bring.pwrOk = false ∨ s.bring.shutdown = true ∧ allCool s = false) →
      exec (.warmResetRelease cool engines) s = .next sampled) ∧
    (s.bring.rstN = true → exec (.warmResetRelease cool engines) s = .next s) ∧
    (∀ (m : Fin 8) (b : Mbox) (body : Nat) (cl : List Clamp), accepts specWarmReset m s = some (b, body, cl) →
      fld body 0 16 = 0x5741 ∧ Completes (.warmReset m) s fun t =>
        Restarts s t ∧ t.bring.stage = 0 ∧ t.bring.rstN = true ∧ t.bring.warm = true ∧ t.bring.image = s.bring.image ∧
          t.peat.records = s.peat.records ∧ t.rings = [] ∧ t.streams = [] ∧ t.power.confirmed = false ∧
          t.hrp.rsp = s.hrp.rsp.map fun r => HrpRsp.mk r.tag 0 1)

/-- IDCODE, STATUS_READ, SAMPLE/PRELOAD, BYPASS, EXTEST and TAP_RESET while the supplies are up (R75, R76, R77): IDCODE
shifts out 0x1E02456F, STATUS_READ GLOBAL_STATUS, at every stage; bit 0 leaves first. BYPASS, and every unlisted code, gives
one bit of delay. EXTEST shifts the boundary register out and in and drives the boundary; in service the data of all work in
flight becomes free, and nothing else changes with it.
The private rows (R75, R76): before Hexob starts, or where the image enables debug access, WRAP_SEL selects a wrapper,
WRAP_WIR and WRAP_WDR shift its registers, those of other wrappers standing, MBIST_RUN tests its memories and MBIST_RESULT reads
the result; nothing but the TAP changes. Where private rows are off each acts as BYPASS. -/
def Obligations.TestAccess : Prop :=
   (∀ (code : BitVec 8) (a p : List Bool) (s : State), s.bring.pwrOk = true →
      let shift := fun ir (out : List Bool) => { s with tap := { s.tap with ir := ir, driving := false, dr := out, tdo := out } }
      let driven := { s.tap with ir := 0x03, driving := true, dr := a, tdo := a, boundary := p }
      (exec .idcode s = .next (shift 0x01 (natBits 32 0x1E02456F))) ∧
      (exec .statusRead s = .next (shift 0x10 (natBits 64 (if s.bring.pageOpen then globalStatus s else
        s.bring.stage % 8 + s.bring.stopCause % 16 * 4096)))) ∧
      (exec (.samplePreload a p) s = .next { shift 0x02 a with tap := { (shift 0x02 a).tap with boundary := p } }) ∧
      (code.toNat ∉ listedCodes ∨ (code.toNat ∈ privateCodes ∧ privateOff s = true) → a ≠ [] →
        exec (.bypass code a) s = .next { s with tap := { s.tap with
          ir := code, driving := false, bypassBit := a.getLast?.getD false, tdo := false :: a.dropLast, dr := [a.getLast?.getD false] } }) ∧
      (inService s = false → exec (.extest ⟨a, p⟩) s = .next { s with tap := driven }) ∧
      (inService s = true → Completes (.extest ⟨a, p⟩) s fun t => t.tap = driven ∧ t.bring = { s.bring with extestDirty := true } ∧
        t.mem = { s.mem with reqs := t.mem.reqs } ∧ t.mem.reqs.map MemReq.id = s.mem.reqs.map MemReq.id ∧
        (∀ q ∈ t.mem.reqs, ∃ n, q.data = Config.freeBits 512 n) ∧
        (∀ i, portAt t i = { portAt s i with
          lane0 := (portAt t i).lane0, lane1 := (portAt t i).lane1, dlvs := (portAt t i).dlvs, reads := (portAt t i).reads }) ∧
        (∀ i, ∀ d ∈ (portAt t i).dlvs, ∃ n x, d.data = (natToBytes x (Config.freeBits (8 * x) n).toNat)) ∧
        (∀ i, cport t i = { cport s i with
          inq := (cport t i).inq, inWrites := (cport t i).inWrites, fwd := (cport t i).fwd, txq := (cport t i).txq }) ∧
        t = { s with tap := t.tap, bring := t.bring, mem := t.mem, bursts := t.bursts, ports := t.ports, cw := { s.cw with ports := t.cw.ports },
                     slices := t.slices, bindings := t.bindings, freeTick := t.freeTick }) ∧
      (exec .tapReset s = .next { s with tap := .reset })) ∧
   (∀ (u : BitVec 16) (w : BitVec 16) (tdi : List Bool) (failing : List Nat) (s : State), s.bring.pwrOk = true →
      (privateOff s = false → let t := { s.tap with driving := false }
        (exec (.wrapSel u) s = .next { s with tap := { t with
          ir := 0x20, wrapper := some u, dr := natBits 16 u.toNat, tdo := natBits 16 0 } }) ∧
        (s.tap.wrapper = some w → let old := fun (r : Tbl (List Bool)) => Tbl.getD r w.toNat []
          exec (.wrapWir tdi) s = .next { s with tap := { t with
            ir := 0x21, wirs := Tbl.put s.tap.wirs w.toNat tdi, dr := tdi, tdo := old s.tap.wirs } } ∧
          exec (.wrapWdr tdi) s = .next { s with tap := { t with
            ir := 0x22, wdrs := Tbl.put s.tap.wdrs w.toNat tdi, dr := tdi, tdo := old s.tap.wdrs } } ∧
          ∃ a, exec (.mbistRun failing) s = .next { s with tap := { t with ir := 0x30, mbist := some ⟨failing.isEmpty, a⟩ } } ∧
            (failing ≠ [] → a ∈ failing ∧ ∀ x ∈ failing, a ≤ x)) ∧
        (∀ r, s.tap.mbist = some r → exec .mbistResult s = .next { s with tap := { t with
          ir := 0x31, dr := r.pass :: natBits 48 r.firstFail, tdo := r.pass :: natBits 48 r.firstFail } })) ∧
      (privateOff s = true → ∀ c ∈ [Instr.wrapSel u, .wrapWir tdi, .wrapWdr tdi, .mbistRun failing, .mbistResult],
        Completes c s fun t => t = { s with tap := t.tap } ∧ t.tap.wrapper = s.tap.wrapper ∧ t.tap.wirs = s.tap.wirs ∧
          t.tap.wdrs = s.tap.wdrs ∧ t.tap.mbist = s.tap.mbist ∧ t.tap.boundary = s.tap.boundary ∧
          t.tap.tdo.head? ≠ some true ∧ t.tap.driving = false))

/-! Bring-up. -/

/-- S0 and S1 (R71, R85, R86, R90): PLLs that lock end S0, and a PLL that does not stops it with cause 2. In S1 the control
page opens once the SRAM is tested and every interface that SPLIT requires is trained, and after a warm reset the held image is
then checked; until then nothing else happens. A failing SRAM stops S1 with cause 3, and a failing interface with cause 4 and its
LINK_DOWN cause, page and loader open. Out of its stage each changes nothing. -/
def Obligations.EarlyBringUp : Prop :=
  ∀ (peatOk : Bool) (u : Fin 6) (s : State),
    (inStage s 0 = true →
      exec .pllLock s = .next { s with bring := { s.bring with stage := 1 } } ∧
      exec .pllLockTimeout s = .next { s with bring := { s.bring with stopCause := 2 } }) ∧
    (inStage s 0 = false → exec .pllLock s = .next s ∧ exec .pllLockTimeout s = .next s) ∧
    (inStage s 1 = true →
      let ready := fun (t : State) => t.bring.sramDone = true ∧ ∀ v ∈ ucieNeeded t.straps.split, v ∈ t.bring.ucieTrained
      let opened := fun (v t : State) =>
        (¬ ready v → t = v) ∧
        (ready v → v.bring.warm = false → t = { v with bring := { v.bring with pageOpen := true } }) ∧
        (ready v → v.bring.warm = true →
          t = { v with bring := t.bring, peat := t.peat, keys := t.keys, power := t.power, freeTick := t.freeTick,
                       irq := { v.irq with groups := t.irq.groups } } ∧
          t.bring.pageOpen = true ∧ t.bring.sramDone = true ∧ t.bring.ucieTrained = v.bring.ucieTrained ∧
          (imageFault v = none → t.bring.hexob = true ∧ t.bring.stage = 2 ∧ t.bring.image = v.bring.image) ∧
          (imageFault v ≠ none → t.bring.image = [] ∧ t.bring.stage = 1 ∧ t.bring.hexob = v.bring.hexob))
      let stopped := fun (cause : Nat) (t : State) => t.bring = { s.bring with stopCause := cause, pageOpen := true } ∧
        ∀ op ∈ [0x0110, 0x0111, 0x0112], opAccepted t op = true
      (s.bring.sramDone = false →
        Completes (.mgmtSramTestDone true peatOk) s (opened { s with bring := { s.bring with sramDone := true, peatOk := peatOk } }) ∧
        Completes (.mgmtSramTestDone false peatOk) s fun t => stopped 3 t ∧ t = { s with bring := t.bring }) ∧
      (u.val ∈ ucieNeeded s.straps.split → u.val ∉ s.bring.ucieTrained →
        Completes (.ucieTrainDone u) s (opened { s with bring := { s.bring with ucieTrained := s.bring.ucieTrained ++ [u.val] } }) ∧
        Completes (.ucieTrainTimeout u) s fun t => stopped 4 t ∧
          (∀ g, s.irq.groups[5]? = some g → ∃ g', t.irq.groups[5]? = some g' ∧ g'.cause.getLsbD (32 + u) = true) ∧
          t = { s with bring := t.bring, irq := { s.irq with groups := t.irq.groups }, peat := t.peat }) ∧
      (s.bring.sramDone = true → ∀ ok, exec (.mgmtSramTestDone ok peatOk) s = .next s) ∧
      (u.val ∉ ucieNeeded s.straps.split ∨ u.val ∈ s.bring.ucieTrained →
        exec (.ucieTrainDone u) s = .next s ∧ exec (.ucieTrainTimeout u) s = .next s)) ∧
    (inStage s 1 = false → ∀ ok, exec (.mgmtSramTestDone ok peatOk) s = .next s ∧ exec (.ucieTrainDone u) s = .next s ∧
      exec (.ucieTrainTimeout u) s = .next s)

/-- What starting Hexob does (R85, R86, R92, R93, R118, R304): stage S2, SVN, debug access and entry from the header; where
Peat passes its test it comes online, key slot 0 is filled and a margin plan is made, else bring-up stops with cause 5.
The loader (R87 to R89): IMAGE_BEGIN zeroes the image area and takes TOTAL_LEN; IMAGE_CHUNK puts LEN bytes at OFFSET;
IMAGE_END starts Hexob where every check of the image passes, and else zeroes the area and answers REFUSED_FIELD naming the
row of R87 that fails. -/
def Obligations.ImagesLoadAndStart : Prop :=
   (∀ (peatOk : Bool) (s : State), let t := startHexob peatOk s
      t.bring = { s.bring with
        hexob := true, stage := 2, imageTotal := none, svn := BitVec.ofNat 32 (imgNat s 16 4), debug := imgNat s 6 2 % 2 == 1,
        entry := BitVec.ofNat 32 (imgNat s 12 4), stopCause := if peatOk then 0 else 5 } ∧
      (peatOk = true → t.peat.online = true ∧ t.power.plan = s.power.plan + 1 ∧ (∃ k, Tbl.get? t.keys 0 = some k ∧ k.state = 1 ∧ k.job = 0)) ∧
      t = { s with bring := t.bring, peat := t.peat, keys := t.keys, power := t.power, freeTick := t.freeTick,
                   irq := { s.irq with groups := t.irq.groups } }) ∧
   (CarriesOut .imageBegin specImageBegin always
      (fun s c => { s with bring := { s.bring with image := [], imageTotal := some (c.fld 0 32) } }) (fun _ _ => 0) (fun _ _ => 0) ∧
    CarriesOut .imageChunk specImageChunk always
      (fun s c => { s with bring := { s.bring with
        image := zeroPutAll s.bring.image (c.fld 0 32) (natToBytes (c.fld 32 16) (c.body >>> 64)) } })
      (fun _ _ => 0) (fun _ _ => 0) ∧
    ∀ peatOk, CarriesOut (fun m => .imageEnd m peatOk) (specImageEnd peatOk) (fun s _ => imageFault s = none ∧ s.bring.stopCause = 0)
        (fun s _ => startHexob peatOk s) (fun _ _ => 0) (fun _ _ => 0) ∧
      ∀ (m : Fin 8) (s : State) (b : Mbox) (body row : Nat) (cl : List Clamp), accepts (specImageEnd peatOk) m s = some (b, body, cl) →
        imageFault (seen (specImageEnd peatOk) s) = some row →
        Completes (.imageEnd m peatOk) s fun t => Answered m b stRefused 0 0 t ∧ Refuses m row 0xFFFF t ∧
          ButReply m { s with bring := { s.bring with image := [], imageTotal := none } } t)

/-- SVN_COMMIT (R91): the fused minimum rises to the SVN of the running image, or stands where it is as high; OK either way. -/
def Obligations.SvnCommits : Prop :=
  CarriesOut .svnCommit specSvnCommit always
    (fun s _ => { s with fuses := { s.fuses with
      svnMin := if s.fuses.svnMin.toNat < s.bring.svn.toNat then s.bring.svn else s.fuses.svnMin } }) (fun _ _ => 0) (fun _ _ => 0) ∧
  ∀ s : State, opAccepted s 0x0113 = true ↔ s.bring.stage ≠ 1 ∧ s.bring.blockReady = true

/-- The Mere's self-test (R94): where every bank can be repaired Boardwalk opens, BLOCK_READY rises and S3 is entered with the
Mere zeroed; where one cannot, bring-up stops with cause 6. Only records, causes and held commands come with it. -/
def Obligations.MereSelfTest : Prop :=
  ∀ (failing : List (Nat × Nat)) (s : State), inStage s 2 = true → s.bring.hexob = true → s.bring.blockReady = false →
    Completes (.mereSelfTestDone failing) s fun t =>
      ((∀ b ∈ failing, b.1 < 2048 → b.2 ≤ 8) → t.mem.mere = [] ∧ t.mem.mereBad = [] ∧
        t.bring = { s.bring with boardwalk := true, blockReady := true, stage := 3, trainIdx := 0, trainAttempts := 0 }) ∧
      ((∃ b ∈ failing, b.1 < 2048 ∧ 8 < b.2) → t.mem = s.mem ∧ t.bring = { s.bring with stopCause := 6 }) ∧
      t = { s with bring := t.bring, mem := t.mem, mbox := t.mbox, irq := { s.irq with groups := t.irq.groups }, peat := t.peat,
                   counters := t.counters, inject := t.inject, freeTick := t.freeTick }

/-- Training of stacks in S3 (R51, R96 to R99): the i-th trained is stack (i mod 4) × 6 + i div 4. A stack trained joins at
3.2 Gb/s with its capacity, its three results kept, and the first places the context region; an attempt that fails, or in which
STK_CATTRIP rose, is made once more, and a stack that fails twice is failed, as is one whose STK_CATTRIP is high; then the next is
trained, and after the last S4 is entered. A stack not at its turn changes nothing. -/
def Obligations.StacksTrain : Prop :=
  ∀ (k : Fin 24) (cap : Nat) (results : List Word32) (s : State), inStage s 3 = true →
    let turn := s.bring.trainIdx % 4 * 6 + s.bring.trainIdx / 4 = k.val
    let trains := .stackTrainAttemptDone k true ⟨cap, results⟩
    let fails := fun c => c = .stackTrainAttemptDone k false ⟨cap, results⟩ ∨ c = .stackTrainTimeout k ∨
      c = trains ∧ ((stackAt s k).tripped = true ∨ cap = 0)
    let next := { s.bring with trainIdx := s.bring.trainIdx + 1, trainAttempts := 0 }
    (turn → (stackAt s k).cattrip = false → s.bring.trainIdx < 23 →
      ((stackAt s k).tripped = false → 0 < cap → Completes trains s fun t =>
        t.bring = { next with ctxStack := some (s.bring.ctxStack.getD k) } ∧
        t.stackTbl = Tbl.put s.stackTbl k { stackAt s k with
          state := 1, rate := 0, capGiB := if (stackAt s k).capGiB = 0 then min cap 64 else (stackAt s k).capGiB, training := results
          switching := none } ∧
        (s.bring.ctxStack.isSome = true ∨ s.ctxCache = [] → t.mem = s.mem) ∧
        t = { s with bring := t.bring, stackTbl := t.stackTbl, mem := t.mem, peat := t.peat, irq := { s.irq with groups := t.irq.groups } }) ∧
      (∀ c, fails c →
        (s.bring.trainAttempts = 0 → exec c s = .next { s with
          bring := { s.bring with trainAttempts := 1 }, stackTbl := Tbl.put s.stackTbl k { stackAt s k with tripped := false } }) ∧
        (s.bring.trainAttempts = 1 → Completes c s fun t => t.bring = next ∧
          stackAt t k = { stackAt s k with state := 3, tripped := false } ∧ (∀ i, i ≠ k.val → stackAt t i = stackAt s i) ∧
          t = { s with bring := t.bring, stackTbl := t.stackTbl, peat := t.peat, irq := { s.irq with groups := t.irq.groups } }))) ∧
    (turn → (stackAt s k).cattrip = true → s.bring.trainIdx < 23 → ∀ c, (c = trains ∨ fails c) → Completes c s fun t =>
      t.bring = next ∧ (stackAt t k).state = 3 ∧ ∀ i, i ≠ k.val → stackAt t i = stackAt s i) ∧
    (s.bring.trainIdx = 23 → k.val = 23 → 0 < cap → (stackAt s k).cattrip = false → (stackAt s k).tripped = false →
      Completes trains s fun t => t.bring.stage = 4 ∧ (stackAt t 23).state = 1) ∧
    (¬ turn → ∀ c, (c = trains ∨ fails c) → exec c s = .next s)

/-- S5 (R101 to R103, R519): it is entered on S5_ENTRY with a confirmed profile, or on the timeout without; every stack in
service that is not at its full rate waits for its switch, and movers q × 24 and q × 24 + 1 relock. A stack switches once the
requests accepted before have ended; the pause is charged as CLOCK_SWITCH. A mover relocks to 2.0 GHz; its bursts, and its deliveries that are granted and whose burst has not issued, are charged likewise. -/
def Obligations.FullServiceEntered : Prop :=
  ∀ (s : State) (k : Fin 24) (mv : Fin 96) (pause : Nat),
    (inStage s 4 = true → s.bring.s4Exited = true →
      (∀ c, (c = .s5Entry ∧ s.power.confirmed = true ∨ c = .profileConfirmTimeout ∧ s.power.confirmed = false) →
        Completes c s fun t => t.bring = { s.bring with stage := 5, boardwalk := false } ∧
          t.power.pinRate = (if s.power.profile = 0 then 1 else 2) ∧ t.power.profile = s.power.profile ∧
          (∀ q < 4, ∀ i < 2, (Tbl.getD t.movers (24 * q + i) .reset).relocking = true) ∧
          (∀ i x, Tbl.get? s.stackTbl i = some x → stackAt t i =
            if x.state = 1 ∧ x.rate ≠ fullRate t i then { x with switching := some s.mem.nextReq } else x) ∧
          t = { s with bring := t.bring, power := t.power, movers := t.movers, stackTbl := t.stackTbl, peat := t.peat,
                       irq := { s.irq with groups := t.irq.groups } }) ∧
      (s.power.confirmed = false → exec .s5Entry s = .next s) ∧ (s.power.confirmed = true → exec .profileConfirmTimeout s = .next s)) ∧
    (blockUp s = true → ∀ mark, (stackAt s k).switching = some mark → stackIdle s k mark = true →
      exec (.stackPinRateSwitch k pause) s = .next { s with
        stackTbl := Tbl.put s.stackTbl k { stackAt s k with rate := fullRate s k, switching := none }
        mem := { s.mem with reqs := s.mem.reqs.map fun r => if r.target == .stack k && r.res.isNone then
          { r with charge := satAdd 16 r.charge pause, cause := r.cause ||| 256 } else r } }) ∧
    (blockUp s = true → (Tbl.getD s.movers mv .reset).relocking = true → exec (.moverRelock mv pause) s = .next { s with
        movers := Tbl.put s.movers mv { Tbl.getD s.movers mv .reset with relocking := false }
        bursts := s.bursts.mapV fun _ b => if b.mover = mv.val then
          { b with charge := satAdd 16 b.charge pause, cause := b.cause ||| 256 } else b
        ports := s.ports.mapV fun p x => { x with dlvs := x.dlvs.map fun d =>
          if d.slot / 32 = mv.val ∧ !d.ready ∧ !(s.bursts.any fun e => e.2.grant == some { port := p, id := d.id }) then
            { d with events := satAdd 16 d.events pause, cause := d.cause ||| 256 } else d } })

/-! Late joining and the Causeway's links. -/

/-- Training of a port with no JOIN_RETRY on it (R66, R100, R416, R417, R427). Trained, it takes what the identity exchange
brought, SEQ 0 and full credits, and is MISMATCH, UP_NO_ID, UP_WITHY or UP by R417. A first attempt of S4 that fails is made
again; any other leaves it DOWN and dark with a LINK_DOWN cause. S4 exits once no port trains. A port that carries flits and is
not training exchanges identities again.
Signals and timers of a port (R66, R418, R427): CW_OE_FAULT while the port carries nothing darkens it, and ends its training with
FAILED for the JOIN_RETRY that waits on it; the laser comes
after the engine; CW_LOS is kept, and a bit set arms one more attempt; a DOWN port with an engine, no fault and light on all
Wisps for 10 ms makes one; T_LINK of an UP port is measured again. -/
def Obligations.PortsTrainAndSignal : Prop :=
   (∀ (p : Fin 32) (res : PortTrain) (s : State) (x : CPort), blockUp s = true → cport s p = x → x.state = 2 →
      retryAttempts s false p = none →
      let leaves := fun t => t = { s with
          cw := { s.cw with ports := t.cw.ports }
          bring := { s.bring with s4Exited := t.bring.s4Exited }
          peat := t.peat
          irq := { s.irq with groups := t.irq.groups } } ∧ (∀ q, q ≠ p.val → cport t q = cport s q) ∧
          t.bring.s4Exited = (s.bring.s4Exited || (s.bring.stage == 4 && !t.cw.ports.any fun e => e.2.state == 2))
      (res.ok = true → Completes (.portTrainDone p res) s fun t => leaves t ∧
        let bothValid := s.cw.idValid = true ∧ res.farValid = true
        cport t p = { x with
          farPort := res.farPort.toNat, farId := some res.farId.toNat, farValid := res.farValid, farEnc := res.farEnc
          tlink := res.tlink, txSeq := 0, rxSeq := 0, replay := [], wanted := none, retries := 0, credits := [128, 128, 128, 128]
          owed := [0, 0, 0, 0], laserEn := true, clocked := true, los := 0
          state := (cport t p).state } ∧
        ((pentry s p).enc ≠ res.farEnc ∨ bothValid ∧ res.farId.toNat = s.cw.deviceId → (cport t p).state = 6) ∧
        ((pentry s p).enc = res.farEnc → ¬ bothValid → (cport t p).state = 3) ∧
        ((pentry s p).enc = res.farEnc → bothValid → res.farId.toNat ≠ s.cw.deviceId →
          (cport t p).state = if isWithy s p then 5 else 4)) ∧
      (∀ c, (c = .portTrainTimeout p ∨ c = .portTrainDone p res ∧ res.ok = false) →
        (x.attempts = 1 → s.bring.stage = 4 → s.bring.s4Exited = false → exec c s = .next { s with cw := { s.cw with
          ports := Tbl.put s.cw.ports p { x with state := 2, oeEn := true, laserEn := false, attempts := 2, armed := false } } }) ∧
        (x.attempts ≠ 1 ∨ s.bring.stage ≠ 4 ∨ s.bring.s4Exited = true → Completes c s fun t => leaves t ∧
          cport t p = { x with state := 1, oeEn := false, laserEn := false } ∧
          ∀ g, s.irq.groups[5]? = some g → ∃ g', t.irq.groups[5]? = some g' ∧ g'.cause.getLsbD p = true))) ∧
   (∀ (p : Fin 32) (res : PortTrain) (s : State) (x : CPort), blockUp s = true → cport s p = x → x.state ≠ 2 →
      (∀ c, (c = .portTrainTimeout p ∨ c = .portTrainDone p res ∧ (res.ok = false ∨ carriesFlits s p = false)) → exec c s = .next s) ∧
      (res.ok = true → carriesFlits s p = true → Completes (.portTrainDone p res) s fun t =>
        cport t p = { x with farId := some res.farId.toNat, farValid := res.farValid, farEnc := res.farEnc, state := (cport t p).state } ∧
        (x.state = 5 → (cport t p).state = 5) ∧
        (x.state = 3 ∨ x.state = 4 ∨ x.state = 6 →
          (cport t p).state = identityState s p { x with farId := some res.farId.toNat, farValid := res.farValid, farEnc := res.farEnc }) ∧
        (∀ q, q ≠ p.val → cport t q = cport s q) ∧
        t = { s with cw := { s.cw with ports := t.cw.ports }, peat := t.peat, irq := { s.irq with groups := t.irq.groups } })) ∧
   (∀ (p : Fin 32) (los : BitVec 8) (tl : Word32) (s : State) (x : CPort), cport s p = x →
      let put := fun y => { s with cw := { s.cw with ports := Tbl.put s.cw.ports p y } }
      (exec (.cwOeFault p true) s = .next (put { x with faultN := true })) ∧
      (blockUp s = false ∨ x.faultN = false → exec (.cwOeFault p false) s = .next (put { x with faultN := false })) ∧
      (blockUp s = true → x.faultN = true → carriesFlits s p = false → x.state ≠ 2 → Completes (.cwOeFault p false) s fun t =>
        cport t p = { x with faultN := false, oeEn := false, laserEn := false } ∧
          t = { s with cw := { s.cw with ports := t.cw.ports } } ∧ ∀ q, q ≠ p.val → cport t q = cport s q) ∧
      (blockUp s = true → x.faultN = true → x.state = 2 → Completes (.cwOeFault p false) s fun t =>
        cport t p = { x with faultN := false, oeEn := false, laserEn := false, state := 1 } ∧ (∀ q, q ≠ p.val → cport t q = cport s q) ∧
        (∀ g, s.irq.groups[5]? = some g → ∃ g', t.irq.groups[5]? = some g' ∧ g'.cause.getLsbD p = true) ∧
        (∀ n (m : Fin 8) (b : Mbox), retryAttempts s false p = some n → s.mbox[m.val]? = some b → b.busy = true → b.wait = .joinPort p n →
          Answered m b (okStatus b.clamps) 1 1 t) ∧
        t = { s with cw := { s.cw with ports := t.cw.ports }, bring := { s.bring with s4Exited := t.bring.s4Exited }, peat := t.peat
                     irq := { s.irq with groups := t.irq.groups }, mbox := t.mbox, counters := t.counters, inject := t.inject
                     freeTick := t.freeTick }) ∧
      (carriesFlits s p = false → exec (.lossOfSignal p) s = .next (put { x with los := 0xFF, armed := true })) ∧
      (blockUp s = true → x.oeEn = true → x.faultN = true → exec (.laserEnable p) s = .next (put { x with laserEn := true })) ∧
      (exec (.cwLosChange p los) s = .next (put { x with los := los, armed := x.armed || los != 0 })) ∧
      (cwTakes s p = true → inService s = true → hasEngine s p = true → x.faultN = true → x.state ≤ 1 → x.los = 0 → x.armed = true →
        exec (.lightWatchExpiry p) s =
          .next (put { x with state := 2, oeEn := true, laserEn := false, attempts := 1, armed := false })) ∧
      (x.armed = false → exec (.lightWatchExpiry p) s = .next s) ∧
      (cwTakes s p = true → x.state = 4 → exec (.tlinkMeasure p tl) s = .next (put { x with tlink := tl })))

/-- JOIN_RETRY that needs no attempt, or begins one (R66, R105 to R108): a stack in service answers IN_SERVICE, one whose
STK_CATTRIP is high HELD, in S3 it waits, and else its training begins; a port without engine answers ABSENT, a trained one
IN_SERVICE, one whose engine reports a fault HELD, one that trains already is waited for, and else it begins to train, engine on
and laser off.
JOIN_RETRY ends with its unit's training (R51, R106, R107): a stack that trains, in Boardwalk or S5, joins at the rate of its
stage and the waiting command answers JOINED; after a first failure a second attempt is made; a second failure answers
FAILED, and the stack is out of service. An attempt in which STK_CATTRIP rose fails. -/
def Obligations.JoinRetries : Prop :=
   (let unit := fun (c : Cmd) => c.fld 8 8
    let idle := fun (s : State) (c : Cmd) => s.bring.stage ≠ 3 ∧ (stackAt s (unit c)).state ≠ 1
    let joins := fun (s : State) (c : Cmd) => hasEngine s (unit c) = true ∧ (cport s (unit c)).state < 3
    CarriesOut .joinRetryStack specJoinRetryStack (fun s c => s.bring.stage ≠ 3 ∧ (stackAt s (unit c)).state = 1)
      noEffect (fun _ _ => 1) (fun _ _ => 4) ∧
    CarriesOut .joinRetryStack specJoinRetryStack (fun s c => idle s c ∧ (stackAt s (unit c)).cattrip = true)
      (fun s c => unitNoted 4 1 (unit c) 0 0 s) (fun _ _ => 1) (fun _ _ => 3) ∧
    Suspends .joinRetryStack specJoinRetryStack (fun s _ => s.bring.stage = 3) noEffect (fun _ c => .joinStack (unit c) 0) ∧
    Suspends .joinRetryStack specJoinRetryStack (fun s c => idle s c ∧ (stackAt s (unit c)).cattrip = false)
      (fun s c => { s with stackTbl := Tbl.put s.stackTbl (unit c) { stackAt s (unit c) with tripped := false } })
      (fun _ c => .joinStack (unit c) 0) ∧
    CarriesOut .joinRetryPort specJoinRetryPort (fun s c => hasEngine s (unit c) = false) noEffect (fun _ _ => 1) (fun _ _ => 2) ∧
    CarriesOut .joinRetryPort specJoinRetryPort (fun s c => hasEngine s (unit c) = true ∧ 3 ≤ (cport s (unit c)).state)
      noEffect (fun _ _ => 1) (fun _ _ => 4) ∧
    CarriesOut .joinRetryPort specJoinRetryPort (fun s c => joins s c ∧ (cport s (unit c)).faultN = false)
      (fun s c => unitNoted 4 2 (unit c) 0 0 s) (fun _ _ => 1) (fun _ _ => 3) ∧
    Suspends .joinRetryPort specJoinRetryPort
      (fun s c => joins s c ∧ (cport s (unit c)).faultN = true ∧ (cport s (unit c)).state = 2) noEffect (fun _ c => .joinPort (unit c) 0) ∧
    Suspends .joinRetryPort specJoinRetryPort
      (fun s c => joins s c ∧ (cport s (unit c)).faultN = true ∧ (cport s (unit c)).state ≠ 2)
      (fun s c => { s with cw := { s.cw with ports := Tbl.put s.cw.ports (unit c) { cport s (unit c) with
        state := 2, oeEn := true, laserEn := false, attempts := 1, armed := false } } })
      (fun _ c => .joinPort (unit c) 0)) ∧
   (∀ (k : Fin 24) (m : Fin 8) (n cap : Nat) (results : List Word32) (s : State) (b : Mbox), inService s = true → s.bring.stage ≠ 3 →
      s.mbox[m.val]? = some b → b.busy = true → b.wait = .joinStack k n → m.val < 8 → s.mbox.length = 8 →
      (∀ i x, i ≠ m.val → s.mbox[i]? = some x → x.busy = true → ∀ j, x.wait ≠ .joinStack k j) →
      let trains := .stackTrainAttemptDone k true ⟨cap, results⟩
      let clear := (stackAt s k).tripped = false ∧ (stackAt s k).cattrip = false ∧ 0 < cap
      (clear → Completes trains s fun t => Answered m b (okStatus b.clamps) 1 0 t ∧
        stackAt t k = { stackAt s k with
          state := 1, rate := if s.bring.stage = 5 then fullRate s k else 0, switching := none, training := results
          capGiB := if (stackAt s k).capGiB = 0 then min cap 64 else (stackAt s k).capGiB } ∧
        t.bring.ctxStack = some (s.bring.ctxStack.getD k)) ∧
      ∀ c, (c = .stackTrainAttemptDone k false ⟨cap, results⟩ ∨ c = .stackTrainTimeout k ∨ c = trains ∧ ¬ clear) →
        (n = 0 → exec c s = .next { s with
          mbox := s.mbox.set m { b with wait := .joinStack k 1 }
          stackTbl := Tbl.put s.stackTbl k { stackAt s k with tripped := false } }) ∧
        (n = 1 → Completes c s fun t => Answered m b (okStatus b.clamps) 1 1 t ∧
          stackAt t k = { stackAt s k with state := 3, tripped := false } ∧ t.bring = s.bring))

/-- A link that is lost (R46, R66, R423, R426, R428): by an engine fault, by light lost on every Wisp, or by a replay that came to
nothing, a port that carries flits goes DOWN, dark and empty, with a LINK_DOWN record of its reason and its cause.
Where no port has flits waiting, other ports keep all but the way of packets that went out by it. -/
def Obligations.LinksAreLost : Prop :=
  ∀ (p : Fin 32) (c : Instr) (reason : Nat) (s : State) (x : CPort), cport s p = x → carriesFlits s p = true → blockUp s = true →
    (∀ q, (cport s q).txq = []) →
    (c = .cwOeFault p false ∧ x.faultN = true ∧ reason = 2 ∨ c = .lossOfSignal p ∧ reason = 1 ∨
      c = .replayExhausted p ∧ cwTakes s p = true ∧ mayExhaust x = true ∧ reason = 3) →
      Completes c s fun t =>
        (cport t p).state = 1 ∧ (cport t p).armed = true ∧ (cport t p).replay = [] ∧ (cport t p).fwd = [] ∧ (cport t p).inq = [] ∧
        (cport t p).txq = [] ∧ (cport t p).wanted = none ∧ (cport t p).tags = x.tags ∧
        (cport t p).oeEn = false ∧ (cport t p).laserEn = false ∧
        (∀ q, q ≠ p.val → Tbl.has s.cw.ports q = true → cport t q = { cport s q with
          via := (cport s q).via.map fun v => if v = some p.val then none else v }) ∧
        t.peat = (s.peat.offer none
          (linkRec { s with cw := { s.cw with ports := Tbl.put s.cw.ports p (cport t p) } } false p reason)).peat ∧
        (∀ g, s.irq.groups[5]? = some g → ∃ g', t.irq.groups[5]? = some g' ∧ g'.cause.getLsbD p = true) ∧
        t = { s with cw := { s.cw with ports := t.cw.ports }, peat := t.peat, irq := { s.irq with groups := t.irq.groups } }

/-- Acknowledging, asking again and sending again (R420, R421): with no flit sent for 64 cycles an acknowledgement goes out
where one is due; an unanswered RETRY is sent once more, up to 16 times, for the SEQ expected; a RETRY received has every
unacknowledged flit from its SEQ onward sent again, each as it was first sent, and counted. Either charges the bursts whose
packets the port carries (R258). -/
def Obligations.LinkTimersAndRetry : Prop :=
  ∀ (p : Fin 32) (seq : BitVec 12) (s : State) (x : CPort), cport s p = x → cwTakes s p = true → carriesFlits s p = true →
    let charged := fun (t : State) => ∀ i b, Tbl.get? s.bursts i = some b → Tbl.get? t.bursts i = some (
      if b.packets.any (fun g => g / 1024 == p.val) then
        { b with charge := satAdd 16 b.charge (82 + x.tlink.toNat), cause := b.cause ||| 128 } else b)
    (x.ackDue = true → Completes (.ackTimer p) s fun t => (cport t p).ackDue = false ∧ (cport t p).out.length = 1 ∧
      (∀ f ∈ (cport t p).out, flitType f = 2 ∧ flitField f 36 12 = x.rxSeq.toNat) ∧ (cport t p).replay = x.replay ∧
      (cport t p).txSeq = x.txSeq ∧ (cport t p).credits = x.credits ∧ t = { s with cw := { s.cw with ports := t.cw.ports }, counters := t.counters }) ∧
    (x.ackDue = false → exec (.ackTimer p) s = .next s) ∧
    (x.wanted.isSome = true → x.retries < 16 → Completes (.retryResendTimer p) s fun t =>
      (cport t p).retries = x.retries + 1 ∧ (cport t p).wanted = some x.rxSeq ∧ (cport t p).out.length = 1 ∧
      (cport t p).replay = x.replay ∧ charged t ∧
      t = { s with cw := { s.cw with ports := t.cw.ports }, counters := t.counters, bursts := t.bursts }) ∧
    (x.wanted = none ∨ 16 ≤ x.retries → exec (.retryResendTimer p) s = .next s) ∧
    (∀ k, k = (seq.toNat + 4096 - oldestSeq x) % 4096 →
      (k < x.replay.length → Completes (.retry p seq) s fun t => cport t p = { x with out := x.replay.drop k } ∧ charged t ∧
        counterOf t 6 p 18 = counterOf s 6 p 18 + BitVec.ofNat 64 (x.replay.length - k) ∧
        t = { s with cw := { s.cw with ports := t.cw.ports }, counters := t.counters, bursts := t.bursts }) ∧
      (x.replay.length ≤ k → exec (.retry p seq) s = .next s))

/-- Flits received (R419 to R424, R440), with no injection armed and nothing waiting to be sent: a codeword that cannot be
corrected is counted, and a RETRY asked for the SEQ expected; an unencrypted DATA flit out of order, or whose check fails, is
discarded in the same way; a good one in order for this device is accepted, and a whole packet that it ends goes on to the
quarter. A CONTROL flit whose check fails is counted and dropped; a good acknowledgement empties the replay buffer up to its SEQ. -/
def Obligations.FlitsArrive : Prop :=
  ∀ (p : Fin 32) (f : BitVec 2048) (s : State) (x : CPort), cport s p = x → cwTakes s p = true → carriesFlits s p = true →
    s.inject = [] → x.txq = [] → x.wanted = none → (pentry s p).enc = false →
    (x.state = 4 → flitType f = 1 → flitField f 32 1 = 0 →
      (∀ bad, (bad = true ∨ checkOk f = false ∨ flitField f 48 12 ≠ x.rxSeq.toNat) → Completes (.flitReceive p f bad) s fun t =>
        (cport t p).rxSeq = x.rxSeq ∧ (cport t p).wanted = some x.rxSeq ∧ (cport t p).retries = x.retries + 1 ∧
        (cport t p).inq = x.inq ∧ (cport t p).fwd = x.fwd ∧ (cport t p).asm = x.asm ∧
        t = { s with cw := { s.cw with ports := t.cw.ports }, counters := t.counters, bursts := t.bursts }) ∧
      (checkOk f = true → flitField f 48 12 = x.rxSeq.toNat → ownId s (flitDst f) = true → flitSop f = true → flitEop f = true →
        malformed [f] = false → Completes (.flitReceive p f false) s fun t =>
          (cport t p).rxSeq = x.rxSeq + 1 ∧ (cport t p).inq = x.inq ++ [packetOf [f]] ∧ (cport t p).ackDue = true ∧
          (cport t p).fwd = x.fwd ∧ (cport t p).replay = (ackTo (flitField f 36 12) x).replay ∧
          t = { s with cw := { s.cw with ports := t.cw.ports }, counters := t.counters }) ∧
      (checkOk f = true → flitField f 48 12 = x.rxSeq.toNat → ownId s (flitDst f) = false →
        Completes (.flitReceive p f false) s fun t => (cport t p).rxSeq = x.rxSeq + 1 ∧ (cport t p).fwd = x.fwd ++ [f] ∧
          (cport t p).inq = x.inq ∧ t = { s with cw := { s.cw with ports := t.cw.ports }, counters := t.counters })) ∧
    (flitType f = 2 → (∀ bad, (bad = true ∨ checkOk f = false) → exec (.controlFlit p f bad) s =
        .next (bump 6 p 6 1 (bump 6 p 17 1 s))) ∧
      (checkOk f = true → controlKind f = 0 → Completes (.controlFlit p f false) s fun t =>
        cport t p = { headerTells f x with out := [] } ∧
          t = { s with cw := { s.cw with ports := t.cw.ports }, counters := t.counters }))

/-- Forwarding (R434, R435): a flit for another device leaves its receive buffer with one hop fewer, on level 1 of its class
past a dateline, and queues at the port that its route chooses; where fewer than two hops remain, or no port of the route is
UP, the whole packet is discarded and counted. It waits while an interface on its way retrains. -/
def Obligations.FlitsForward : Prop :=
  ∀ (p out : Fin 32) (f : BitVec 2048) (rest : List (BitVec 2048)) (s : State), (cport s p).fwd = f :: rest → cwTakes s p = true →
    (forwardOpen s p f = false → exec (.flitForward p) s = .next s) ∧
    (forwardOpen s p f = true → flitSop f = true → 2 ≤ flitField f 28 4 → routeFor s (flitDst f) [flitField f 8 10, flitDst f, flitVc f] = some out.val → out ≠ p →
      (cport s out).txq = [] → (cport s out).credits.getD (flitVc (forwardedFlit s out f)) 0 = 0 →
      Completes (.flitForward p) s fun t => (cport t p).fwd = rest ∧
        (∃ q, (cport t out).txq = [q] ∧ q.fwd = true ∧ q.flit = forwardedFlit s out f) ∧
        t = { s with cw := { s.cw with ports := t.cw.ports }, counters := t.counters }) ∧
    (forwardOpen s p f = true → flitSop f = true → flitField f 28 4 < 2 ∨ routeFor s (flitDst f) [flitField f 8 10, flitDst f, flitVc f] = none →
      isRequest (packetOf [f]).op = false → Completes (.flitForward p) s fun t => (cport t p).fwd = rest ∧
      (∀ q, q ≠ p.val → cport t q = cport s q) ∧ counterOf t 6 p 1 = counterOf s 6 p 1 + 1 ∧
      t = { s with cw := { s.cw with ports := t.cw.ports }, counters := t.counters })

/-- DEVICE_ID_SET and ROUTE_SET (R417, R429 to R432): the ID is set once, and every port that is UP_NO_ID, UP or MISMATCH
repeats its identity exchange; entries of device routes, and of ports, are set as the command lists them.
LINK_QUERY (R449): the 64 bytes of a port's state; without PROBE, or with no route to the device, T_PATH is 0xFFFF_FFFF.
With a route a probe leaves and its answer, or its timeout, ends the command; an answer is kept as the path's T_PATH. -/
def Obligations.DeviceRoutesAndQueries : Prop :=
   (CarriesOut .deviceIdSet specDeviceIdSet always (fun s c => setDeviceId (c.fld 0 10) s) (fun _ _ => 0) (fun _ _ => 0) ∧
    (∀ (v : Nat) (s : State), s.cw.idValid = true → setDeviceId v s = s) ∧
    (∀ (v : Nat) (s : State), s.cw.idValid = false → let t := setDeviceId v s
      t.cw.idValid = true ∧ t.cw.deviceId = v ∧ t.cw.routes = s.cw.routes ∧ t.cw.entries = s.cw.entries ∧ t.cw.windows = s.cw.windows ∧
      (∀ p < 32, cport t p = { cport s p with state :=
        if (cport s p).state = 3 ∨ (cport s p).state = 4 ∨ (cport s p).state = 6 then identityState t p (cport s p)
        else (cport s p).state }) ∧
      t = { s with cw := t.cw, peat := t.peat, irq := { s.irq with groups := t.irq.groups } }) ∧
    CarriesOut .routeSetDevice specRouteDevice always
      (fun s c => { s with cw := { s.cw with routes := (List.range (c.fld 16 16)).foldl (fun t i =>
        Tbl.put t (c.fld 0 16 + i) ⟨c.fld (127 + 64 * i) 1 == 1, c.fld (120 + 64 * i) 4, c.fld (112 + 64 * i) 8,
          BitVec.ofNat 32 (c.fld (64 + 64 * i) 32)⟩) s.cw.routes } }) (fun _ _ => 0) (fun _ _ => 0) ∧
    CarriesOut .routeSetPort specRoutePort always
      (fun s c => (List.range (c.fld 16 16)).foldl (setEntry c.body) s) (fun _ _ => 0) (fun _ _ => 0) ∧
    ∀ (body i : Nat) (s : State), let p := fld body 0 16 + i
      let t := setEntry body s i
      pentry t p = bodyEntry body i ∧ t.cw.routes = s.cw.routes ∧ (∀ q, q ≠ p → pentry t q = pentry s q ∧ cport t q = cport s q) ∧
        ((bodyEntry body i).enc = (pentry s p).enc → (cport t p).state = (cport s p).state)) ∧
   (let result := fun (s : State) (p tpath : Nat) => let x := cport s p
      pack ([(8, linkState s p), (8, x.farPort), (16, if x.farValid then x.farId.getD 0xFFFF else 0xFFFF), (8, x.los.toNat), (1, b2n (pentry s p).txPhase),
        (1, b2n (pentry s p).enc), (6, 0), (16, 0), (32, x.tlink.toNat), (32, tpath)] ++
        [16, 17, 18, 19, 20, 21].map fun k => (64, (counterOf s 6 p k).toNat))
    CarriesOut .linkQuery specLinkQuery
      (fun s c => c.fld 16 1 = 0 ∨ routeFor s (c.fld 32 10) [s.cw.deviceId, c.fld 32 10] = none)
      noEffect (fun _ _ => 64) (fun s c => result s (c.fld 0 5) 0xFFFFFFFF) ∧
    Suspends .linkQuery specLinkQuery
      (fun s c => c.fld 16 1 = 1 ∧ (routeFor s (c.fld 32 10) [s.cw.deviceId, c.fld 32 10]).isSome = true)
      (fun s c => (queryLink c s).1) (fun _ c => .probe (c.fld 0 5) (c.fld 32 10)) ∧
    ∀ (m : Fin 8) (cycles : Word32) (p d : Nat) (s : State) (b : Mbox), s.mbox[m.val]? = some b → b.busy = true → b.wait = .probe p d →
      mgmtRuns s = true →
      Completes (.probeTimeout m) s (fun t => Answered m b (okStatus b.clamps) 64 (result s p 0xFFFFFFFF) t ∧ ButReply m s t) ∧
      (cycles.toNat ≠ 0xFFFFFFFF → Completes (.linkProbeAnswer m cycles) s fun t =>
        Answered m b (okStatus b.clamps) 64 (result s p cycles.toNat) t ∧
          ButReply m { s with cw := { s.cw with paths := Tbl.put s.cw.paths d cycles.toNat } } t))


/-! Mailbox commands. -/

/-- Commands that only ask (R145, R152, R175, R251, R300, R319, R410, R450, R473, R496 to R498, R502, R513, R519): each answers
OK with the bytes its rule lays out and changes nothing but its reply; JOB_QUERY takes the free value that stands for what is
in use of CW_SHARE, and XLATE_QUERY leaves what the reads of its walk leave. -/
def Obligations.QueriesOnlyAnswer : Prop :=
  let asks := fun (c : Fin 8 → Instr) (k : CmdSpec) (len : Nat) (res : State → Cmd → Nat) =>
    CarriesOut c k always noEffect (fun _ _ => len) res
  asks .nop specNop 0 (fun _ _ => 0) ∧
  asks .identify specIdentify 24 (fun s _ => pack [(64, identWord), (64, configStatus s), (64, fwVersion s)]) ∧
  asks .ringQuery specRingQuery 32 (fun s c => ringInfo s (c.fld 0 16)) ∧
  asks .streamQuery specStreamQuery 72 (fun s c => streamInfo s (c.fld 0 20)) ∧
  asks .tableQuery specTableQuery 80 (fun s c => tableInfo s (c.fld 0 8)) ∧
  asks .queueQuery specQueueQuery 80 (fun s c => queueInfo s (c.fld 0 16)) ∧
  asks .windowQuery specWindowQuery 72 (fun s c => windowInfo s (c.fld 0 12)) ∧
  asks .mirrorQuery specMirrorQuery 48 (fun s _ => mirrorInfo s.mirror) ∧
  asks .powerQuery specPowerQuery 64 (fun s _ => powerResult s.power (throttleOf s)) ∧
  asks .marginQuery specMarginQuery 32 (fun s c => marginResult s (c.fld 0 8)) ∧
  asks .peatStatus specPeatStatus 48 (fun s _ => pack [(32, s.peat.fill), (1, b2n s.peat.full.isSome), (1, b2n s.peat.spareUsed),
    (6, 0), (24, 0), (64, s.peat.nextSeq), (64, s.peat.appended), (64, s.peat.folds), (64, s.peat.refused), (64, s.peat.lostBacklog)]) ∧
  CarriesOut .counterRead specCounterRead (fun _ c => c.fld 24 8 ≤ 28) noEffect (fun _ c => 8 * c.fld 24 8)
    (fun s c => pack ((List.range (c.fld 24 8)).map fun i => (64, (counterOf s (c.fld 0 8) (c.fld 8 8) (c.fld 16 8 + i)).toNat))) ∧
  CarriesOut .injectQuery specInjectQuery (fun s _ => s.inject.length ≤ 16) noEffect (fun s _ => 12 * s.inject.length)
    (fun s _ => pack (s.inject.map fun a => (96, armingInfo a))) ∧
  CarriesOut .jobQuery specJobQuery always (fun s _ => freeNext s) (fun _ _ => 72) (fun s c => jobUse s (c.fld 0 8)) ∧
  ∀ env : Env,
    CarriesOut (fun m => .xlateQuery m env) (specXlateQuery env) (fun _ c => c.fld 72 2 = 2) noEffect (fun _ _ => 48)
      (fun s _ => pack ((List.range 24).flatMap fun k => [(8, (stackAt s k).capGiB), (8, (stackAt s k).state)])) ∧
    CarriesOut (fun m => .xlateQuery m env) (specXlateQuery env) (fun _ c => c.fld 72 2 ≠ 2)
      (fun s c => (askXlate env (c.fld 0 48) s).st) (fun _ _ => 32)
      (fun s c => xlateInfo (askXlate env (c.fld 0 48) s) (BitVec.ofNat 16 (c.fld 48 16)) (c.fld 0 48) (c.fld 72 2 == 1))

/-- Creating rings, streams, tables and bases (R172 to R174, R215, R216, R316 to R318, R320, R321): the number asked for, or the
lowest free one; an object with the fields of the command, empty and with no reference. A stream has its generation, is in the
context cache, and both are told to the partner. A slot's first table is generation 0; TABLE_LOAD has its result in every case. -/
def Obligations.PathObjectsAreCreated : Prop :=
  Creates .ringCreate specRingCreate (fun s c => chosen 0xFFFF (Tbl.firstFree s.rings 0 4096) (c.fld 112 16))
    (fun s c => mayCreate s c.job resRings 1)
    (fun i s c => mirrorSend (.ring i (some (BitVec.ofNat 128 c.body)) c.job) { s with
      rings := Tbl.put s.rings i {
        job := c.job, sizeLog2 := c.fld 104 5, place := c.fld 96 1 == 1, mask := BitVec.ofNat 16 (c.fld 80 16),
        vector := BitVec.ofNat 6 (c.fld 74 6), quarter := c.fld 72 2, base := c.fld 0 64, retire := 0, head := 0, tail := 0,
        state := 1, fenceWait := false, ownWait := false, reread := false, broken := false, lastError := 0, badBells := 0, resetGen := 0,
        failAddr := 0, entries := [], bells := [] } })
    8 (fun i _ _ => i) ∧
  Creates .streamAlloc specStreamAlloc (fun s c => chosen 0xFFFFFFFF (Tbl.firstFree s.streams 0 (streamBound s)) (c.fld 96 32))
    (fun s c => mayCreate s c.job resStreams 1)
    (fun i s c => mirrorSend (.stream i (some (BitVec.ofNat 128 c.body)) c.job)
      (installCtx i { s with streams := Tbl.put s.streams i (newStream c (Tbl.getD s.streamGen i 0)) }))
    8 (fun i s _ => i + Tbl.getD s.streamGen i 0 * 2 ^ 20) ∧
  (∀ (c : Cmd) (g : Nat), let x := newStream c g
    x.state = stIdle ∧ x.gen = g ∧ x.mover = 0x7F ∧ x.disable = false ∧ x.tile = 0 ∧ x.bytes = 0 ∧ x.dropped = 0 ∧ x.crc = 0xFFFFFFFF ∧
      x.weight = c.fld 24 8 ∧ x.prio = c.fld 16 8 ∧ x.paceKind = c.fld 88 8 ∧ x.paceQueue = c.fld 64 24 ∧ x.high = c.fld 48 16 ∧
      x.low = c.fld 32 16 ∧ x.job = c.job) ∧
  (let gen := fun (s : State) (i : Nat) => ((Tbl.get? s.tableGen i).map fun g => (g + 1) % 16).getD 0
   let put := fun (i : Nat) (s : State) (c : Cmd) => { s with
     tables := Tbl.put s.tables i { job := c.job, gen := gen s i, table := BitVec.ofNat 512 (c.fld 64 512), refs := 0, retiring := none },
     tableGen := Tbl.put s.tableGen i (gen s i) }
   let num := fun (s : State) (c : Cmd) => chosen 0xFF (Tbl.firstFree s.tables 0 8) (c.fld 0 8)
   (∀ i, CarriesOut .tableLoadNew specTableNew (fun s c => num s c = some i ∧ mayCreate s c.job resTables 1 = true) (put i)
     (fun _ _ => 8) (fun s c => tableResult (put i s c) i)) ∧
   Yields .tableLoadNew specTableNew (fun s c => num s c = none ∨ mayCreate s c.job resTables 1 = false) fun b _ s c t =>
     ButReply c.m s t ∧ Answered c.m b stExhausted 8 (tableResult s ((num s c).getD 0xFF)) t) ∧
  Creates .baseRegister specBaseRegister (fun s c => chosen 0 (Tbl.firstFree s.bases 1 255) (c.fld 64 8)) (fun _ _ => true)
    (fun i s c => { s with
      bases := Tbl.put s.bases i {
        job := c.job, va := c.fld 0 48, blocks := c.fld 96 32, typ := c.fld 80 4, refs := 0, released := false } })
    8 (fun i _ _ => i)

/-- Creating Mere allocations, queues, combining queues, windows and bindings (R344 to R346, R381, R382, R397, R398, R402, R403,
R437, R438): the number or run asked for, or the lowest free; an allocation's pages and a combining area read as zero; a queue is
OPEN and empty with its counters at zero; a binding takes channels of its quantiser and, for ROW_DYNAMIC, history. -/
def Obligations.SharedObjectsAreCreated : Prop :=
  (let run := fun (s : State) (c : Cmd) =>
     chosen 0xFFFFFFF ((lowestRun s (c.fld 80 17) (2 ^ (c.fld 72 5 - 12))).map (· * 4096)) (c.fld 100 28)
   let alloc := fun (c : Cmd) => ({
     pages := c.fld 80 17, job := c.job, firstCore := c.fld 54 10, coreCount := c.fld 43 11,
     perm := c.fld 41 2, withdrawing := false } : MereAlloc)
   Creates .mereAlloc specMereAlloc (fun s c => (run s c).map (· / 4096)) (fun s c => mayCreate s c.job resMere (c.fld 80 17))
     (fun p s c => mirrorSend (.mereAlloc p (c.fld 80 17) c.job (c.fld 54 10) (c.fld 43 11) (c.fld 41 2))
       (zeroPages (p * 4096) (c.fld 80 17) { s with allocs := Tbl.put s.allocs p (alloc c) })) 8 (fun p _ _ => p * 4096)) ∧
  (let may := fun (s : State) (c : Cmd) => mayCreate s c.job resQueues 1
   let num := fun (s : State) (c : Cmd) => if c.fld 32 1 = 1
     then Tbl.firstFree s.queues ((coreEntry s (c.fld 0 10)).port / 16 * 16384) 16384 else some (c.fld 48 16)
   let res := fun (i : Nat) (s : State) (_ : Cmd) => i + Tbl.getD s.queueGen i 0 * 2 ^ 16
   let put := fun (i : Nat) (s : State) (q : Queue) => { s with queues := Tbl.put s.queues i q, queueCnt := Tbl.del s.queueCnt i }
   let queue := fun (c : Cmd) => ({
     state := qOpen, combining := false, remote := c.fld 64 1 == 1, freePending := false, job := c.job,
     reader := c.fld 0 10, typ := 0, handler := 0, base := c.fld 100 28, size := 0, depth := c.fld 84 16, storm := c.fld 68 16,
     consec := 0, tailSlot := 0, slots := [], count := 0, round := 0, roundErr := 0, combined := none } : Queue)
   Creates .queueCreate specQueueCreate num may (fun i s c => put i s (queue c)) 8 res ∧
   Creates .combineCreate specCombineCreate num may (fun i s c => zeroArea (c.fld 164 28) (c.fld 147 17) (put i s { queue c with
     state := qArmed, combining := true, typ := c.fld 96 4, handler := c.fld 100 12, base := c.fld 164 28, size := c.fld 147 17,
     depth := c.fld 128 16, storm := c.fld 112 16 })) 8 res) ∧
  Creates .windowOpen specWindowOpen (fun s c => chosen 0xFFFF ((List.range 4096).find? (windowFree s)) (c.fld 240 16))
    (fun s c => mayCreate s c.job resWindows 1)
    (fun w s c => mirrorSend (.window w (some (bodyState (newWindow c w))) c.job)
      { s with cw := { s.cw with windows := Tbl.put s.cw.windows w (newWindow c w) } }) 8 (fun w _ _ => w) ∧
  (∀ (c : Cmd) (w : Nat), let x := newWindow c w
    x.state = wdOpen ∧ x.job = c.job ∧ x.space = c.fld 232 1 ∧ x.perm = c.fld 230 2 ∧ x.srcFirst = c.fld 208 10 ∧
      x.srcCount = c.fld 197 11 ∧ x.length4k = c.fld 164 28 ∧ x.base = c.fld 0 48 ∧ x.inFlight = 0 ∧ x.writesAccepted = 0 ∧
      x.bytesWritten = 0 ∧ x.readsAccepted = 0 ∧ x.nacksClosed = 0 ∧ x.nacksNoWindow = 0) ∧
  Creates .qntConfigBind specQntBind (fun _ c => some (c.fld 0 10 * 4 + c.fld 10 2))
    (fun s c => let k := quantOfCore s (c.fld 0 10)
      decide (c.fld 160 16 ≤ chanFree s k ∧ (if c.fld 94 2 = 0 then c.fld 144 16 * c.fld 96 4 else 0) ≤ historyFree s k))
    (fun i s c => mirrorSend (.binding (c.fld 0 10) (c.fld 10 2) (some (BitVec.ofNat 256 c.body)))
      { s with bindings := Tbl.put s.bindings i (newBinding s c.body) }) 0 (fun _ _ _ => 0)

/-- JOB_ADMIT, KEY_LOAD, INJECT_ARM and INJECT_DISARM (R146 to R148, R304 to R307, R499 to R501): a job is admitted under its
number where every count fits what is free; else the command ends ADMIT_REFUSED with the first short count's field and what is
free of it, or field 1 and the lowest free number, and changes nothing. A key slot takes the material given, or free values
where GENERATE is set, and MATERIAL is zeroed in the command area in every case, a refusal too; what has reached a controller
keeps the old material. At most 16 armings stand, one for a point and
unit; disarming takes that one away. Loss of signal, a thermal trip, drift and heat act as they are armed, where nothing is skipped. -/
def Obligations.JobsKeysAndArmings : Prop :=
  let asked := fun (c : Cmd) => [c.fld 208 32, c.fld 192 16, c.fld 160 32, c.fld 144 16, c.fld 112 32, c.fld 96 16, c.fld 88 8,
    c.fld 80 8, c.fld 72 8]
  (∀ j, CarriesOut .jobAdmit specJobAdmit (fun s c => jobFor s (c.fld 248 8) = some j ∧ ∀ k < 9, (asked c).getD k 0 ≤ resFree s k)
    (fun s c => mirrorSend (.job j (some (asked c))) { s with jobs := Tbl.put s.jobs j { res := asked c, releasing := false } })
    (fun _ _ => 8) (fun _ _ => j)) ∧
  (∀ k < 9, Yields .jobAdmit specJobAdmit (fun s c => (jobFor s (c.fld 248 8)).isSome ∧ resFree s k < (asked c).getD k 0 ∧
      ∀ l < k, (asked c).getD l 0 ≤ resFree s l)
    fun b _ s c t => ButReply c.m s t ∧ Answered c.m b stAdmitRefused 8 (resFree s k) t ∧ Refuses c.m (3 + k) 0xFFFF t) ∧
  Yields .jobAdmit specJobAdmit (fun s c => jobFor s (c.fld 248 8) = none)
    (fun b _ s c t => ButReply c.m s t ∧ Answered c.m b stAdmitRefused 8 (lowestJob s) t ∧ Refuses c.m 1 0xFFFF t) ∧
  (let slot := fun (s : State) (c : Cmd) => chosen 0xFF (Tbl.firstFree s.keys 1 15) (c.fld 0 8)
   let may := fun (s : State) (c : Cmd) (k : Nat) => (keySlot s k).isSome || mayCreate s c.job resKeys 1
   let kept := fun (s : State) (k : Nat) => { s.mem with reqs := s.mem.reqs.map fun q =>
     if q.key = k ∧ q.oldKey.isNone then { q with oldKey := some (material s k) } else q }
   Yields .keyLoad specKeyLoad always (fun _ _ _ c t => ∃ x, t.mbox[c.m]? = some x ∧ fld x.cmd.toNat 320 512 = 0) ∧
   (∀ k, Yields .keyLoad specKeyLoad (fun s c => slot s c = some k ∧ may s c k = true) fun b cl s c t =>
     Answered c.m b (okStatus cl) 8 k t ∧ ∃ x, ButReply c.m { s with keys := Tbl.put s.keys k x, mem := kept s k } t ∧
       x.job = ((keySlot s k).map KeySlot.job).getD c.job ∧ x.state = (if c.fld 8 2 = 1 then 2 else 1) ∧
       (c.fld 10 1 = 0 → x.lo = BitVec.ofNat 256 (c.fld 64 256)) ∧
       (c.fld 10 1 = 1 → x.lo = Config.freeBits 256 s.freeTick) ∧
       (c.fld 8 2 = 1 → x.hi = 0) ∧
       (c.fld 8 2 ≠ 1 → x.hi = if c.fld 10 1 = 1 then Config.freeBits 256 (s.freeTick + 1) else BitVec.ofNat 256 (c.fld 320 256))) ∧
   Yields .keyLoad specKeyLoad (fun s c => slot s c = none ∨ ∃ k, slot s c = some k ∧ may s c k = false)
     fun b _ s c t => ButReply c.m s t ∧ Answered c.m b stExhausted 0 0 t ∧ ∃ x, t.mbox[c.m]? = some x ∧ fld x.cmd.toNat 320 512 = 0) ∧
  (∀ (m : Fin 8) (s : State) (b : Mbox) (f e : Nat), refuses specKeyLoad m s = some (b, f, e) → cmdOp b = 0x0410 →
    Completes (.keyLoad m) s fun t => ∃ x, t.mbox[m.val]? = some x ∧ x.done = true ∧ fld x.cmd.toNat 320 512 = 0) ∧
  (let others := fun (s : State) (p u : Nat) => s.inject.filter fun x => !(x.point == p && x.unit == u)
   let arming := fun (c : Cmd) => ({
     point := c.fld 0 16, unit := c.fld 32 16, arg := BitVec.ofNat 32 (c.fld 96 32), skip := c.fld 80 16,
     times := c.fld 64 16, forever := c.fld 64 16 == 0, fired := 0, cmdSeq := c.seq } : Arming)
   EndsWith .injectArm specInjectArm (fun s c => 16 ≤ (others s (c.fld 0 16) (c.fld 32 16)).length) stExhausted ∧
   Yields .injectArm specInjectArm (fun s c => (others s (c.fld 0 16) (c.fld 32 16)).length < 16 ∧
       c.fld 0 16 ∉ [0x33, 0x37, 0x40, 0x41, 0x42] ∧ s.inject.all fun x => x.point != 0x37)
     (fun b cl s c t => ButReply c.m s t ∧ Answered c.m b (okStatus cl) 0 0 t ∧
       t.inject = others s (c.fld 0 16) (c.fld 32 16) ++ [arming c]) ∧
   (let now := fun (p : Nat) (post : State → Cmd → State → Prop) => Yields .injectArm specInjectArm (fun s c =>
       (others s (c.fld 0 16) (c.fld 32 16)).length < 16 ∧ c.fld 0 16 = p ∧ c.fld 80 16 = 0) fun b cl s c t =>
         Answered c.m b (okStatus cl) 0 0 t ∧ post s c t;
     now 0x33 (fun s c t => (cport t (c.fld 32 16)).los = 0xFF ∧ (carriesFlits s (c.fld 32 16) = true → (cport t (c.fld 32 16)).state = 1)) ∧
     now 0x40 (fun s c t => blockUp s = true → (stackAt s (c.fld 32 16)).state = 1 → (stackAt t (c.fld 32 16)).state = 2) ∧
     now 0x41 (fun s c t => t.power.driftInj = s.power.driftInj ++ [c.fld 32 16]) ∧
     now 0x42 (fun s c t => t.power.tempInj = Tbl.put s.power.tempInj (c.fld 32 16) 10)) ∧
   Yields .injectDisarm specInjectDisarm (fun s _ => s.inject.all fun x => x.point != 0x37)
     (fun b cl s c t => ButReply c.m s t ∧ Answered c.m b (okStatus cl) 0 0 t ∧ t.inject = others s (c.fld 0 16) (c.fld 32 16)))

/-- Commands that change or destroy rings, streams, tables, bases and keys (R175, R176, R217, R222, R241 to R246, R308, R316, R318,
R323): a ring leaves with its bits; freeing a stream advances its generation and ends what waits for it STALE; RESUME, ABORT and
DISABLE of a stream; a REPLACE retires the generation that is referenced, and ends RESOURCE_EXHAUSTED while one retires; a FREE
of a referenced table does too, each with its result; a base goes at once where nothing refers to it; a key slot is cleared, and
what has reached a controller keeps its material. -/
def Obligations.PathObjectsChange : Prop :=
  let ends := fun (t : State) (r pos : Nat) (p : Completion → Prop) => ∃ e c, entryOf t r pos = some e ∧ e.st = .held c ∧ p c
  CarriesOut .ringDestroy specRingDestroy always (fun s c => mirrorSend (.ring (c.fld 0 16) none 0)
    { s with rings := Tbl.del s.rings (c.fld 0 16), irq := s.irq.clearRing (c.fld 0 16) }) (fun _ _ => 0) (fun _ _ => 0) ∧
  CarriesOut .streamFree specStreamFree always (fun s c => freeStream (c.fld 0 20) s) (fun _ _ => 0) (fun _ _ => 0) ∧
  (∀ (i : Nat) (s : State) (x : Stream), Tbl.get? s.streams i = some x → let t := freeStream i s
    t.streams = Tbl.del s.streams i ∧ t.streamGen = Tbl.put s.streamGen i ((x.gen + 1) % 256) ∧
      (∀ w ∈ x.waiting, ∀ e, entryOf s w.1 w.2 = some e → e.st = .fetched ∨ e.st = .started → ends t w.1 w.2 fun c => c.status = stStale) ∧
      (x.waiting = [] → t.rings = s.rings)) ∧
  CarriesOut .streamResume specStreamResume
    (fun s c => (Tbl.get? s.streams (c.fld 0 20)).map Stream.state = some stHalted)
    (fun s c => let q := ((Tbl.get? s.streams (c.fld 0 20)).map Stream.quarter).getD 0
      { s with
        streams := Tbl.upd s.streams (c.fld 0 20) fun x =>
          { x with state := stQueued, haltStatus := 0, faultAddr := 0, faultDir := false, part := false }
        admission := Tbl.put s.admission q (Tbl.getD s.admission q [] ++ [c.fld 0 20]) }) (fun _ _ => 1) (fun _ _ => 0) ∧
  CarriesOut .streamAbort specStreamAbort
    (fun s c => (Tbl.get? s.streams (c.fld 0 20)).map Stream.state = some stHalted)
    (fun s c => (abortStream (c.fld 0 20) s).1) (fun _ _ => 1) (fun _ _ => 0) ∧
  (∀ k : CmdSpec, ∀ c, (k, c) ∈ [(specStreamResume, Instr.streamResume), (specStreamAbort, .streamAbort)] →
    CarriesOut c k (fun s x => (Tbl.get? s.streams (x.fld 0 20)).map Stream.state ≠ some stHalted) noEffect (fun _ _ => 1) (fun _ _ => 1)) ∧
  (∀ (i : Nat) (s : State) (x : Stream) (e : RingEntry), Tbl.get? s.streams i = some x → entryOf s x.ring x.entryPos = some e →
    e.st = .started ∨ (∃ c, e.st = .held c) →
    (e.st = .started → x.state = stHalted → let t := (abortStream i s).1
      Tbl.get? t.streams i = some (toIdle x) ∧ ends t x.ring x.entryPos fun c => c.status = x.haltStatus ∧ c.mover = x.mover ∧
        c.faultValid = (x.haltStatus != stScaleInvalid)) ∧
    (2 ≤ x.state → x.state ≤ 4 → let t := disableStream i s
      (∃ y, Tbl.get? t.streams i = some y ∧ y.disable = true ∧ y.state = stIdle ∧ y.slot = none ∧ y.haltStatus = 0) ∧
        ends t x.ring x.entryPos fun c => c.status = stDisabled ∧ c.faultValid = false)) ∧
  CarriesOut .streamDisableSet specStreamDisableSet always (fun s c => disableStream (c.fld 0 20) s) (fun _ _ => 1)
    (fun s c => disableResult s (c.fld 0 20)) ∧
  (∀ (i : Nat) (s : State) (x : Stream), Tbl.get? s.streams i = some x → ¬(2 ≤ x.state ∧ x.state ≤ 4) →
    Tbl.get? (disableStream i s).streams i = some { x with disable := true } ∧ (disableStream i s).rings = s.rings) ∧
  CarriesOut .streamDisableClear specStreamDisableClear always
    (fun s c => { s with streams := Tbl.upd s.streams (c.fld 0 20) fun x => { x with disable := false } }) (fun _ _ => 1)
    (fun s c => disableResult s (c.fld 0 20)) ∧
  (∀ x : TblSlot, x.retiring = none →
    let put := fun (s : State) (c : Cmd) => { s with
      tables := Tbl.put s.tables (c.fld 0 8) { x with gen := (x.gen + 1) % 16, table := BitVec.ofNat 512 (c.fld 64 512), refs := 0,
                                                      retiring := if x.refs = 0 then none else some ⟨x.gen, x.table, x.refs, c.seq⟩ }
      tableGen := Tbl.put s.tableGen (c.fld 0 8) ((x.gen + 1) % 16) }
    CarriesOut .tableLoadReplace specTableReplace (fun s c => Tbl.get? s.tables (c.fld 0 8) = some x) put (fun _ _ => 8)
      (fun s c => tableResult (put s c) (c.fld 0 8))) ∧
  Yields .tableLoadReplace specTableReplace (fun s c => ((Tbl.get? s.tables (c.fld 0 8)).bind TblSlot.retiring).isSome)
    (fun b _ s c t => ButReply c.m s t ∧ Answered c.m b stExhausted 8 (tableResult s (c.fld 0 8)) t) ∧
  (∀ x : TblSlot,
    (x.refs = 0 → (x.retiring.map Retiring.refs).getD 0 = 0 →
      CarriesOut .tableLoadFree specTableFree (fun s c => Tbl.get? s.tables (c.fld 0 8) = some x)
        (fun s c => { s with tables := Tbl.del s.tables (c.fld 0 8) }) (fun _ _ => 8)
        (fun s c => tableResult { s with tables := Tbl.del s.tables (c.fld 0 8) } (c.fld 0 8))) ∧
    (x.refs ≠ 0 ∨ (x.retiring.map Retiring.refs).getD 0 ≠ 0 →
      Yields .tableLoadFree specTableFree (fun s c => Tbl.get? s.tables (c.fld 0 8) = some x)
        (fun b _ s c t => ButReply c.m s t ∧ Answered c.m b stExhausted 8 (tableResult s (c.fld 0 8)) t))) ∧
  (∀ x : Base, let mark := fun (s : State) (c : Cmd) => Tbl.put s.bases (c.fld 0 8) { x with released := true }
    CarriesOut .baseRelease specBaseRelease (fun s c => Tbl.get? s.bases (c.fld 0 8) = some x)
      (fun s c => if x.refs = 0 then { s with
          bases := Tbl.del (mark s c) (c.fld 0 8)
          expanders := s.expanders.mapV fun _ y => { y with cache := y.cache.filter fun l => l.base != c.fld 0 8 } }
        else { s with bases := mark s c }) (fun _ _ => 4) (fun _ _ => x.refs)) ∧
  CarriesOut .keyClear specKeyClear always (fun s c => let k := c.fld 0 8
    { s with
      keys := Tbl.del s.keys k
      mem := { s.mem with reqs := s.mem.reqs.map fun q => if q.key = k ∧ q.oldKey.isNone then { q with oldKey := some (material s k) } else q } })
    (fun _ _ => 0) (fun _ _ => 0)

/-- Commands on the core map, quantisers, queues, windows, the pair and power (R59, R60, R345, R346, R361, R370 to R372, R399, R400,
R445, R446, R457 to R459, R468, R469, R472, R505, R506, R520): cores and their credits as declared; scale registers loaded from
the Mere, or a status where a row of it cannot be read; statistics answered, written and cleared as asked; a queue closed or
its reader reset; a window closing; a pair made, promoted, and ended once the mirrored jobs are released; the profile confirmed; a
plan made, DONE once its offsets have been reached. -/
def Obligations.SharedObjectsChange : Prop :=
  let key := fun (c : Cmd) => c.fld 0 10 * 4 + c.fld 10 2
  CarriesOut .corePortMap specCorePortMap always (fun s c => declareCores c.body s) (fun _ _ => 0) (fun _ _ => 0) ∧
  (∀ (body i : Nat) (s : State), let t := declareCore body i s
    let x := bodyCore body i
    t.cores = Tbl.put s.cores (fld body 0 16 + i) x ∧ (x.present = false → t.ports = s.ports) ∧
      (x.present = true → Tbl.getD (portAt t x.port).inbox x.slot 0 = x.inbox ∧
        (∀ e < 4, Tbl.getD (portAt t x.port).credit (x.slot * 4 + e) 0 = x.opbuf) ∧ ∀ p, p ≠ x.port → portAt t p = portAt s p) ∧
      t = { s with cores := t.cores, ports := t.ports }) ∧
  CarriesOut .qntConfigUnbind specQntUnbind always (fun s c => unbind (key c) s) (fun _ _ => 0) (fun _ _ => 0) ∧
  (∀ (k : Nat) (s : State) (b : Binding), Tbl.get? s.bindings k = some b → Tbl.sorted s.bindings = true → let t := unbind k s
    let q := quantOfCore s (k / 4)
    t.bindings = Tbl.del s.bindings k ∧ counterOf t 4 q 3 = counterOf s 4 q 3 + BitVec.ofNat 64 b.heldBeats.length ∧
      t = { s with bindings := t.bindings, counters := t.counters, mirror := t.mirror }) ∧
  (∀ env : Env,
    let read := fun (s : State) (c : Cmd) => readMereSpan env 0xC 300 (c.fld 72 28) (4 * c.fld 59 13) s
    Yields (fun m => .scaleLoadLoad m env) (specScaleLoad env) (fun s c => (read s c).fail = true)
      (fun b _ s c t => ButReply c.m (read s c).st t ∧ Answered c.m b stMereUnc 0 0 t) ∧
    CarriesOut (fun m => .scaleLoadLoad m env) (specScaleLoad env) (fun s c => (read s c).fail = false)
      (fun s c => setQuant (c.fld 32 5) (fun q => putRegs { q with
        blocks := (touched (c.fld 44 12) (c.fld 59 13)).foldl (fun t b => if Tbl.has t b then t else Tbl.put t b c.job) q.blocks }
          (c.fld 44 12) (words (read s c).bytes (c.fld 59 13))) (read s c).st) (fun _ _ => 8) (fun _ c => c.fld 59 13)) ∧
  (∀ (q : Quantiser) (r : Nat) (l : List Nat), Tbl.sorted q.scales = true →
    (∀ i v, l[i]? = some v → v < 2 ^ 32 → regAt (putRegs q r l) (r + i) = v) ∧
      (∀ k, k < r ∨ r + l.length ≤ k → regAt (putRegs q r l) k = regAt q k) ∧ (putRegs q r l).blocks = q.blocks) ∧
  (let held := fun (s : State) (c : Cmd) => (wholly (c.fld 44 12) (c.fld 59 13)).filter fun b => Tbl.has (quantAt s (c.fld 32 5)).blocks b
   CarriesOut .scaleLoadRelease specScaleRelease always
     (fun s c => setQuant (c.fld 32 5) (fun q => (held s c).foldl (fun q b =>
       { q with blocks := Tbl.del q.blocks b, scales := q.scales.filter fun e => e.1 / 256 != b }) q) s)
     (fun _ _ => 8) (fun s c => (held s c).length)) ∧
  (∀ b : Binding, CarriesOut .qntStats specQntStats (fun s c => Tbl.get? s.bindings (key c) = some b)
    (fun s c =>
      let s1 := if c.fld 65 1 = 1 then mirrorWrite (.mereWrite (c.fld 72 28) (chanBytes b)) (putMere (c.fld 72 28) (chanBytes b) s) else s
      if c.fld 64 1 = 1 then { s1 with
        bindings := Tbl.put s.bindings (key c) { b with
          rows := 0, elements := 0, saturated := 0, nonfinite := 0, sideBytes := 0, scaleEntries := 0, lastAbs := 0, chan := [],
          window := 0 } } else s1)
    (fun _ _ => 56) (fun _ _ => pack [(64, b.rows), (64, b.elements), (64, b.saturated), (64, b.nonfinite), (64, b.sideBytes),
      (64, b.scaleEntries), (32, b.lastAbs.toNat), (32, 0)])) ∧
  CarriesOut .qntThreshold specQntThreshold always
    (fun s c => { s with bindings := Tbl.upd s.bindings (key c) fun b => { b with threshold := c.fld 32 32, window := 0 } })
    (fun _ _ => 0) (fun _ _ => 0) ∧
  CarriesOut .queueClose specQueueClose always (fun s c => (closeAct c s).1) (fun _ _ => 4)
    (fun s c => queueFill (closeAct c s).1 (c.fld 0 16)) ∧
  CarriesOut .queueResetReader specQueueResetReader always (fun s c => (resetAct c s).1) (fun _ _ => 8)
    (fun s c => c.fld 0 16 + queueGenOf (resetAct c s).1 (c.fld 0 16) * 2 ^ 16 + queueFill s (c.fld 0 16) * 2 ^ 32) ∧
  (∀ (n : Nat) (discard free : Bool) (s : State) (q : Queue), queueAt s n = some q → q.freePending = false →
    (free = false → ∃ y, queueAt (closeQueue n discard free s) n = some y ∧ y.state = qClosed ∧ y.freePending = false ∧
      y.slots = (if discard = true ∧ fillOfQueue q ≠ 0 then [] else q.slots) ∧
      queueGenOf (closeQueue n discard free s) n = queueGenOf s n) ∧
    (free = true → (discard = true ∨ fillOfQueue q = 0) →
      queueGenOf (closeQueue n discard free s) n = (queueGenOf s n + 1) % 256 ∧
        (Tbl.sorted s.queues = true → queueAt (closeQueue n discard free s) n = none))) ∧
  (∀ (n : Nat) (s : State) (q : Queue), queueAt s n = some q → q.freePending = false → let t := resetQueue n qcDiscarded s
    queueGenOf t n = (queueGenOf s n + 1) % 256 ∧ ∃ y, queueAt t n = some y ∧ y.state = (if q.combining then qArmed else qOpen) ∧
      fillOfQueue y = 0 ∧ y.count = 0) ∧
  (∀ x : Window,
    (x.state = wdClosed →
      CarriesOut .windowClose specWindowClose (fun s c => windowAt s (c.fld 0 12) = some x)
        (fun s c => if c.fld 16 1 = 1 then mirrorSend (.window (c.fld 0 12) none 0)
          { s with cw := { s.cw with windows := Tbl.del s.cw.windows (c.fld 0 12) } } else s)
        (fun _ _ => 8) (fun _ _ => x.landedClosing % 2 ^ 32 + x.refusedClosing % 2 ^ 32 * 2 ^ 32)) ∧
    (x.state ≠ wdClosed →
      Suspends .windowClose specWindowClose (fun s c => windowAt s (c.fld 0 12) = some x)
        (fun s c =>
          let y := { x with state := wdClosing, freeAfter := x.freeAfter || c.fld 16 1 == 1 }
          { s with cw := { s.cw with windows := Tbl.put s.cw.windows (c.fld 0 12) y } }) (fun _ c => .windowClose (c.fld 0 12)))) ∧
  EndsWith .mirrorPair specMirrorPair (fun s _ => Tbl.has s.cw.windows 4095 = true) stExhausted ∧
  CarriesOut .mirrorPair specMirrorPair (fun s _ => Tbl.has s.cw.windows 4095 = false ∧ s.mirror.role = roleSolo)
    (fun s c => setWithy (newPair c.body s) true { s with mirror := newPair c.body s }) (fun _ _ => 0) (fun _ _ => 0) ∧
  (let owed := fun (s : State) => if s.mirror.paired && decide (2 ≤ s.mirror.role) then mirroredOf s kJob else []
   CarriesOut .mirrorUnpair specMirrorUnpair (fun s _ => owed s = []) (fun s _ => (unpairAct s).1) (fun _ _ => 0) (fun _ _ => 0) ∧
   (∀ s : State, (s.mirror.paired = false → (unpairAct s).1 = s) ∧ (s.mirror.paired = true → (unpairAct s).1.mirror = .reset)) ∧
   Yields .mirrorUnpair specMirrorUnpair (fun s _ => owed s ≠ []) (fun _ _ s c t => t.mirror = .reset ∧
     (∃ x, t.mbox[c.m]? = some x ∧ (x.busy = true ∧ x.wait = .unpair (owed s) ∨
       x.done = true ∧ ∀ j ∈ owed s, Tbl.has t.jobs j = false))) ∧
   ∀ (m : Fin 8) (l : List Nat) (s : State) (b : Mbox), s.mbox[m.val]? = some b → b.busy = true → b.wait = .unpair l → mgmtRuns s = true →
     (∀ j ∈ l, Tbl.has s.jobs j = false) → (∀ k x, k ≠ m.val → s.mbox[k]? = some x → x.wait ≠ .unpair l) →
       Completes (.mirrorUnpair m) s fun t => Answered m b (okStatus b.clamps) 0 0 t ∧ ButReply m s t) ∧
  EndsWith .mirrorPromote specMirrorPromote (fun s _ => maxEpoch s = true) stExhausted ∧
  CarriesOut .mirrorPromote specMirrorPromote (fun s _ => maxEpoch s = false ∧ s.mirror.role = rolePrimary)
    (fun s c => { s with mirror := { s.mirror with epoch := BitVec.ofNat 32 (c.fld 0 32) } }) (fun _ _ => 8)
    (fun s c => pack [(32, c.fld 0 32), (8, s.mirror.role)]) ∧
  CarriesOut .mirrorPromote specMirrorPromote (fun s _ => maxEpoch s = false ∧ s.mirror.role ≠ rolePrimary)
    (fun s c => { takeOver s with mirror := { detach s.mirror with
      role := rolePrimary, epoch := BitVec.ofNat 32 (c.fld 0 32), mirrored := [] } }) (fun _ _ => 8)
    (fun s c => pack [(32, c.fld 0 32), (8, s.mirror.role)]) ∧
  (let watts := fun (c : Cmd) => if c.fld 16 16 = 0 then profileCap (c.fld 0 2) else c.fld 16 16
   let set := fun (s : State) (c : Cmd) => { s with power := { s.power with profile := c.fld 0 2, capW := watts c, confirmed := true } }
   CarriesOut .coolConfirm specCoolConfirm always
     (fun s c => if s.bring.stage = 5 then askSwitch { set s c with
       power := { (set s c).power with pinRate := profileRate (c.fld 0 2) } } else set s c)
     (fun _ _ => 8) (fun _ c => pack [(16, watts c), (8, c.fld 0 2)])) ∧
  CarriesOut .marginReplan specMarginReplan (fun s _ => planDone (makePlan 3 s) = true) (fun s _ => makePlan 3 s) (fun _ _ => 8)
    (fun s _ => planResult (makePlan 3 s)) ∧
  Suspends .marginReplan specMarginReplan (fun s _ => planDone (makePlan 3 s) = false) (fun s _ => makePlan 3 s)
    (fun s _ => .replan (planResult (makePlan 3 s)))

/-- Withdrawals (R274 to R276, R280, R293 to R299, R383): RANGE_MAP, RANGE_UNMAP, PAGE_ROOT_SET, WITHDRAW and MERE_FREE drop what the
buffers hold of the span, and end at once where no tile in flight uses it, with its effect made; else they wait for the movers
whose tiles drain, the entry or allocation marked from the start, and the last acknowledgement ends them. RANGE_MAP ends OVERLAP,
naming the entry, where spans overlap, and RESOURCE_EXHAUSTED where no entry is free or the job has its share. -/
def Obligations.WithdrawalsDrain : Prop :=
  let fresh := fun (s : State) => ∀ x ∈ s.xlate.wds, x.id ≠ s.xlate.nextWd
  let quiet := fun (s : State) (w : Wd) => drainList s w = [] ∧ coreDrains s w = false
  let gone := fun (s : State) (w : Wd) (t : State) => match w.kind with
    | .mere _ => t.movers = s.movers ∧ t.xlate.q = s.xlate.q
    | _ => (∀ m, (moverAt t m).lab = labDrop (moverAt s m).lab (w.va / 4096) w.pages w.domain (wdRange w.kind)) ∧
        ∀ q, (quarterX t q).lab2 = labDrop (quarterX s q).lab2 (w.va / 4096) w.pages w.domain (wdRange w.kind)
  let frame := fun (s t : State) => t = { s with
    mbox := t.mbox, irq := { s.irq with groups := t.irq.groups }, peat := t.peat, counters := t.counters, inject := t.inject,
    freeTick := t.freeTick, xlate := t.xlate, movers := t.movers, slots := t.slots, mirror := t.mirror, allocs := t.allocs, mem := t.mem }
  let waits := fun (s : State) (c : Cmd) (w : Wd) (t : State) => gone s w t ∧ frame s t ∧
    (∃ x, t.mbox[c.m]? = some x ∧ x.busy = true ∧ x.wait = .withdrawal s.xlate.nextWd) ∧
    ∃ x, t.xlate.wds = s.xlate.wds ++ [x] ∧ x.id = s.xlate.nextWd ∧ x.kind = w.kind ∧ x.drained = drainList s w ∧
      x.acks = dedupe (x.drained.map fun d => d.1 / 32)
  let runs := fun (cmd : Fin 8 → Instr) (k : CmdSpec) (pre : State → Cmd → Prop) (wd : State → Cmd → Wd) (len : Nat)
      (res : State → Cmd → Nat) (held post : State → Cmd → State → Prop) =>
    Yields cmd k (fun s c => pre s c ∧ fresh s ∧ quiet s (wd s c)) (fun b cl s c t => Answered c.m b (okStatus cl) len (res s c) t ∧
      gone s (wd s c) t ∧ t.xlate.wds = s.xlate.wds ∧ frame s t ∧ post s c t) ∧
    Yields cmd k (fun s c => pre s c ∧ fresh s ∧ ¬quiet s (wd s c)) (fun _ _ s c t => waits s c (wd s c) t ∧ held s c t)
  let still := fun (s t : State) => t.xlate.ranges = s.xlate.ranges ∧ t.xlate.root = s.xlate.root ∧ t.xlate.enable = s.xlate.enable
  let asked := fun (s : State) (w : Wd) =>
    pack [(32, 0), (32, droppedBy s (w.va / 4096) w.pages w.domain (wdRange w.kind))]
  let number := fun (s : State) (c : Cmd) => chosen 0xFFFF (Tbl.firstFree s.xlate.ranges 0 1024) (c.fld 240 16)
  let range := fun (s : State) (c : Cmd) => Tbl.get? s.xlate.ranges (c.fld 0 16)
  (∀ n, runs .rangeMap specRangeMap (fun s c => number s c = some n ∧ vaClash s (bodyRange c.body) = none ∧
      paClash s (bodyRange c.body) = none ∧ mayCreate s (c.fld 228 4) resRanges 1 = true)
    (fun _ c => baseWd c (.map n (bodyRange c.body)) (c.fld 0 48) (c.fld 160 32 * 16) none) 8 (fun _ _ => n)
    (fun s c t => t.xlate.ranges = Tbl.put s.xlate.ranges n { bodyRange c.body with withdrawing := true })
    (fun s c t => t.xlate.ranges = Tbl.put s.xlate.ranges n (bodyRange c.body) ∧ t.mem = s.mem ∧ t.allocs = s.allocs)) ∧
  (∀ k, Yields .rangeMap specRangeMap (fun s c => (number s c).isSome ∧ vaClash s (bodyRange c.body) = some k)
    (fun b _ s c t => ButReply c.m s t ∧ Answered c.m b stOverlap 8 k t) ∧
   Yields .rangeMap specRangeMap (fun s c => (number s c).isSome ∧ vaClash s (bodyRange c.body) = none ∧
      paClash s (bodyRange c.body) = some k) (fun b _ s c t => ButReply c.m s t ∧ Answered c.m b stOverlap 8 (k + 0x10000) t)) ∧
  EndsWith .rangeMap specRangeMap (fun s c => vaClash s (bodyRange c.body) = none ∧
    paClash s (bodyRange c.body) = none ∧ mayCreate s (c.fld 228 4) resRanges 1 = false) stExhausted ∧
  (∀ (m : Fin 8) (s : State) (b : Mbox) (cl : List Clamp), cmdReady specRangeMap s m = true → busyBox s m = some b →
    let u := seen specRangeMap s
    opAccepted u (cmdOp b) = true → checkHeader u b = .ok cl → fld (cmdBody b) 240 16 = 0xFFFF →
    Tbl.firstFree u.xlate.ranges 0 1024 = none →
      Completes (.rangeMap m) s fun t => ButReply m u t ∧ Answered m b stExhausted 0 0 t) ∧
  (∀ r : RangeEntry, runs .rangeUnmap specRangeUnmap (fun s c => range s c = some r)
    (fun _ c => baseWd c (.unmap (c.fld 0 16)) r.va (r.length * 16) none) 8
    (fun s c => asked s (baseWd c (.unmap (c.fld 0 16)) r.va (r.length * 16) none))
    (fun s c t => t.xlate.ranges = Tbl.put s.xlate.ranges (c.fld 0 16) { r with withdrawing := true })
    (fun s c t => t.xlate.ranges = Tbl.del (Tbl.put s.xlate.ranges (c.fld 0 16) { r with withdrawing := true }) (c.fld 0 16) ∧
      t.mem = s.mem ∧ t.allocs = s.allocs)) ∧
  runs .pageRootSet specPageRootSet always
    (fun _ c => baseWd c (.root (c.fld 64 1 == 1) (c.fld 0 42) (c.fld 68 4)) 0 (2 ^ 36) none) 0 (fun _ _ => 0)
    (fun s _ t => still s t)
    (fun s c t => t.xlate.enable = (c.fld 64 1 == 1) ∧ t.xlate.root = c.fld 0 42 ∧ t.xlate.tableKey = c.fld 68 4 ∧
      t.xlate.ranges = s.xlate.ranges ∧ t.mem = s.mem ∧ t.allocs = s.allocs) ∧
  runs .withdraw specWithdraw always
    (fun _ c => baseWd c .paged (c.fld 0 48) (c.fld 64 36) (if c.job = 0 then none else some c.job)) 8
    (fun s c => asked s (baseWd c .paged (c.fld 0 48) (c.fld 64 36) (if c.job = 0 then none else some c.job)))
    (fun s _ t => still s t)
    (fun s _ t => still s t ∧ t.mem = s.mem ∧ t.allocs = s.allocs ∧ t.mirror = s.mirror) ∧
  (∀ a : MereAlloc, runs .mereFree specMereFree (fun s c => Tbl.get? s.allocs (c.fld 0 28 / 4096) = some a)
    (fun _ c => baseWd c (.mere (c.fld 0 28 / 4096)) (c.fld 0 28 / 4096 * 4096) a.pages none) 0 (fun _ _ => 0)
    (fun s c t => still s t ∧ t.allocs = Tbl.put s.allocs (c.fld 0 28 / 4096) { a with withdrawing := true } ∧ t.mem = s.mem)
    (fun s c t => let p := c.fld 0 28 / 4096
      t.allocs = Tbl.del (Tbl.put s.allocs p { a with withdrawing := true }) p ∧ t.mem = (zeroPages (p * 4096) a.pages s).mem ∧ still s t)) ∧
  ∀ (mv : Fin 96) (s : State) (w : Wd), s.xlate.wds = [w] →
    (mv.val ∉ w.acks ∨ mgmtRuns s = false → exec (.moverDrainAck mv) s = .next s) ∧
    (w.acks = [mv.val] → mgmtRuns s = true →
      (stillDrains s mv w = true → exec (.moverDrainAck mv) s = .next s) ∧
      (stillDrains s mv w = false → coreDrains s w = false → Completes (.moverDrainAck mv) s fun t => t.xlate.wds = [] ∧
        (∀ (m : Fin 8) (b : Mbox), s.mbox[m.val]? = some b → b.busy = true → b.wait = .withdrawal w.id →
          Answered m b (okStatus b.clamps) (wdResult w).1 (wdResult w).2 t) ∧
        (∀ n, w.kind = .unmap n → t.xlate.ranges = Tbl.del s.xlate.ranges n) ∧
        (∀ n r, w.kind = .map n r → t.xlate.ranges = Tbl.put s.xlate.ranges n r) ∧
        (∀ p, w.kind = .mere p → t.allocs = Tbl.del s.allocs p ∧ t.mem = (zeroPages w.va w.pages s).mem) ∧ frame s t))

/-- JOB_RELEASE and the end of a window's close (R150, R151, R446): a job that is not releasing begins to: its streams are disabled
and its rings RELEASING; the command waits while entries of its rings or windows of it remain. Once nothing of the job is left its
tables, keys and reservation go, and the command is answered. A CLOSING window with nothing in flight is CLOSED, or FREE where
that was asked, and its closes are answered with what landed and what was refused. The scale registers of a job's blocks are
zeroed with them, and what the expanders cached of its bases goes. -/
def Obligations.ReleasesAndCloses : Prop :=
  Suspends .jobRelease specJobRelease
    (fun s c => (Tbl.get? s.jobs (c.fld 0 8)).map Job.releasing = some false ∧
      releaseDrained (beginRelease (c.fld 0 8) s) (c.fld 0 8) = false)
    (fun s c => beginRelease (c.fld 0 8) s) (fun _ c => .release (c.fld 0 8)) ∧
  Suspends .jobRelease specJobRelease
    (fun s c => (Tbl.get? s.jobs (c.fld 0 8)).map Job.releasing = some true ∧ releaseDrained s (c.fld 0 8) = false)
    noEffect (fun _ c => .release (c.fld 0 8)) ∧
  (∀ (j : Nat) (s : State), let t := beginRelease j s
    t.jobs = Tbl.upd s.jobs j (fun x => { x with releasing := true }) ∧
      (∀ i x, Tbl.get? t.streams i = some x → x.job = j → x.disable = true ∧ x.state ≠ stRunning) ∧
      ∀ n r, Tbl.get? s.rings n = some r → ∃ x, Tbl.get? t.rings n = some x ∧
        x.state = (if r.job = j ∧ (r.state = 1 ∨ r.state = 3) then 4 else r.state) ∧ x.broken = r.broken) ∧
  (∀ (m : Fin 8) (j : Nat) (s : State) (b : Mbox), s.mbox[m.val]? = some b → b.busy = true → b.wait = .release j → mgmtRuns s = true →
    (releaseDrained s j = false → exec (.jobRelease m) s = .next s) ∧
    ((∀ e ∈ s.rings, e.2.job ≠ j) → (∀ e ∈ s.streams, e.2.job ≠ j) → (∀ e ∈ s.queues, e.2.job ≠ j) →
      (∀ e ∈ s.cw.windows, e.2.job ≠ j) → (∀ e ∈ s.xlate.ranges, e.2.domain ≠ j) → (∀ e ∈ s.allocs, e.2.job ≠ j) →
      s.xlate.wds = [] → Tbl.sorted s.bindings = true → (∀ k x, k ≠ m.val → s.mbox[k]? = some x → x.wait ≠ .release j) →
        Completes (.jobRelease m) s fun t => Answered m b (okStatus b.clamps) 0 0 t ∧
          ButReply m { s with
            jobs := Tbl.del s.jobs j
            keys := s.keys.filterV fun _ k => k.job != j
            tables := s.tables.filterV fun _ k => k.job != j
            bindings := s.bindings.filterV fun _ k => k.job != j
            bases := s.bases.filterV fun _ k => k.job != j
            quants := s.quants.mapV fun _ q => freeBlocks j q
            expanders := s.expanders.mapV fun _ x =>
              { x with cache := x.cache.filter fun l => !(keysOf s.bases fun b => b.job == j).contains l.base }
            mem := { s.mem with reqs := s.mem.reqs.map fun q =>
              if (keysOf s.keys fun k => k.job == j).contains q.key ∧ q.oldKey.isNone then { q with oldKey := some (material s q.key) } else q }
            mirror := t.mirror } t)) ∧
  (∀ (j r : Nat) (q : Quantiser), Tbl.sorted q.blocks = true →
    regAt (freeBlocks j q) r = if Tbl.get? q.blocks (r / 256) = some j then 0 else regAt q r) ∧
  ∀ (w : Fin 4096) (s : State) (x : Window), windowAt s w = some x →
    (x.state ≠ wdClosing ∨ x.inFlight ≠ 0 ∨ mgmtRuns s = false → exec (.windowCloseDrained w) s = .next s) ∧
    (x.state = wdClosing → x.inFlight = 0 → mgmtRuns s = true → Completes (.windowCloseDrained w) s fun t =>
      t.cw.windows = (let put := Tbl.put s.cw.windows w { x with state := wdClosed }
        if x.freeAfter then Tbl.del put w else put) ∧
      (∀ (m : Fin 8) (b : Mbox), s.mbox[m.val]? = some b → b.busy = true → b.wait = .windowClose w →
        Answered m b (okStatus b.clamps) 8 (closeResult x) t) ∧
      t = { s with
        cw := { s.cw with windows := t.cw.windows }, mbox := t.mbox, irq := { s.irq with groups := t.irq.groups }, peat := t.peat,
        counters := t.counters, inject := t.inject, mirror := t.mirror, freeTick := t.freeTick })

/-- FUNCTION_RESET and UNIT_WEDGED (R27, R109 to R112, R177, R248, R298, R337, R369, R388, R401, R444): where no withdrawal waits, a
reset of a function that is not resetting begins: the function's work is dropped, the rings whose entries it abandons are
RESETTING, and the command waits; one of a function that is resetting is merged with it. At the end the mark falls, abandoned
rings begin anew at the tail with RESET_GEN one higher, a failed one in ERROR unless its home movers were reset, and the commands
are answered OK, those that a management reset ended FUNCTION_RESET. -/
def Obligations.FunctionsReset : Prop :=
  let resets := fun (cmd : Fin 8 → Instr) (k : CmdSpec) (code : Nat) (fn : Nat → Fn) (post : Nat → State → State → Prop) =>
    Yields cmd k (fun s c => c.fld 0 8 = code ∧ isResetting s (fn (c.fld 8 2)) = false ∧ s.xlate.wds = []) (fun _ _ s c t =>
      (∃ r, t.resets = s.resets ++ [r] ∧ r.fn = fn (c.fld 8 2) ∧ r.mboxes = [c.m] ∧
        (∀ n x, Tbl.get? t.rings n = some x → n ∈ r.rings.map Prod.fst → x.state = 2)) ∧
      (∃ x, t.mbox[c.m]? = some x ∧ x.busy = true ∧ x.wait = .reset (fn (c.fld 8 2))) ∧ post (c.fld 8 2) s t ∧
      t.jobs = s.jobs ∧ t.keys = s.keys ∧ t.tables = s.tables ∧ t.allocs = s.allocs ∧ t.power = s.power ∧ t.wedged = s.wedged) ∧
    Suspends cmd k (fun s c => c.fld 0 8 = code ∧ isResetting s (fn (c.fld 8 2)) = true)
      (fun s c => { s with resets := s.resets.map fun r => if r.fn = fn (c.fld 8 2) then { r with mboxes := r.mboxes ++ [c.m] } else r })
      (fun _ c => .reset (fn (c.fld 8 2)))
  resets .functionResetMover specResetMover 0 (fun q => .mover (Fin.ofNat 4 q)) (fun q s t =>
    (∀ n, n / 768 = q % 4 → Tbl.get? t.slots n = none) ∧ (∀ m, m / 24 = q % 4 → (moverAt t m).lab = (moverAt s m).lab) ∧
      (∀ p, p / 16 = q % 4 → (portAt t p).greqs = [] ∧ (portAt t p).tseq = []) ∧
      ∀ n r, Tbl.get? s.rings n = some r → r.quarter = q % 4 → ∃ x, Tbl.get? t.rings n = some x ∧ x.state = 2) ∧
  resets .functionResetExpander specResetExpander 1 (fun q => .expander (Fin.ofNat 4 q)) (fun q _ t =>
    ∀ k x, k / 8 = q % 4 → Tbl.get? t.expanders k = some x → x.used = 0 ∧ x.cache = [] ∧ x.input = []) ∧
  resets .functionResetQuantiser specResetQuantiser 2 (fun q => .quantiser (Fin.ofNat 4 q)) (fun q s t =>
    (∀ k, k / 8 = q % 4 → (quantAt t k).replay = [] ∧ (quantAt t k).scales = (quantAt s k).scales) ∧
      ∀ k b, Tbl.get? t.bindings k = some b → quantOfCore s (k / 4) / 8 = q % 4 → b.held = [] ∧ b.hist = [] ∧ b.rows = 0) ∧
  resets .functionResetQueueSlice specResetSlice 3 (fun q => .slice (Fin.ofNat 4 q)) (fun q s t =>
    (Tbl.getD t.slices (q % 4) .reset).waiting = [] ∧ t.queues = s.queues ∧ t.rings = s.rings) ∧
  resets .functionResetCauseway specResetCauseway 4 (fun q => .causeway (Fin.ofNat 4 q)) (fun q s t =>
    ∀ p, p < 32 → p / 8 = q % 4 → (∀ g < 1024, Tbl.get? (cport t p).tags g = none) ∧
      (carriesFlits s p = true → (cport t p).state = 2)) ∧
  resets .functionResetTranslation specResetTranslation 8 (fun _ => .translation) (fun _ s t =>
    (∀ m, (moverAt t m).lab = []) ∧ t.xlate.q = [] ∧ t.xlate.ranges = s.xlate.ranges ∧ t.xlate.root = s.xlate.root) ∧
  resets .functionResetMere specResetMere 9 (fun _ => .mere) (fun _ _ t => ∀ r ∈ t.mem.reqs, inMere r = false) ∧
  resets .functionResetManagement specResetManagement 10 (fun _ => .management) (fun _ s t =>
    ∀ (k : Nat) (b : Mbox), s.mbox[k]? = some b → (b.busy = false → t.mbox[k]? = some Mbox.reset) ∧
      (b.busy = true → ∃ x, t.mbox[k]? = some x ∧ x.busy = true ∧ x.wait = .reset .management)) ∧
  (∀ (f : Fn) (s : State),
    (inService s = true → fnTakes s f = true → Completes (.unitWedged f) s fun t => t.wedged = s.wedged ++ [f] ∧
      fnTakes t f = false ∧ (∀ g, s.irq.groups[0]? = some g → ∃ g', t.irq.groups[0]? = some g' ∧ g'.cause.getLsbD (fnBit f) = true) ∧
      ButReports { s with wedged := s.wedged ++ [f] } t) ∧
    (inService s = false ∨ fnTakes s f = false → exec (.unitWedged f) s = .next s)) ∧
  ∀ (f : Fn) (s : State) (r : ResetRun), (s.resets.find? fun x => x.fn == f) = some r →
    (blockUp s = false → exec (.functionResetDone f) s = .next s) ∧
    (blockUp s = true → Completes (.functionResetDone f) s fun t =>
      t.resets = s.resets.filter (fun x => x.fn != f) ∧ t.wedged = s.wedged.filter (fun g => g != f) ∧
      (s.xlate.wds = [] → r.rings = [] → ∀ (m : Fin 8) (b : Mbox), s.mbox[m.val]? = some b → b.busy = true → b.wait = .reset f →
        (f ≠ .management ∨ m.val ∈ r.mboxes → Answered m b (okStatus b.clamps) 0 0 t) ∧
        (f = .management → m.val ∉ r.mboxes → Answered m b stFunctionReset 0 0 t))) ∧
    ∀ (n tail : Nat) (others : List ResetRun) (x : Ring), Tbl.get? s.rings n = some x → (∀ o ∈ others, ∀ y ∈ o.rings, y.1 ≠ n) →
      jobReleasing s x.job = false → x.entries = [] →
        let failed := x.broken && f != .mover (Fin.ofNat 4 x.quarter)
        (∃ y, Tbl.get? (abandonRing f others s (n, tail)).rings n = some y ∧ y.state = (if failed then 3 else 1) ∧ y.broken = failed ∧
          y.retire = tail ∧ y.head = tail ∧ y.entries = [] ∧ y.resetGen = (x.resetGen + 1) % 65536 ∧
          y.lastError = stFunctionReset) ∧
        (abandonRing f others s (n, tail)).irq = s.irq.setRingErr n

/-! Rings, streams and slots. -/

/-- Fetching and starting entries (R165 to R168, R156, R190, R462): the fetch reads the header, holds an entry whose OWN is 0 or that
does not lie whole before the tail, appends a whole one and moves the head past it; a failed read stops the ring, in ERROR
unless it is being released. The next
entry waits for its fence; one that a check stops completes with that check's status; one of a RELEASING ring, STREAM_DISABLED; an
empty entry, OK; any other reaches its stream's admission, with its references taken. -/
def Obligations.EntriesFetchAndStart : Prop :=
  ∀ (r : Fin 4096) (env : Env) (s : State) (x : Ring), Tbl.get? s.rings r.val = some x →
    (mayFetch s x = false → exec (.ringFetch r env) s = .next s) ∧
    (mayFetch s x = true → let h := readGranules env x x.head none 1 s
      let w0 := fld (h.granules.headD 0).toNat 0 64
      let n := fld w0 1 4 + 1
      let f := readGranules env x x.head h.row n h.st
      let put := fun (y : Ring) (t : State) => { t with rings := Tbl.put s.rings r y }
      let failed := fun a => { x with state := if x.state = 1 then 3 else x.state, broken := true, failAddr := a, reread := false }
      (∀ a, h.fail = some a → Completes (.ringFetch r env) s fun t =>
        t = { put (failed a) h.st with irq := h.st.irq.setRingErr r }) ∧
      (h.fail = none → fld w0 0 1 = 0 →
        exec (.ringFetch r env) s = .next (put { x with ownWait := true, reread := false } h.st)) ∧
      (h.fail = none → fld w0 0 1 = 1 → extSub x x.tail x.head < n →
        exec (.ringFetch r env) s = .next (put { x with ownWait := false, reread := false } h.st)) ∧
      (h.fail = none → fld w0 0 1 = 1 → n ≤ extSub x x.tail x.head → f.fail = none → Completes (.ringFetch r env) s fun t =>
        let v := fld (f.granules.headD 0).toNat 0 64
        let dest := (x.head + (fld v 1 4 + 1)) % (2 * ringSize x)
        ∃ e : RingEntry, t = put { x with entries := x.entries ++ [e], head := dest, ownWait := false } f.st ∧
          e.pos = x.head ∧ e.st = .fetched ∧ e.body = f.granules.drop 1 ∧ e.w0 = BitVec.ofNat 64 v ∧ e.granules = fld v 1 4 + 1) ∧
      (∀ a, h.fail = none → fld w0 0 1 = 1 → n ≤ extSub x x.tail x.head → f.fail = some a → Completes (.ringFetch r env) s fun t =>
        t = { put (failed a) f.st with irq := f.st.irq.setRingErr r })) ∧
    ∀ e : RingEntry, nextEntry x = some e → let w := e.w0.toNat
      let mv := x.quarter * 24 + r.val % 2
      let u := { s with rings := Tbl.put s.rings r { x with fenceWait := false } }
      (mayStart s x r = false → exec (.entryStart r) s = .next s) ∧
      (mayStart s x r = true → fld w 44 1 = 1 → fenceMet x e = false →
        exec (.entryStart r) s = .next { s with rings := Tbl.put s.rings r { x with fenceWait := true } }) ∧
      (mayStart s x r = true → (fld w 44 1 = 0 ∨ fenceMet x e = true) →
        (s.mirror.role = roleFenced → exec (.entryStart r) s = .next (settleUndef r e.pos stNackFenced mv none u)) ∧
        (s.mirror.role ≠ roleFenced → x.state = 4 → exec (.entryStart r) s = .next (settleUndef r e.pos stDisabled mv none u)) ∧
        (s.mirror.role ≠ roleFenced → x.state = 1 →
          (∀ st, entryFault u x.job e = some st → exec (.entryStart r) s = .next (settleEntry r e.pos
            { status := st, mover := mv, faultValid := false, faultDir := false, crc := 0, bytes := 0, faultAddr := 0 } u)) ∧
          (entryFault u x.job e = none → fld w 8 8 = 0 → exec (.entryStart r) s = .next (settleEntry r e.pos
            { status := stOk, mover := mv, faultValid := false, faultDir := false, crc := 0, bytes := 0, faultAddr := 0 } u)) ∧
          (∀ y, entryFault u x.job e = none → fld w 8 8 ≠ 0 → Tbl.get? s.streams (fld w 16 20) = some y →
            Completes (.entryStart r) s fun t =>
              Tbl.get? t.streams (fld w 16 20) = some { y with waiting := y.waiting ++ [(r.val, e.pos)] } ∧
              (∃ z, entryOf t r e.pos = some z ∧ z.st = .started) ∧
              (isExpand (entryDesc e) = true → t.tables = Tbl.upd s.tables (xSlot (entryDesc e)) fun k => { k with refs := k.refs + 1 }) ∧
              (isExpand (entryDesc e) = true → xBase (entryDesc e) ≠ 0 →
                t.bases = Tbl.upd s.bases (xBase (entryDesc e)) fun b => { b with refs := b.refs + 1 }) ∧
              t = { s with rings := t.rings, streams := t.streams, tables := t.tables, bases := t.bases })))

/-- Admission, contexts and slots (R220 to R226, R363): the entry at the head of an IDLE stream's queue waits while the entry before it
is not written back and while its context is read from the store; then it is answered where the stream is LOST or disabled or no
quarter takes it, or taken up: QUEUED in its quarter from its first tile. A context that the store has lost makes its stream LOST,
and ends the entry of a QUEUED one 0x22. A grant gives the stream that is served next a slot, RUNNING, once its context is cached,
and starts the feed of a QUANT_OUT entry. Admissions with no injection armed. -/
def Obligations.StreamsAreAdmitted : Prop :=
  (∀ (idx : BitVec 20) (s : State) (x : Stream) (r pos : Nat) (rest : List (Nat × Nat)), Tbl.get? s.streams idx.toNat = some x →
    x.waiting = (r, pos) :: rest → s.inject = [] →
    (inService s = false ∨ ringStopped s r = true ∨ ¬(x.state = stIdle ∨ x.state = stLost) ∨ entryHeld s idx.toNat x = true →
      exec (.streamAdmission idx) s = .next s) ∧
    (inService s = true → ringStopped s r = false → (x.state = stIdle ∨ x.state = stLost) → entryHeld s idx.toNat x = false →
      (cached s idx.toNat = false → exec (.streamAdmission idx) s = .next (if s.ctxReads.contains idx.toNat then s
        else { s with ctxReads := s.ctxReads ++ [idx.toNat] })) ∧
      (cached s idx.toNat = true → let mv := fetchMover s r
        let u := fun y => { installCtx idx.toNat s with streams := Tbl.put s.streams idx.toNat y }
        ∀ e, entryOf s r pos = some e →
          (x.state = stLost → exec (.streamAdmission idx) s = .next (settleEntry r pos
            { status := stStackUnc, mover := mv, faultValid := false, faultDir := false, crc := 0, bytes := 0, faultAddr := 0 }
            (u { x with waiting := rest }))) ∧
          (x.state = stIdle → x.disable = true →
            exec (.streamAdmission idx) s = .next (settleUndef r pos stDisabled mv none (u { x with waiting := rest }))) ∧
          (x.state = stIdle → x.disable = false → placeStream (installCtx idx.toNat s) (mv / 24) (entryDesc e) = none →
            exec (.streamAdmission idx) s = .next (settleEntry r pos
              { status := stExhausted, mover := mv, faultValid := false, faultDir := false, crc := 0, bytes := 0, faultAddr := 0 }
              (u { x with waiting := rest }))) ∧
          (∀ q, x.state = stIdle → x.disable = false → placeStream (installCtx idx.toNat s) (mv / 24) (entryDesc e) = some q →
            Completes (.streamAdmission idx) s fun t =>
              t = { u { x with
                waiting := rest, ring := r, entryPos := pos, placePos := (entryPlace s r pos).1, placeWrap := (entryPlace s r pos).2,
                ran := false, owed := [], tile := 0, cursor := { elem := 0, rows := 0 }, bytes := 0, crc := 0xFFFFFFFF,
                crcElem := 0, canon := [], desc := some (entryDesc e), fed := false, paced := false, quarter := q, state := stQueued,
                promoted := satAdd 16 x.promoted (b2n (promoted (entryDesc e))) } with
                admission := Tbl.put s.admission q (Tbl.getD s.admission q [] ++ [idx.toNat]) })))) ∧
  (∀ (idx : BitVec 20) (env : Env) (s : State),
    (inService s = false ∨ idx.toNat ∉ s.ctxReads ∨ storeOpen s idx.toNat = false → exec (.contextReadDone idx env) s = .next s) ∧
    (inService s = true → idx.toNat ∈ s.ctxReads → storeOpen s idx.toNat = true →
      let u := { s with ctxReads := s.ctxReads.filter fun k => k != idx.toNat }
      let unc := fun y : RowRead => (eccLook env (ctxSite idx.toNat 8 false) [] y.st).unc
      (ctxAddr s idx.toNat = none → exec (.contextReadDone idx env) s = .next (installCtx idx.toNat u)) ∧
      (∀ pa x, let y := readRowAt env (.stack pa 0) 8 u
        ctxAddr s idx.toNat = some pa → (y.status ≠ stOk ∨ unc y ≠ []) → Tbl.get? s.streams idx.toNat = some x →
        Completes (.contextReadDone idx env) s fun t => idx.toNat ∉ t.ctxReads ∧
          Tbl.get? t.streams idx.toNat = some { x with state := stLost } ∧
          (x.state = stQueued → (∀ q, idx.toNat ∉ Tbl.getD t.admission q []) ∧
            ∀ e, entryOf s x.ring x.entryPos = some e → e.st = .started →
              ∃ e' c, entryOf t x.ring x.entryPos = some e' ∧ e'.st = .held c ∧ c.status = stStackUnc)) ∧
      (∀ pa, let y := readRowAt env (.stack pa 0) 8 u
        ctxAddr s idx.toNat = some pa → y.status = stOk → unc y = [] →
          Completes (.contextReadDone idx env) s fun t => idx.toNat ∉ t.ctxReads ∧ t.streams = s.streams))) ∧
  ∀ (q : Fin 4) (i n : Nat) (s : State) (x : Stream) (d : Desc),
    (inService s = false ∨ fnTakes s (.mover q) = false ∨ nextAdmitted s q = none ∨ freeSlot s (bestMover s q) = none →
      exec (.slotGrant q) s = .next s) ∧
    (inService s = true → fnTakes s (.mover q) = true → nextAdmitted s q = some i → freeSlot s (bestMover s q) = some n →
      Tbl.get? s.streams i = some x → x.desc = some d →
      (cached s i = false → exec (.slotGrant q) s = .next { s with ctxReads := s.ctxReads ++ [i] }) ∧
      (cached s i = true → Completes (.slotGrant q) s fun t =>
        t.slots = Tbl.put s.slots n { stream := i, ring := x.ring, pos := x.entryPos, desc := d, cur := none, nxt := none, cursor := x.cursor,
                                      nextNum := x.tile, grant := none, grantAsked := false, creditHeld := none, creditAsked := false,
                                      pin := none, release := false, allFormed := decide (total d ≤ x.cursor.elem), failing := none } ∧
        Tbl.get? t.streams i = some { x with state := stRunning, ran := true, mover := n / 32, slot := some n, fed := true } ∧
        t.admission = Tbl.put s.admission q ((Tbl.getD s.admission q []).filter fun k => k != i) ∧
        (x.cursor.elem < total d → t.rings = s.rings) ∧
        (d.op ≠ 3 ∨ x.fed = true → t.ports = s.ports) ∧
        (∀ b c, d.op = 3 → x.fed = false → Tbl.get? s.bindings (qSource d) = some b → coreAt s (coreOf d.srcAddr) = some c →
          qFeed d = true → b.feedCount ≠ 0 → ∃ g, (portAt t c.port).greqs = (portAt s c.port).greqs ++ [g] ∧
            g.slot = feedSlot i ∧ g.stream = i ∧ g.buf = c.slot * 4 + b.feedEngine ∧ g.lines = (4 * b.feedCount + 511) / 512) ∧
        t.tables = s.tables ∧ t.bindings = s.bindings ∧ t.jobs = s.jobs ∧ t.queues = s.queues))

/-- Bursts and the end of an entry (R157, R158, R168, R179, R222, R226 to R232): at a boundary the released slots of the mover become
free, and of the eligible slots the one whose turn it is issues its next burst, with a request for every row it reads. A decided
entry's completion waits for what its entry still writes, and is written: then it is done, its stream IDLE, the retire point
passes what is done, and status and interrupt bits follow; where the write fails the ring is ERROR, unless it is being released.
With no injection armed and no mirror. -/
def Obligations.BurstsIssueAndEntriesEnd : Prop :=
  (∀ (mv : Fin 96) (s : State),
    (inService s = false ∨ fnTakes s (.mover (Fin.ofNat 4 (mv.val / 24))) = false → exec (.burstBoundary mv) s = .next s) ∧
    (inService s = true → fnTakes s (.mover (Fin.ofNat 4 (mv.val / 24))) = true → s.inject = [] →
      let u := { s with slots := s.slots.filterV fun n x => !(n / 32 == mv.val && x.release) }
      (chooseBurst u mv = none → exec (.burstBoundary mv) s = .next u) ∧
      (∀ k m x tl, chooseBurst u mv = some (k, m) → Tbl.get? u.slots (mv * 32 + k) = some x → x.cur = some tl →
        let ex := x.creditHeld.getD (expanderOf u mv x.desc)
        let es := nextElems x.desc tl
        let rq := reqList (readReq x.desc tl s.nextBurst mv) s.mem.nextReq
          ((burstReads u x.desc tl es (nextBlock x.desc tl) ex).map fun a => (a, false))
        Completes (.burstBoundary mv) s fun t => t.nextBurst = s.nextBurst + 1 ∧
          (rq ≠ [] → windowSide x.desc = none → t.mem.reqs = s.mem.reqs ++ rq ∧
            (∃ b, Tbl.get? t.bursts s.nextBurst = some b ∧ b.slot = mv * 32 + k ∧ b.stream = x.stream ∧ b.tile = tl.num ∧
              b.num = tl.bursts ∧ b.segs = nextRuns x.desc tl ∧ b.reads = rq.map MemReq.id ∧ b.fail = none) ∧
            Tbl.get? t.slots (mv * 32 + k) = some { x with
              cur := some { tl with issued := tl.issued + runsLen (nextRuns x.desc tl), bursts := tl.bursts + 1 },
              grant := none, grantAsked := false, creditHeld := none, creditAsked := false, pin := none } ∧
            t.streams = s.streams ∧ t.rings = s.rings ∧ t.ports = s.ports)))) ∧
  ∀ (r : Fin 4096) (pos : Nat) (env : Env) (s : State) (x : Ring) (e : RingEntry), Tbl.get? s.rings r.val = some x →
    entryOf s r pos = some e →
    ((∀ c, e.st ≠ .held c) ∨ inService s = false ∨ ringMemTakes s x = false ∨ ringOpen s x e.pos 1 = false →
      exec (.entryComplete r pos env) s = .next s) ∧
    (∀ c, e.st = .held c → allLanded s r e c = false → exec (.entryComplete r pos env) s = .next s) ∧
    ∀ c, e.st = .held c → inService s = true → ringMemTakes s x = true → ringOpen s x e.pos 1 = true → allLanded s r e c = true →
      mirrors s = false → syncCommit s = false →
      e.tableRef = none → e.baseRef = none → let w := writeHeader env x e c s
      let done := updEntry e.pos (fun y => { y with st := .done }) x
      (w.2 = true → Completes (.entryComplete r pos env) s fun t =>
        (∃ y, Tbl.get? t.rings r.val = some y ∧ y.state = (if x.state = 1 then 3 else x.state) ∧ y.broken = true ∧
          y.failAddr = granuleAddr x e.pos / 64 * 64 ∧ y.retire = x.retire) ∧
          (∃ e', entryOf t r e.pos = some e' ∧ e'.st = .unwritten) ∧
          t.irq = w.1.irq.setRingErr r) ∧
      (w.2 = false → Completes (.entryComplete r pos env) s fun t =>
        Tbl.get? t.rings r.val = some { retireDone done with lastError := if c.status = stOk then x.lastError else c.status } ∧
        t.irq = (let q := if fld e.w0.toNat 45 1 = 1 then w.1.irq.setRingDone r else w.1.irq
          if c.status = stOk then q else q.setRingErr r) ∧
        (∀ y, Tbl.get? s.streams (fld e.w0.toNat 16 20) = some y → y.state = stRunning → y.ring = r → y.entryPos = e.pos →
          ∃ z, Tbl.get? t.streams (fld e.w0.toNat 16 20) = some z ∧ z.state = stIdle ∧ z.slot = none ∧ z.desc = none) ∧
        t.tables = s.tables ∧ t.bases = s.bases ∧ t.jobs = s.jobs ∧ t.bindings = s.bindings)

/-! Translation, delivery, memory. -/

/-- Translating a tile (R203, R281 to R292): with its shape, its bits and all its pages answered, a tile whose accesses are all allowed
is translated, and the slot's where none is current; an access that fails, of the tile, of its indices or of its escape map, halts
the stream with its status and address, at once where no earlier tile is in work; a page that no buffer answers waits. In its
mover's turn the second level answers a page, refuses it where there is no root, or has it wait for a walk; a miss joins the walk of
its group of 16, or begins one while fewer than 64 run, below the deepest pointer kept or at the root; each table read, charged 118
cycles or from another quarter 126, goes one level down, or ends the walk with a mapping that the second level then holds, or with a
fault. With no injection armed. -/
def Obligations.TilesAreTranslated : Prop :=
  (∀ (slot : Fin 3072) (env : Env) (s : State) (x : Slot), Tbl.get? s.slots slot.val = some x → s.inject = [] →
    let up := inService s && fnTakes s (.mover (Fin.ofNat 4 (slot.val / 768))) && xlateUp s x.desc && mayTranslate x
    let f := forge env x.desc (slot / 32) (ringMask s x.ring) tileFuel (tileInWork x) s
    let g := readEscapes env x.desc (slot / 32 / 24) (ringMask s x.ring) (tileBlocks x.desc (f.tile.elems x.desc)) f.tile f.st
    let y := lookPages env (slot / 32) ((tileAccesses x.desc g.tile).flatMap vaPages) g.tile g.st
    let bad := (tileAccesses x.desc y.1).findSome? (accessFault y.2 y.1 (ringMask s x.ring))
    (up = false → exec (.tileTranslate slot env) s = .next s) ∧
    let halts := fun (e : TileFault) => x.cur = none → ∀ st, Tbl.get? s.streams x.stream = some st → st.state = stRunning →
      Completes (.tileTranslate slot env) s fun t => ∃ z, Tbl.get? t.streams x.stream = some z ∧ z.state = stHalted ∧
        z.haltStatus = e.status ∧ z.faultAddr = e.addr ∧ z.faultDir = e.write ∧ z.tile = st.tile ∧
        (∀ c, s.irq.groups[2]? = some c → st.mover < 96 → ∃ c', t.irq.groups[2]? = some c' ∧ c'.cause.getLsbD (st.mover / 24) = true)
    (up = true →
      (∀ e, metFault (tileInWork x) = some e → halts e) ∧
      (metFault (tileInWork x) = none → (∀ e, f.fault = some e → halts e) ∧
      (f.fault = none →
      (f.more = false → exec (.tileTranslate slot env) s = .next (updSlot slot (fun z => { z with nxt := some f.tile }) f.st)) ∧
      (f.more = true → (∀ e, g.fault = some e → halts e) ∧ (g.fault = none →
        (g.wait = true → exec (.tileTranslate slot env) s = .next (updSlot slot (fun z => { z with nxt := some g.tile }) g.st)) ∧
        (g.wait = false → settled y.1 = false →
          exec (.tileTranslate slot env) s = .next (updSlot slot (fun z => { z with nxt := some y.1 }) y.2)) ∧
        (g.wait = false → settled y.1 = true → bad = none → Completes (.tileTranslate slot env) s fun t =>
          ∃ z, Tbl.get? t.slots slot.val = some z ∧ (x.cur = none → z.cur = some { y.1 with translated := true } ∧ z.nxt = none) ∧
            (x.cur ≠ none → z.cur = x.cur ∧ z.nxt = some { y.1 with translated := true }) ∧
            z.cursor = y.1.next ∧ z.nextNum = y.1.num + 1 ∧ (z.allFormed = true ↔ total x.desc ≤ y.1.next.elem) ∧ t.streams = s.streams) ∧
        (∀ e, g.wait = false → settled y.1 = true → bad = some e → halts e ∧ (x.cur ≠ none →
          exec (.tileTranslate slot env) s = .next (updSlot slot (fun z => { z with nxt := some { y.1 with faulted := true } }) y.2))))))))) ∧
  (∀ (slot : Fin 3072) (s : State) (x : Slot) (page : Nat), Tbl.get? s.slots slot.val = some x → missOf x = some page → s.inject = [] →
    inService s = true → fnTakes s .translation = true → let q := slot.val / 768
      let wait := fun (t : Tile) => if t.misses.contains page then { unwait page t with walking := t.walking ++ [page] } else t
      (secondLevel s q page = .waits ∨ lookTurn s (slot / 32) = false → exec (.secondLevelLookup slot) s = .next s) ∧
      (lookTurn s (slot / 32) = true → secondLevel s q page = .miss → Completes (.secondLevelLookup slot) s fun t =>
        Tbl.get? t.slots slot.val = some { x with cur := x.cur.map wait, nxt := x.nxt.map wait } ∧
        (quarterX t q).missQ = (quarterX s q).missQ ++ [(slot.val, page)] ∧ t.movers = s.movers) ∧
      (∀ e, lookTurn s (slot / 32) = true → secondLevel s q page = .hit e → Completes (.secondLevelLookup slot) s fun t =>
        (moverAt t (slot / 32)).lab = labInstall 64 (moverAt s (slot / 32)).lab e ∧
        (∃ z, Tbl.get? t.slots slot.val = some z ∧ ∀ c, x.cur = some c → c.misses.contains page = true →
          ∃ d, z.cur = some d ∧ d.misses = c.misses.filter (fun p => p != page) ∧ ∃ k, d.xl = c.xl ++ [k] ∧ k.page = page ∧ k.src = e)) ∧
      (lookTurn s (slot / 32) = true → secondLevel s q page = .noRoot → Completes (.secondLevelLookup slot) s fun t =>
        ∃ z, Tbl.get? t.slots slot.val = some z ∧ ∀ c, x.cur = some c → c.misses.contains page = true →
          ∃ d, z.cur = some d ∧ d.misses = c.misses.filter (fun p => p != page) ∧ d.bad = c.bad ++ [(page, noRootFault)])) ∧
  (∀ (q : Fin 4) (s : State) (n page : Nat) (rest : List (Nat × Nat)), (quarterX s q).missQ = (n, page) :: rest → inService s = true →
    s.inject = [] → fnTakes s .translation = true → let x := quarterX s q
      (∀ w, walkFor x.walks page = some w → Completes (.pageWalkStart q) s fun t => (quarterX t q).missQ = rest ∧
        (∃ v ∈ (quarterX t q).walks, v.page = w.page ∧ (n, page) ∈ v.slots) ∧ (quarterX t q).walks.length = x.walks.length) ∧
      (walkFor x.walks page = none → x.walks.length < 64 → Completes (.pageWalkStart q) s fun t => (quarterX t q).missQ = rest ∧
        (∃ v, (quarterX t q).walks = x.walks ++ [v] ∧ v.page = page ∧ v.slots = [(n, page)] ∧ v.cost = 0 ∧
          (v.level, v.table) = match ptrDeepest x.ptrs page with
            | some e => (e.level - 1, e.pa)
            | none => (3, s.xlate.root)) ∧ counterOf t 2 q 2 = counterOf s 2 q 2 + 1) ∧
      (walkFor x.walks page = none → 64 ≤ x.walks.length → exec (.pageWalkStart q) s = .next s)) ∧
  ∀ (q : Fin 4) (env : Env) (evict : Option Nat) (s : State) (w : Walk),
    ((quarterX s q).walks.find? fun v => !waitsWithdrawal s v.page && tableOpen s q v) = some w →
    (inService s = false ∨ fnTakes s .translation = false → exec (.walkTableRead q env evict) s = .next s) ∧
    (inService s = true → fnTakes s .translation = true → let r := walkRead env w.page w.level w.table s
      (∀ pa, r.step = .table pa → Completes (.walkTableRead q env evict) s fun t =>
        (quarterX t q).walks = ((quarterX s q).walks.filter fun v => v != w) ++
          [{ w with level := w.level - 1, table := pa, cost := w.cost + (if w.table / stackSpan / 6 = q then 118 else 126) + r.charge,
                    cause := w.cause ||| r.cause }] ∧
        (quarterX t q).ptrs = ptrInstall (quarterX s q).ptrs { level := w.level, va := w.page / 512 ^ w.level, pa := pa }) ∧
      (∀ e, r.step = .done e → Completes (.walkTableRead q env evict) s fun t =>
        (quarterX t q).walks = ((quarterX s q).walks.filter fun v => v != w) ∧
        (quarterX t q).lab2 = l2Install (quarterX s q).lab2 e evict ∧
        (quarterX t q).missQ = (quarterX s q).missQ ++ w.slots.filter fun p => !labCovers e p.2) ∧
      (∀ x, r.step = .fault x → Completes (.walkTableRead q env evict) s fun t =>
        (quarterX t q).walks = ((quarterX s q).walks.filter fun v => v != w) ∧ (quarterX t q).lab2 = (quarterX s q).lab2 ∧
        (quarterX t q).missQ = (quarterX s q).missQ ++ w.slots.filter fun p => p.2 != w.page))

/-- Grants, credits and tokens (R22, R53 to R57, R233 to R235, R253 to R255, R261): a slot asks for the grant of its next burst; the
request whose turn it is, the first of its buffer, is granted when the buffer has room or is empty, and the fill rises by its
lines; a running stream paced by the buffer is paced at its high mark and let go at its low one. A beat takes a credit and goes on
lane 0, a second one of the cycle on lane 1; the last of a delivery carries its token and the next sequence number. A token still to come at its due time raises its buffer's bit. A credit return never lifts a count above the buffer's
size. A return beat joins its lane, is discarded and counted where R57 says, and an activation beat is held by its binding, or
discarded while the stream is disabled. Beats with no injection armed. -/
def Obligations.PortsGrantAndDeliver : Prop :=
  (∀ (slot : Fin 3072) (s : State) (x : Slot) (tl : Tile), Tbl.get? s.slots slot.val = some x → x.cur = some tl →
    (mayAskGrant s x tl = false → exec (.grantRequest slot) s = .next s) ∧
    (∀ st c, inService s = true → fnTakes s (moverFn (slot / 32)) = true → mayAskGrant s x tl = true → Tbl.get? s.streams x.stream = some st →
      coreAt s (coreOf x.desc.dstAddr) = some c → Completes (.grantRequest slot) s fun t =>
        t.slots = Tbl.put s.slots slot { x with grantAsked := true } ∧
        (∃ g, (portAt t c.port).greqs = (portAt s c.port).greqs ++ [g] ∧ g.slot = slot.val ∧ g.stream = x.stream ∧ g.gen = st.gen ∧
          g.buf = c.slot * 4 + engineOf x.desc.dstAddr ∧ g.slack = x.desc.slack ∧ g.feed = none ∧
          g.lines = ceilDiv (ceilDiv (runsLen (nextRuns x.desc tl) * dstBits x.desc) 8) 512) ∧
        (∀ p, p ≠ c.port → portAt t p = portAt s p) ∧ t = { s with slots := t.slots, ports := t.ports })) ∧
  (∀ (p buf : Fin 64) (s : State), (∀ g, nextGrant s p = some g → g.buf ≠ buf.val) → exec (.grantAnswer p buf) s = .next s) ∧
  (∀ (p buf : Fin 64) (s : State) (g : GrantReq), nextGrant s p = some g → g.buf = buf.val →
    let f := fillOf (portAt s p) buf
    (f = 0 ∨ f + g.lines ≤ bufSize s p buf) ∧ (portAt s p).greqs.find? (fun h => h.buf == buf.val) = some g ∧
    (∀ bytes, inService s = true → g.feed = some bytes → Completes (.grantAnswer p buf) s fun t =>
      fillOf (portAt t p) buf = f + g.lines ∧ (portAt t p).greqs = (portAt s p).greqs.erase g ∧
      (∃ d, (portAt t p).dlvs = (portAt s p).dlvs ++ [d] ∧ d.data = bytes ∧ d.ready = true ∧ d.buf = buf.val) ∧
      t = { s with ports := t.ports }) ∧
    (inService s = true → g.feed = none → Completes (.grantAnswer p buf) s fun t =>
      fillOf (portAt t p) buf = f + g.lines ∧ (portAt t p).greqs = (portAt s p).greqs.erase g ∧
      (∃ d, (portAt t p).dlvs = (portAt s p).dlvs ++ [d] ∧ d.id = (portAt s p).nextDlv ∧ d.buf = g.buf ∧ d.lines = g.lines ∧
        d.cuts = g.cuts ∧ d.start = portCycle s p ∧ d.slack = g.slack ∧ d.ready = false ∧ d.sent = 0) ∧
      (portAt t p).nextDlv = (portAt s p).nextDlv + 1 ∧
      (∀ z, Tbl.get? s.slots g.slot = some z → Tbl.get? t.slots g.slot = some { z with grant := some ⟨p, (portAt s p).nextDlv⟩ }) ∧
      (∀ y, Tbl.get? s.streams g.stream = some y → paceTarget s y = some (some p.val, buf.val) →
        Tbl.get? t.streams g.stream = some { y with
          paced := if min y.high (bufSize s p buf) ≤ f + g.lines then true else if f + g.lines ≤ y.low then false else y.paced }) ∧
      t = { s with ports := t.ports, slots := t.slots, streams := t.streams })) ∧
  (∀ (mv : Fin 96) (s : State) (n : Notice), (s.notices.find? fun k => k.mover == mv.val) = some n → inService s = true →
    fnTakes s (moverFn mv) = true → Completes (.fillNotice mv) s fun t => t.notices = s.notices.erase n ∧
      (∀ i y, Tbl.get? s.streams i = some y → ∃ z, Tbl.get? t.streams i = some z ∧ z = { y with paced := z.paced } ∧
        z.paced = if y.state = stRunning ∧ y.mover = mv.val ∧ paceTarget s y = some (n.port, n.target) then
          (if highMark s y (n.port, n.target) ≤ n.fill then true else if n.fill ≤ y.low then false else y.paced) else y.paced) ∧
      t = { s with notices := t.notices, streams := t.streams }) ∧
  (∀ (p buf : Fin 64) (s : State) (d : Delivery), currentDlv (portAt s p) buf = some d → s.inject = [] →
    (inService s = false ∨ beatTurn s p ≠ some buf.val → exec (.portDelivery p buf) s = .next s) ∧
    (inService s = true → beatTurn s p = some buf.val → let x := portAt s p
      let token := decide (cutSize d ≤ d.sent + min 512 (cutSize d - d.sent))
      let second := decide (x.outAt = portCycle s p ∧ x.out.length = 1)
      Completes (.portDelivery p buf) s fun t =>
        (∃ b, (portAt t p).out = (if second then x.out ++ [b] else [b]) ∧ b.lane = (if second then 1 else 0) ∧ b.kind = 0 ∧ b.core = d.buf / 4 ∧ b.sel = d.buf % 4 ∧ b.len = min 512 (cutSize d - d.sent) ∧
          b.data = d.data.take b.len ∧ b.token = token ∧ b.tseq = if token then Tbl.getD x.tseq d.buf 0 else 0) ∧
        Tbl.getD (portAt t p).credit d.buf 0 = Tbl.getD x.credit d.buf 0 - 1 ∧
        Tbl.getD (portAt t p).tseq d.buf 0 =
          (if token then (Tbl.getD x.tseq d.buf 0 + 1) % 65536 else Tbl.getD x.tseq d.buf 0) ∧
        (token = false ∨ 1 < d.cuts.length → (portAt t p).fill = x.fill ∧
          counterOf t 1 p 2 = if token && decide (0 < overrun s p d) then counterOf s 1 p 2 + 1 else counterOf s 1 p 2) ∧
        (token = true → Tbl.getD (portAt t p).lateLast d.buf false = decide (0 < overrun s p d)))) ∧
  (∀ (p : Fin 64) (s : State), inService s = true → Completes (.dueTimeCheck p) s fun t =>
    (portAt t p).dlvs = (portAt s p).dlvs.map (fun d => if dueNow s p d then { d with overdue := true } else d) ∧
    (∀ b < 64, (portAt t p).nrdy.getLsbD b = ((portAt s p).nrdy.getLsbD b || (portAt s p).dlvs.any fun d => dueNow s p d && d.buf == b)) ∧
    portAt t p = { portAt s p with dlvs := (portAt t p).dlvs, nrdy := (portAt t p).nrdy } ∧ t = { s with ports := t.ports }) ∧
  (∀ (p : Fin 64) (core : BitVec 4) (sel : BitVec 3) (cnt : BitVec 4) (s : State), inService s = true →
    let n := if cnt = 0 then 16 else cnt.toNat
    let buf := core.toNat * 4 + sel.toNat
    let x := portAt s p
    let k := min n (bufSize s p buf - Tbl.getD x.credit buf 0)
    let j := min n (inboxSize s p core.toNat - Tbl.getD x.inbox core.toNat 0)
    (sel.toNat < 4 → Completes (.creditReturn p core sel cnt) s fun t => Tbl.getD (portAt t p).credit buf 0 = Tbl.getD x.credit buf 0 + k ∧
      fillOf (portAt t p) buf = fillOf x buf - k ∧
      counterOf t 1 p 0 = (if k < n then counterOf s 1 p 0 + 1 else counterOf s 1 p 0) ∧
      t = { s with ports := t.ports, notices := t.notices, counters := t.counters }) ∧
    (sel = 4 → Completes (.creditReturn p core sel cnt) s fun t => Tbl.getD (portAt t p).inbox core.toNat 0 = Tbl.getD x.inbox core.toNat 0 + j ∧
      counterOf t 1 p 0 = (if j < n then counterOf s 1 p 0 + 1 else counterOf s 1 p 0) ∧
      t = { s with ports := t.ports, counters := t.counters }) ∧
    (4 < sel.toNat → exec (.creditReturn p core sel cnt) s = .next (bump 1 p 0 1 s))) ∧
  (∀ (p : Fin 64) (lane : Fin 2) (beat : RtnBeat) (s : State), inService s = true → s.inject = [] →
    (16 ≤ (laneOf (portAt s p) lane).length → exec (.returnBeatArrive p lane beat) s = .next (bump 1 p 1 1 s)) ∧
    ((laneOf (portAt s p) lane).length < 16 → badBeat s p beat = true → Completes (.returnBeatArrive p lane beat) s fun t =>
      counterOf t 1 p 1 = counterOf s 1 p 1 + 1 ∧ portAt t p = pulse lane (portAt s p) ∧
        t = { s with ports := t.ports, counters := t.counters }) ∧
    ((laneOf (portAt s p) lane).length < 16 → badBeat s p beat = false → Completes (.returnBeatArrive p lane beat) s fun t =>
      laneOf (portAt t p) lane = laneOf (portAt s p) lane ++ [((portAt s p).arrivals, beat)] ∧
        (portAt t p).arrivals = (portAt s p).arrivals + 1 ∧ t = { s with ports := t.ports })) ∧
  ∀ (p : Fin 64) (lane : Fin 2) (s : State) (x : RtnBeat) (k : Nat) (b : Binding), frontBeat s p lane 0 = some x → boundKey s p x = some k →
    Tbl.get? s.bindings k = some b → inService s = true → fnTakes s (quantFn (quantOf p)) = true → inOrder s p lane [0] = true →
    let off := ((Tbl.get? s.streams b.stream).map Stream.disable).getD false
    let n := (quantAt s (quantOf p)).arrivals
    (off = true → Completes (.activation p lane) s fun t => counterOf t 4 (quantOf p) 3 = counterOf s 4 (quantOf p) 3 + 1 ∧
      laneOf (portAt t p) lane = (laneOf (portAt s p) lane).drop 1 ∧ t = { s with ports := t.ports, counters := t.counters }) ∧
    (off = false → b.held.length + x.len.toNat ≤ 4096 → Completes (.activation p lane) s fun t =>
      (∃ y, Tbl.get? t.bindings k = some y ∧ y.held.length = b.held.length + x.len.toNat ∧ y.held.take b.held.length = b.held ∧
        y.heldBeats = b.heldBeats ++ [(n, x.len.toNat)] ∧ y = { b with held := y.held, heldBeats := y.heldBeats }) ∧
      laneOf (portAt t p) lane = (laneOf (portAt s p) lane).drop 1 ∧ (quantAt t (quantOf p)).arrivals = n + 1 ∧
      t = { s with ports := t.ports, bindings := t.bindings, quants := t.quants }) ∧
    (off = false → 4096 < b.held.length + x.len.toNat → exec (.activation p lane) s = .next (bump 4 (quantOf p) 4 1 s))

/-! Memory, expanders and quantisers. -/

/-- The memories serve (R18, R19, R21, R49 to R51, R208, R250, R271, R302, R309, R384 to R387, R526): a stack controller serves the
request whose turn it is, and a bank its segments in turn; the request is answered with what was read or written, under the material
that its key slot held when it arrived, and every byte that the write does not name reads as before; a write that adds reads, adds and
writes its row as one access. A stack out of service answers with bus errors; a thermal trip answers every request it holds so, and
takes it out of service. While its PHY updates a stack is idle; a refresh, or the end of an update, is counted. An idle bank checks
its next row. -/
def Obligations.MemoriesServe : Prop :=
  (∀ (k : Fin 24) (env : Env) (s : State),
    (blockUp s = false ∨ nextAtStack s k = none ∨ (stackAt s k).updating = true → exec (.stackRequest k env) s = .next s) ∧
    ∀ q, blockUp s = true → nextAtStack s k = some q →
      let answers := fun (t : State) (st : Nat) => ∀ i, ((reqOf t i).bind MemReq.res).map Prod.fst =
        if i = q.id then some st else ((reqOf s i).bind MemReq.res).map Prod.fst
      let mat := q.oldKey.getD (material s q.key)
      let row := stackRow s mat q.addr
      let merges := q.adds ≠ [] ∨ (q.merged = false ∧ (partly q.mask 32 = true ∨ partly q.mask 128 = true))
      let unc := (eccLook env (stackSite k q.addr 1) [] s).unc
      let sum := sumRow q.addTyp q.addCast q.adds row
      Completes (.stackRequest k env) s (fun t =>
        (stackAt t k).draining = drainingNow (stackAt s k).draining (((waitingAt s (.stack k) true).filter (servable s k)).length) ∧
        t.bursts = s.bursts ∧ t.slots = s.slots ∧ t.streams = s.streams ∧ t.ports = s.ports ∧ t.mem.mere = s.mem.mere ∧
        t.mem.hostOut = s.mem.hostOut) ∧
      ((stackAt s k).state ≠ 1 → Completes (.stackRequest k env) s fun t =>
        answers t (if q.write then stBusWrite else stBusRead) ∧ t.mem.stack = s.mem.stack) ∧
      ((stackAt s k).state = 1 → q.write = false → Completes (.stackRequest k env) s fun t =>
        (∃ y, reqOf t q.id = some y ∧ y.res = some (
          (if (eccLook env (stackSite k q.addr (readerOf q)) [] s).unc = [] then stOk else stStackUnc), row)) ∧
        t.mem.stack = s.mem.stack) ∧
      ((stackAt s k).state = 1 → q.write = true → merges → unc ≠ [] → Completes (.stackRequest k env) s fun t =>
        answers t stStackUnc ∧ t.mem.stack = s.mem.stack) ∧
      ((stackAt s k).state = 1 → q.write = true → q.adds = [] → ¬ merges ∨ unc = [] → Completes (.stackRequest k env) s fun t =>
        answers t stOk ∧ t.mem.stack = (putRowStack mat s.mem q.addr (blend row q.data q.mask) q.mask).stack) ∧
      ((stackAt s k).state = 1 → q.write = true → q.adds ≠ [] → unc = [] → Completes (.stackRequest k env) s fun t =>
        answers t stOk ∧ (∃ y, reqOf t q.id = some y ∧ y.sums = sum.2) ∧ t.mem.stack = (putRowStack mat s.mem q.addr sum.1 q.mask).stack)) ∧
  (∀ (k : Fin 24) (level : Bool) (s : State),
    let put := fun (x : Stack) => { s with stackTbl := Tbl.put s.stackTbl k.val x }
    (blockUp s = true → (stackAt s k).state = 1 →
      exec (.stackRefresh k) s = .next (put { stackAt s k with refreshes := (stackAt s k).refreshes + 1 }) ∧
      (level ≠ (stackAt s k).updating → exec (.dfiPhyupdReq ⟨k, level⟩) s = .next (put { stackAt s k with
        updating := level, refreshes := if level then (stackAt s k).refreshes else (stackAt s k).refreshes + 1 }))) ∧
    (blockUp s = false ∨ (stackAt s k).state ≠ 1 → exec (.stackRefresh k) s = .next s ∧ exec (.dfiPhyupdReq ⟨k, level⟩) s = .next s)) ∧
  (∀ (k : Fin 24) (level : Bool) (s : State),
    (level = false ∨ (stackAt s k).cattrip = true ∨ blockUp s = false ∨ stackWorks s k = false →
      exec (.stkCattrip k level) s = .next { s with stackTbl := Tbl.put s.stackTbl k.val { stackAt s k with cattrip := level } }) ∧
    (level = true → (stackAt s k).cattrip = false → blockUp s = true → stackWorks s k = true → Completes (.stkCattrip k level) s fun t =>
      stackAt t k = { stackAt s k with state := if (stackAt s k).state = 1 then 2 else (stackAt s k).state, tripped := true,
                                       switching := none, draining := false, updating := false, cattrip := true } ∧
      (∀ j, j ≠ k.val → stackAt t j = stackAt s j) ∧
      t.mem = { s.mem with reqs := s.mem.reqs.map fun r => if r.target = .stack k ∧ r.res = none then
        { r with res := some (if r.write then stBusWrite else stStackUnc, 0) } else r } ∧
      (∀ c, s.irq.groups[7]? = some c → ∃ d, t.irq.groups[7]? = some d ∧ d.cause.getLsbD 0 = true) ∧
      t = { s with stackTbl := t.stackTbl, mem := t.mem, irq := t.irq, peat := t.peat })) ∧
  (∀ (b : Fin 2048) (env : Env) (s : State),
    (inService s = false ∨ fnTakes s .mere = false ∨ nextAtBank s b = none → exec (.mereBankAccess b env) s = .next s) ∧
    ∀ q, inService s = true → fnTakes s .mere = true → nextAtBank s b = some q → let bad := badWords s.mem q.addr
      let row := mereRow s.mem q.addr
      let unc := fun reader => (eccLook env (mereSite q.addr reader true) bad s).unc
      let sum := sumRow q.addTyp q.addCast q.adds row
      let others := fun (t : State) => Tbl.getD t.mem.bankRr b.val 3 = q.segment ∧ t.mem.stack = s.mem.stack ∧ t.bursts = s.bursts ∧
        t.slots = s.slots ∧ t.ports = s.ports
      let written := fun (t : State) (st : Nat) (sums : List Nat) => others t ∧
        ∃ y, reqOf t q.id = some y ∧ y.res = some (st, 0) ∧ y.sums = sums
      (q.write = false → Completes (.mereBankAccess b env) s fun t => others t ∧ t.mem.mere = s.mem.mere ∧
        ∃ y, reqOf t q.id = some y ∧ y.res = some ((if unc (readerOf q) = [] then stOk else stMereUnc), row)) ∧
      (q.write = true → q.adds = [] → q.merged = true ∨ partly q.mask 32 = false ∨ unc 1 = [] →
        Completes (.mereBankAccess b env) s fun t => written t stOk [] ∧
          t.mem.mere = (putRowMere s.mem q.addr (blend row q.data q.mask) q.mask).mere) ∧
      (q.write = true → q.adds = [] → q.merged = false → partly q.mask 32 = true → unc 1 ≠ [] →
        Completes (.mereBankAccess b env) s fun t => written t stMereUnc [] ∧ t.mem.mere = s.mem.mere) ∧
      (q.write = true → q.adds ≠ [] → unc (addReader q) = [] → Completes (.mereBankAccess b env) s fun t => written t stOk sum.2 ∧
        t.mem.mere = (putRowMere s.mem q.addr sum.1 q.mask).mere) ∧
      (q.write = true → q.adds ≠ [] → unc (addReader q) ≠ [] → Completes (.mereBankAccess b env) s fun t => written t stMereUnc [] ∧
        t.mem.mere = s.mem.mere)) ∧
  ∀ (b : Fin 2048) (env : Env) (s : State),
    (inService s = false ∨ fnTakes s .mere = false ∨ (nextAtBank s b).isSome = true → exec (.patrolScrub b env) s = .next s) ∧
    (inService s = true → fnTakes s .mere = true → nextAtBank s b = none → let row := Tbl.getD s.mem.scrub b.val 0
      Completes (.patrolScrub b env) s fun t => Tbl.getD t.mem.scrub b.val 0 = (row + 1) % 2048 ∧
        counterOf t 7 (b / 512) 2 = (if row = 2047 then counterOf s 7 (b / 512) 2 + 1 else counterOf s 7 (b / 512) 2) ∧
        t.mem = { s.mem with scrub := t.mem.scrub, mereBad := t.mem.mereBad } ∧ t.bursts = s.bursts ∧ t.slots = s.slots)

/-- Rows come back (R71, R207, R208, R239, R240, R244, R250, R258, R272, R380, R404): a request's answer leaves its queue, once the link
from its target carries it, and reaches its burst, its core or its round. A row read joins what the burst holds; a row written is no
longer waited for, and its tile has landed a byte; events are charged; a failure is kept by the slot. A burst with its last row goes
to its expander, or its values are computed and written out; of rows that land in order the next goes as one lands. A row for a core
joins its read; a core's write is over with its last row; a row of a contribution that was not added marks the round. -/
def Obligations.RowsComeBack : Prop :=
  (∀ (i : Nat) (env : Env) (s : State),
    (reqOf s i = none ∨ inService s = false ∨ (∀ q, reqOf s i = some q → (q.target ≠ .host ∧ q.res = none) ∨ backOpen s q = false) →
      exec (.readResponse i env) s = .next s ∧ exec (.writeResponse i env) s = .next s) ∧
    (∀ q, reqOf s i = some q → q.write = true → exec (.readResponse i env) s = .next s) ∧
    (∀ q, reqOf s i = some q → q.write = false → exec (.writeResponse i env) s = .next s)) ∧
  (∀ (i bid : Nat) (env : Env) (s u : State) (q : MemReq) (b : Burst) (st : Nat) (row : BitVec 512) (need : Option Nat),
    reqOf s i = some q → inService s = true → backOpen s q = true → q.who = .burst bid → Tbl.sorted s.bursts = true →
    Tbl.get? s.bursts bid = some b → answerOf env q s = some (u, st, row, need) →
    (∀ e ∈ s.bursts, e.2.slot = b.slot → e.1 ≠ bid → e.2.vals = none ∨ e.2.issuedWrites = true) →
    let b1 := { b with charge := satAdd 16 b.charge q.charge, cause := b.cause ||| q.cause }
    let kept := u.mem.reqs.filter fun r => r.id != q.id
    (q.write = false → let left := b.reads.filter fun r => r != q.id
      (left ≠ [] → Completes (.readResponse i env) s fun t => t.mem.reqs = kept ∧
        (∃ y, Tbl.get? t.bursts bid = some y ∧
          y = { b1 with reads := left, got := if st = stOk then b.got ++ [(rowKey q.merge q.latch, row)] else b.got, fail := y.fail } ∧
          (st = stOk → y.fail = b.fail) ∧ (st ≠ stOk → y.fail.isSome = true)) ∧
        (st = stOk → t.slots = s.slots) ∧
        (st ≠ stOk → st ≠ stBusWrite → ∀ x, Tbl.get? s.slots b.slot = some x → x.failing = none → ∃ z f,
          Tbl.get? t.slots b.slot = some z ∧ z = { x with failing := some f } ∧ f.status = st ∧ f.addr = q.latch ∧ f.write = q.merge) ∧
        t.streams = s.streams ∧ t.rings = s.rings ∧ t.ports = s.ports ∧ t.mem.stack = s.mem.stack ∧ t.mem.mere = s.mem.mere) ∧
      (left = [] → st = stOk → b.packets = [] → b.fail = none → b.vals = none → b.block.isSome = true →
        (Tbl.get? s.slots b.slot).isSome = true → Completes (.readResponse i env) s fun t =>
          (Tbl.getD t.expanders b.expander .reset).input = (Tbl.getD s.expanders b.expander .reset).input ++ [bid] ∧
            t.slots = s.slots ∧ t.streams = s.streams) ∧
      (∀ x tl, left = [] → st = stOk → b.packets = [] → b.fail = none → b.vals = none → b.issuedWrites = false → b.block = none →
        Tbl.get? s.slots b.slot = some x → x.cur = some tl → x.failing = none →
        let got := b.got ++ [(rowKey q.merge q.latch, row)]
        let es := runElems x.desc (ixOf tl.idx) b.segs
        let w := writeElems x.desc (undefElem s b.stream x.desc tl) (freeVal (32 * es.length) u).toNat 0
          (es.map fun e => (e, castCode x.desc (srcCode x.desc got) e)) { rows := [], codes := [] }
        let l := reqList (writeReq x.desc tl { b1 with reads := [], got := got } bid) u.mem.nextReq w.rows
        x.desc.dstSpace ≠ spCore → x.desc.dstSpace ≠ spWindow → inOrderDesc x.desc = false → mergeRows x.desc tl es = [] → b.side = [] →
        l ≠ [] → Completes (.readResponse i env) s fun t => t.mem.reqs = kept ++ l ∧
          (∃ y, Tbl.get? t.bursts bid = some y ∧ y.reads = [] ∧ y.writes = l.map MemReq.id ∧ y.issuedWrites = true) ∧
          t.mem.stack = s.mem.stack ∧ t.mem.mere = s.mem.mere ∧ t.mem.hostOut = s.mem.hostOut)) ∧
    (q.write = true → b.issuedWrites = true → b.todo = [] → b.writes.any (fun r => r != q.id) = true →
      Completes (.writeResponse i env) s fun t => t.mem = { u.mem with reqs := kept } ∧
      (∃ y, Tbl.get? t.bursts bid = some y ∧ y = { b1 with writes := b.writes.filter (fun r => r != q.id), fail := y.fail } ∧
        (st = stOk → y.fail = b.fail) ∧ (st ≠ stOk → y.fail.isSome = true)) ∧
      (∀ x, Tbl.get? s.slots b.slot = some x → ∃ z, Tbl.get? t.slots b.slot = some z ∧
        z = { x with cur := if st = stOk ∨ q.target = .host then x.cur.map (fun c => { c with landedAny := true }) else x.cur,
                     failing := z.failing } ∧
        (st = stOk → z.failing = x.failing) ∧
        (st ≠ stOk → x.failing = none → ∃ f, z.failing = some f ∧ f.status = st ∧ q.latch ≤ f.addr ∧ (st ≠ stBusWrite → f.addr = q.latch) ∧
          f.write = true)) ∧
      t.streams = s.streams ∧ t.rings = s.rings ∧ t.ports = s.ports) ∧
    (∀ x tl r0 r1 rest n, q.write = true → st = stOk → b.issuedWrites = true → b.writes = [q.id] → b.todo = r0 :: r1 :: rest →
      Tbl.get? s.slots b.slot = some x → x.cur = some tl → writeReq x.desc tl b bid u.mem.nextReq r1 = some n →
      Completes (.writeResponse i env) s fun t => t.mem.reqs = kept ++ [n] ∧
        ∃ y, Tbl.get? t.bursts bid = some y ∧ y.writes = [n.id] ∧ y.todo = r1 :: rest ∧
          y.bytes = b.bytes ++ codeBytes x.desc (if r0.adds = [] then r0.codes else q.sums))) ∧
  (∀ (i bid : Nat) (env : Env) (s : State) (q : MemReq) (b : Burst), reqOf s i = some q → inService s = true → backOpen s q = true →
    q.target = .host → s.inject = [] → q.who = .burst bid → Tbl.sorted s.bursts = true → Tbl.get? s.bursts bid = some b →
    (q.write = false → b.reads.any (fun r => r != q.id) = true → Completes (.readResponse i env) s fun t =>
      ∃ y, Tbl.get? t.bursts bid = some y ∧ y.got = if hostErrs env q.addr = true then b.got
        else b.got ++ [(rowKey q.merge q.latch, hostRow env s q.addr)]) ∧
    (q.write = true → (∀ e ∈ s.bursts, e.2.slot = b.slot → e.1 ≠ bid → e.2.vals = none ∨ e.2.issuedWrites = true) →
      b.issuedWrites = true → b.todo = [] → b.writes.any (fun r => r != q.id) = true → Completes (.writeResponse i env) s fun t =>
        t.mem.hostOut = if hostErrs env q.addr = true then s.mem.hostOut else (putHost s.mem q.addr q.data q.mask).hostOut)) ∧
  (∀ (i p rd st : Nat) (row : BitVec 512) (env : Env) (s : State) (q : MemReq), reqOf s i = some q → inService s = true →
    backOpen s q = true → q.who = .core p rd → q.target ≠ .host → q.res = some (st, row) → s.xlate.wds = [] →
    (q.write = false → Completes (.readResponse i env) s fun t => t.mem.reqs = s.mem.reqs.filter (fun r => r.id != q.id) ∧
      (portAt t p).reads = ((portAt s p).reads.map fun c => if c.id = rd then { c with
        reqs := c.reqs.filter (fun r => r != q.id), rows := c.rows ++ [(q.addr, row)], failed := c.failed || decide (st ≠ stOk) } else c).filter
          (fun c => !(c.write && c.reqs.isEmpty && !c.failed)) ∧
      t = { s with mem := t.mem, ports := t.ports }) ∧
    (q.write = true → Completes (.writeResponse i env) s fun t => t.mem.reqs = s.mem.reqs.filter (fun r => r.id != q.id) ∧
      (∀ c ∈ (portAt t p).reads, c.write = true → c.reqs ≠ [] ∨ c.failed = true) ∧
      (∀ c ∈ (portAt s p).reads, c.id ≠ rd → c.write = false → c ∈ (portAt t p).reads) ∧
      t = { s with mem := t.mem, ports := t.ports })) ∧
  ∀ (i st : Nat) (row : BitVec 512) (env : Env) (s : State) (q : MemReq), reqOf s i = some q → inService s = true → backOpen s q = true →
    q.target ≠ .host → q.res = some (st, row) → s.xlate.wds = [] → q.write = true →
    (∀ n k, q.who = .slot n k → Completes (.writeResponse i env) s fun t =>
      t = { s with mem := { s.mem with reqs := s.mem.reqs.filter fun r => r.id != q.id } }) ∧
    ∀ n gen, q.who = .area n gen → Completes (.writeResponse i env) s fun t =>
      t.mem = { s.mem with reqs := s.mem.reqs.filter fun r => r.id != q.id } ∧ t = { s with mem := t.mem, queues := t.queues } ∧
      (st = stOk ∨ queueGenOf s n ≠ gen → t.queues = s.queues) ∧
      (∀ y, st ≠ stOk → queueGenOf s n = gen → Tbl.get? s.queues n = some y →
        Tbl.get? t.queues n = some { y with roundErr := if y.roundErr = 0 then st else y.roundErr })

/-- Expanders and quantisers work (R21, R22, R333 to R340, R347, R353, R366 to R368): a burst asks its expander for a credit, and where its
block has a base block, for a pinned entry of the cache: in its turn it gets both, waits, or fails where the base has no such block.
A block that enters is charged the expander's lag; an ESCAPE block passes untouched, a block that passes its checks is decoded and
its patches counted, one that fails a check is counted and writes nothing. A QUANT_OUT tile starts in its turn, once an element is
held and a replay buffer is free, and consumes the bytes of its elements as far as they are held; with a scale register that is no
valid scale it halts its stream before a byte is consumed. With no injection armed. -/
def Obligations.ExpandersAndQuantisersWork : Prop :=
  (∀ (slot : Fin 3072) (s : State) (x : Slot) (tl : Tile), Tbl.get? s.slots slot.val = some x → x.cur = some tl →
    let k := expanderOf s (slot / 32) x.desc
    let may := inService s && fnTakes s (moverFn (slot / 32)) && fnTakes s (expanderFn k)
    (may = false ∨ creditBlock s x tl = none → exec (.expanderCreditRequest slot) s = .next s) ∧
    ∀ va, may = true → creditBlock s x tl = some va → s.inject = [] →
      let e := expanderAt s k
      let nb := baseNumber s x.desc va
      let pin := if needsBase x.desc tl va then some (xBase x.desc, nb) else none
      let within := needsBase x.desc tl va = false ∨ ∃ g, Tbl.get? s.bases (xBase x.desc) = some g ∧ nb < g.blocks
      (¬ within → (∃ b ∈ s.bursts, b.2.slot = slot.val ∧ b.2.reads ≠ []) → Completes (.expanderCreditRequest slot) s fun t =>
        ∃ f, Tbl.get? t.slots slot.val = some { x with failing := some f, creditAsked := false } ∧ f.status = stBaseMismatch ∧ f.addr = va ∧
          f.write = false ∧ expanderAt t k = { e with waiting := e.waiting.filter fun w => w != slot.val } ∧ t.streams = s.streams ∧
          counterOf t 3 k 5 = counterOf s 3 k 5 + 1) ∧
      (creditTurn s k slot = true → creditFree e pin = true) ∧
      (within → creditTurn s k slot = true → Completes (.expanderCreditRequest slot) s fun t =>
        t.slots = Tbl.put s.slots slot { x with creditHeld := some k, creditAsked := false, pin := pin } ∧
        (expanderAt t k).used = e.used + 1 ∧ (expanderAt t k).waiting = e.waiting.filter (fun w => w != slot.val) ∧
        (pin = none → (expanderAt t k).cache = e.cache ∧ t.counters = s.counters) ∧
        (∀ p, pin = some p → baseHit e p.1 p.2 = true → counterOf t 3 k 3 = counterOf s 3 k 3 + 1 ∧ counterOf t 3 k 4 = counterOf s 3 k 4) ∧
        (∀ p, pin = some p → baseHit e p.1 p.2 = false → counterOf t 3 k 4 = counterOf s 3 k 4 + 1 ∧ counterOf t 3 k 3 = counterOf s 3 k 3 ∧
          (expanderAt t k).winMiss = e.winMiss + 1) ∧
        (∀ p, pin = some p → ∃ y ∈ (expanderAt t k).cache, y.base = p.1 ∧ y.block = p.2 ∧ 1 ≤ y.pins) ∧
        t = { s with slots := t.slots, expanders := t.expanders, counters := t.counters }) ∧
      (within → creditTurn s k slot = false → Completes (.expanderCreditRequest slot) s fun t =>
        t.slots = Tbl.put s.slots slot { x with creditAsked := true } ∧
        expanderAt t k = { e with waiting := if slot.val ∈ e.waiting then e.waiting else e.waiting ++ [slot.val] } ∧
        t = { s with slots := t.slots, expanders := t.expanders })) ∧
  (∀ (k : Fin 32) (env : Env) (s : State),
    ((expanderAt s k).input = [] ∨ inService s = false ∨ fnTakes s (expanderFn k) = false → exec (.expanderBlock k env) s = .next s) ∧
    ∀ bid rest b x tl va, inService s = true → fnTakes s (expanderFn k) = true → s.inject = [] → Tbl.sorted s.bursts = true → (expanderAt s k).input = bid :: rest →
      bid ∉ rest → Tbl.get? s.bursts bid = some b → Tbl.get? s.slots b.slot = some x → x.cur = some tl → x.failing = none →
      x.allFormed = false → b.block = some va → b.expander = k.val →
      let e := expanderAt s k
      let l := rowsBytes b.got va (payloadLen x.desc)
      let h := readHeader l
      let p := portCycles x.desc b
      let holds := fun (t : State) (code : Nat → Nat) =>
        (∃ y, Tbl.get? t.bursts bid = some y ∧ y.block = none ∧ y.vals = some ((runElems x.desc (ixOf tl.idx) b.segs).map
          (castCode x.desc fun off => code (elemInBlock x.desc off)))) ∨ t.bursts = s.bursts.filter fun c => c.2.slot != b.slot
      (isEscape x.desc tl va = true → Completes (.expanderBlock k env) s fun t =>
        counterOf t 3 k 0 = counterOf s 3 k 0 + 1 ∧ counterOf t 3 k 1 = counterOf s 3 k 1 + 1 ∧ counterOf t 3 k 2 = counterOf s 3 k 2 ∧
        counterOf t 3 k 6 = counterOf s 3 k 6 + BitVec.ofNat 64 e.lag ∧
        (expanderAt t k).input = rest ∧ (expanderAt t k).used = e.used - 1 ∧ (expanderAt t k).lag = e.lag + 8 - p ∧
        holds t (packedElem (srcBits x.desc) (rowsBytes b.got va 4096))) ∧
      (isEscape x.desc tl va = false → blockFault s x.desc va l = none → Completes (.expanderBlock k env) s fun t =>
        counterOf t 3 k 0 = counterOf s 3 k 0 + 1 ∧ counterOf t 3 k 1 = counterOf s 3 k 1 ∧
        counterOf t 3 k 2 = counterOf s 3 k 2 + BitVec.ofNat 64 h.patches ∧ counterOf t 3 k 6 = counterOf s 3 k 6 + BitVec.ofNat 64 e.lag ∧
        (expanderAt t k).input = rest ∧ (expanderAt t k).used = e.used - 1 ∧
        (expanderAt t k).lag = e.lag + (max (ceilDiv (64 * b.got.length) 512) 4 + h.patches) - p ∧
        holds t (decodeElem x.desc l (if xBase x.desc = 0 then [] else baseBytes s x.desc b va) (tableOf s x.desc))) ∧
      (∀ g, isEscape x.desc tl va = false → blockFault s x.desc va l = some g → (∃ c ∈ s.bursts, c.2.slot = b.slot ∧ c.2.writes ≠ []) →
        Completes (.expanderBlock k env) s fun t =>
          counterOf t 3 k 5 = counterOf s 3 k 5 + 1 ∧ counterOf t 3 k 0 = counterOf s 3 k 0 ∧ (expanderAt t k).used = e.used - 1 ∧
          (∃ z f, Tbl.get? t.slots b.slot = some z ∧ z = { x with failing := some f } ∧ f.addr = va ∧ f.write = false ∧
            f.status = (match g with | .check _ _ => stCmpCheck | .base => stBaseMismatch | .table => stTableRetired)) ∧
          t.mem = s.mem ∧ t.streams = s.streams ∧
          ∀ y, Tbl.get? t.bursts bid = some y → y.block = none ∧ y.issuedWrites = b.issuedWrites ∧ y.fail.isSome = true)) ∧
  ∀ (slot : Fin 3072) (env : Env) (s : State) (x : Slot) (tl : Tile), Tbl.get? s.slots slot.val = some x → x.cur = some tl →
    let k := quantOfCore s (coreOf x.desc.srcAddr)
    let may := inService s && fnTakes s (moverFn (slot / 32)) && fnTakes s (quantFn k) && quantReady s x tl
    let size := elemBytes (srcBits x.desc)
    let inner := ((tileElems x.desc tl).filter fun e => isInner x.desc (coords x.desc e.n)).length
    (may = false ∨ Tbl.get? s.bindings (qSource x.desc) = none → exec (.qntTile slot env) s = .next s) ∧
    ∀ b, may = true → Tbl.get? s.bindings (qSource x.desc) = some b →
      let begun := (replayOf s k x.stream tl.num).isSome
      let consumes := fun (n : Nat) => Completes (.qntTile slot env) s fun t =>
        (replayOf t k x.stream tl.num).isSome = true ∧
        ∃ y, Tbl.get? t.bindings (qSource x.desc) = some y ∧ y.held = b.held.drop (n * size) ∧ y.scaleMode = b.scaleMode ∧
          y.threshold = b.threshold ∧ y.stream = b.stream
      (quantWork s k x tl b = false → exec (.qntTile slot env) s = .next s) ∧
      (quantWork s k x tl b = true → begun = false → 8 ≤ (quantAt s k).replay.length → exec (.qntTile slot env) s = .next (bump 4 k 5 1 s)) ∧
      (quantWork s k x tl b = true → begun = true ∨ (quantAt s k).replay.length < 8 →
        (quantTurn s k b = false → exec (.qntTile slot env) s = .next s) ∧
        (quantTurn s k b = true → s.inject = [] → (∀ r, envFlips env 0x0B k r = []) → envFlips env 0x0A k 0 = [] →
          (∀ p, replayOf s k x.stream tl.num = some p →
            consumes (min (((tileElems x.desc tl).drop p.done).filter fun e => isInner x.desc (coords x.desc e.n)).length
              (b.held.length / size))) ∧
          (begun = false → (∃ r ∈ tileRegs x.desc b tl, regValid (regAt (quantAt s k) r) = false) →
            ∀ st, Tbl.get? s.streams x.stream = some st → st.state = stRunning → Completes (.qntTile slot env) s fun t =>
              t.bindings = s.bindings ∧ t.quants = s.quants ∧
              ∃ z, Tbl.get? t.streams x.stream = some z ∧ z.state = stHalted ∧ z.haltStatus = stScaleInvalid ∧ z.tile = st.tile) ∧
          (begun = false → (∀ r ∈ tileRegs x.desc b tl, regValid (regAt (quantAt s k) r) = true) →
            consumes (min inner (b.held.length / size)))))

/-! The Mere as cores see it, queues and messages. -/

/-- Cores read and write the Mere (R57, R379, R380, R384): the front beat of a lane whose turn it is asks; with no page of an allocation
under it, or not permitted by it, it is NACKed; else its rows are requested. When all rows of the oldest read under its tag have
been served, the port presents the bytes that the read named; a request of which a row failed is NACKed. -/
def Obligations.CoresReachTheMere : Prop :=
  (∀ (p : Fin 64) (lane : Fin 2) (s : State) (write : Bool),
    let c : Instr := if write then .mereWrite p lane else .mereRead p lane
    let kind := if write then rkWrite else rkRead
    (frontBeat s p lane kind = none ∨ inService s = false ∨ inOrder s p lane [rkRead, rkWrite] = false → exec c s = .next s) ∧
    ∀ b, frontBeat s p lane kind = some b → inService s = true → inOrder s p lane [rkRead, rkWrite] = true → s.inject = [] →
      let core := coreNumber s p b.core.toNat
      let a := beatAddr b
      let why := coreCheck s core write a b.len.toNat
      (why = if (pagesOf a b.len.toNat).any (fun g => (pageOwner s g).isNone) then some stUnmapped
        else if (pagesOf a b.len.toNat).all (fun g => (pageOwner s g).any fun x => coreMay x core write) then none else some stProtection) ∧
      (∀ st, why = some st → Completes c s fun t =>
        (portAt t p).out = onLanes (shownNow (portCycle s p) (portAt s p) ++
          [nackBeat b.core.toNat (mereNackHdr s st (senderCore s p b.core.toNat) b.sel.toNat b.len.toNat a write)]) ∧
        laneOf (portAt t p) lane = (laneOf (portAt s p) lane).drop 1 ∧ counterOf t 5 (p / 16) 5 = counterOf s 5 (p / 16) 5 + 1 ∧
        t.mem = s.mem ∧ t.allocs = s.allocs ∧ t.queues = s.queues ∧ t.slots = s.slots ∧ t.streams = s.streams) ∧
      (why = none → fnTakes s .mere = false → exec c s = .next s) ∧
      (why = none → fnTakes s .mere = true → Completes c s fun t =>
        let rd := (portAt s p).nextRead
        let l := (beatRows b).mapIdx fun i r => coreReqRow p rd (s.mem.nextReq + i) r.1 write r.2.1 r.2.2
        t.mem = { s.mem with reqs := s.mem.reqs ++ l, nextReq := s.mem.nextReq + l.length } ∧
        laneOf (portAt t p) lane = (laneOf (portAt s p) lane).drop 1 ∧ (portAt t p).nextRead = rd + 1 ∧
        (l ≠ [] → (portAt t p).reads = (portAt s p).reads ++
          [CoreReq.mk rd b.core.toNat b.sel.toNat a b.len.toNat write (l.map MemReq.id) [] false]) ∧
        (∀ o, o ≠ p.val → portAt t o = portAt s o) ∧ t.queues = s.queues ∧ t.slots = s.slots ∧ t.streams = s.streams)) ∧
  ∀ (p : Fin 64) (idx : Nat) (s : State) (c : CoreReq), ((portAt s p).reads.find? fun x => x.id == idx) = some c →
    let before := shownNow (portCycle s p) (portAt s p)
    (inService s = false ∨ c.reqs ≠ [] ∨ (c.write = false ∧ answersFirst (portAt s p) c = false) → exec (.mereReadData p idx) s = .next s) ∧
    (inService s = true → c.reqs = [] → c.write = false → c.failed = false →
      (∀ d ∈ (portAt s p).reads, d.write = false → d.slot = c.slot → d.tag = c.tag → c.id ≤ d.id) → Completes (.mereReadData p idx) s fun t =>
        (portAt t p).out = onLanes (before ++ [plainBeat dkMereData c.slot c.tag (coreData c)]) ∧ (coreData c).length = c.len ∧
        (portAt t p).reads = (portAt s p).reads.filter (fun x => x.id != idx) ∧ t = { s with ports := t.ports }) ∧
    (inService s = true → c.reqs = [] → c.failed = true → c.write = true ∨ answersFirst (portAt s p) c = true →
      Completes (.mereReadData p idx) s fun t =>
        (portAt t p).out = onLanes (before ++ [nackBeat c.slot (mereNackHdr s stMereUnc (senderCore s p c.slot) c.tag c.len c.addr c.write)]) ∧
        (portAt t p).reads = (portAt s p).reads.filter (fun x => x.id != idx) ∧ counterOf t 5 (p / 16) 5 = counterOf s 5 (p / 16) 5 + 1 ∧
        t = { s with ports := t.ports, counters := t.counters, freeTick := t.freeTick })

/-- A slice decides a message in the order of R392, and a taken one has its effect (R391 to R396, R404, R406, R408): a core's message, a
contribution or a rearming waits, goes to its device, is NACKed with the first reason that holds, and counted, or is accepted: it is
presented to its reader, or its bytes go to the queue's next slot; its elements go to the banks of the area, which add them; zeroing
begins. Another device's message is decided alike and answered to its device. With no injection armed, and the queue's descriptor
read soundly. -/
def Obligations.SlicesDecideMessages : Prop :=
  (∀ (p : Fin 64) (lane : Fin 2) (env : Env) (s : State) (b : RtnBeat), frontBeat s p lane rkMessage = some b →
    let m := beatMsg s p b
    let kind := hdrKind m.hdr
    let c : Instr := if kind = mkContribute then .contribute p lane env else if kind = mkRearm then .rearm p lane else .message p lane env
    let n := hdrQueue m.hdr
    let k := sliceNo n
    let up := inService s && inOrder s p lane [rkMessage, rkWrite] && !writePending s p b.core.toNat && fnTakes s (sliceFn k) &&
      crossOpen s (p / 16) k
    let plain := decide (s.mirror.role ≠ roleFenced) && !msgMalformed m.hdr b.len.toNat
    (up = false → exec c s = .next s) ∧
    (up = true → s.inject = [] → envFlips env 0x0D k (n % 16384) = [] →
      (s.mirror.role = roleFenced → Completes c s fun t =>
        Nacked p lane b m stNackFenced s t ∧ counterOf t 5 k 3 = counterOf s 5 k 3 + 1 ∧ t.queues = s.queues ∧ t.mem = s.mem) ∧
      (s.mirror.role ≠ roleFenced → msgMalformed m.hdr b.len.toNat = true → Completes c s fun t =>
        Nacked p lane b m stMalformed s t ∧ counterOf t 5 k 4 = counterOf s 5 k 4 + 1 ∧ t.queues = s.queues ∧ t.mem = s.mem) ∧
      (plain = true → isHere s (hdrDevice m.hdr) = false →
        s.cw.idValid = false ∨ routeFor s (hdrDevice m.hdr) [hdrSource m.hdr % 1024, handle n (hdrGen m.hdr)] = none →
          Completes c s fun t => Nacked p lane b m stUnreachable s t ∧ t.queues = s.queues ∧ t.mem = s.mem) ∧
      (∀ o g, plain = true → isHere s (hdrDevice m.hdr) = false → s.cw.idValid = true →
        routeFor s (hdrDevice m.hdr) [hdrSource m.hdr % 1024, handle n (hdrGen m.hdr)] = some o → cwTakes s o = true → crossOpen s k (o / 8) = true →
        freeTag (cport s o) = some g → Completes c s fun t => laneOf (portAt t p) lane = (laneOf (portAt s p) lane).drop 1 ∧
          (∃ u, Tbl.get? (cport t o).tags g = some u ∧ u.owner = .msg m (hdrSource m.hdr % 1024) ∧ u.dst = hdrDevice m.hdr) ∧
          counterOf t 5 k 1 = counterOf s 5 k 1 + 1 ∧ t.queues = s.queues ∧ t.mem = s.mem) ∧
      (plain = true → isHere s (hdrDevice m.hdr) = true →
        (noSuchQueue s (.core p b.core.toNat) m.hdr = true → Completes c s fun t =>
          Nacked p lane b m stNackNoQueue s t ∧ counterOf t 5 k 2 = counterOf s 5 k 2 + 1 ∧ t.queues = s.queues ∧ t.mem = s.mem) ∧
        ∀ q, noSuchQueue s (.core p b.core.toNat) m.hdr = false → queueAt s n = some q →
          (waitsZeroing s n q m.hdr = true → Completes c s fun t => laneOf (portAt t p) lane = (laneOf (portAt s p) lane).drop 1 ∧
            (Tbl.getD t.slices k Slice.reset).waiting = (Tbl.getD s.slices k Slice.reset).waiting ++ [(n, m, .core p b.core.toNat)] ∧
            t.queues = s.queues ∧ t.mem = s.mem) ∧
          (waitsZeroing s n q m.hdr = false → mustWait s q m.hdr = true → exec c s = .next s) ∧
          (∀ st, waitsZeroing s n q m.hdr = false → refusal s q m.hdr = some st → Completes c s fun t => Nacked p lane b m st s t ∧
            (let old := Tbl.getD s.queueCnt n noCounts
             let i := if st = stNackFull then qcFull else qcOther
             Tbl.get? t.queueCnt n = some (updAt old i fun v => v + 1)) ∧
            Tbl.get? t.queues n = some { q with consec := if q.consec + 1 < q.storm then q.consec + 1 else 0 } ∧
            (q.storm ≤ q.consec + 1 → ∀ g, s.irq.groups[4]? = some g → ∃ h, t.irq.groups[4]? = some h ∧ h.cause.getLsbD k = true) ∧
            t.mem = s.mem) ∧
          (waitsZeroing s n q m.hdr = false → mustWait s q m.hdr = false → refusal s q m.hdr = none →
            (kind = mkMessage → q.slots = [] → inboxCredit s q = true → Completes c s fun t =>
              Tbl.get? t.queues n = some { q with consec := 0 } ∧ t.mem = s.mem ∧
              counterOf t 5 k 0 = counterOf s 5 k 0 + 1 ∧
              Tbl.getD (portAt t (readerPort s q)).inbox (readerSlot s q) 0 = Tbl.getD (portAt s (readerPort s q)).inbox (readerSlot s q) 0 - 1 ∧
              (∃ x ∈ (portAt t (readerPort s q)).out, x.kind = dkMessage ∧ x.core = readerSlot s q ∧
                x.data = headerBytes (deliverHdr m.hdr) ++ m.payload) ∧
              (hdrAck m.hdr = true → ∃ x ∈ (portAt t p).out, x.kind = dkNack ∧ x.core = b.core.toNat ∧
                x.data = headerBytes (withStatus m.hdr stOk))) ∧
            (kind = mkMessage → q.slots ≠ [] ∨ inboxCredit s q = false → Completes c s fun t =>
              let i := nextSlot q
              let a := slotAddr q i
              Tbl.get? t.queues n = some { q with consec := 0, tailSlot := (i + 1) % max q.depth 1, slots := q.slots ++ [i] } ∧
              (q.tailSlot % max q.depth 1 ∉ q.slots → i = q.tailSlot % max q.depth 1) ∧
              ∃ l, t.mem = { s.mem with reqs := s.mem.reqs ++ l, nextReq := s.mem.nextReq + l.length } ∧
                (∀ r ∈ l, r.write = true ∧ r.who = .slot n i ∧ r.target = .mere (bankOf r.addr) ∧
                  ∀ j < 64, fld r.mask.toNat (8 * j) 8 ≠ 0 → a ≤ r.addr + j ∧ r.addr + j < a + (slotBytes m).length) ∧
                ∀ j v, (slotBytes m)[j]? = some v → ∃ r ∈ l, r.addr = (a + j) / 64 * 64 ∧ fld r.mask.toNat (8 * ((a + j) % 64)) 8 = 0xFF ∧
                  fld r.data.toNat (8 * ((a + j) % 64)) 8 = v.toNat) ∧
            (kind = mkContribute → Completes c s fun t =>
              Tbl.get? t.queues n = some { q with consec := 0, count := q.count + 1 } ∧
              ∃ l, t.mem = { s.mem with reqs := s.mem.reqs ++ l, nextReq := s.mem.nextReq + l.length } ∧
                (∀ r ∈ l, r.write = true ∧ r.who = .area n (queueGenOf s n) ∧ r.target = .mere (bankOf r.addr) ∧ r.addTyp = q.typ ∧ r.addCast = 0) ∧
                ∀ i v, (elemsOf q.typ m.payload)[i]? = some v → let a := q.base + hdrOffset m.hdr + i * typeBytes q.typ
                  ∃ r ∈ l, r.addr = a / 64 * 64 ∧ (8 * (a % 64), v) ∈ r.adds) ∧
            (kind = mkRearm → q.combined = none ∨ q.freePending = false → Completes c s fun t =>
              Tbl.get? t.queues n = some { q with consec := 0, state := qZeroing, round := (q.round + 1) % 2 ^ 32, count := 0, roundErr := 0,
                                                  slots := if q.combined = none then q.slots else [], combined := none } ∧
              t.mem.mere = cellErase s.mem.mere q.base q.size ∧ t.mem.stack = s.mem.stack))))) ∧
  ∀ (p : Fin 32) (env : Env) (s : State) (x : Packet) (rest : List Packet), (cport s p).inq = x :: rest →
    let m := packetMsg x
    let n := hdrQueue m.hdr
    let k := sliceNo n
    let up := x.op == opMessage && inService s && cwTakes s p && replyOpen s k x && fnTakes s (sliceFn k) && crossOpen s (p / 8) k
    let u := dropPacket p s
    let answered := fun (st : Nat) (v t : State) =>
      t.cw = (respondTo x st opMessageResp 32 (headerBytes (withStatus m.hdr st)) v).cw ∧ t.mem = s.mem
    (up = false → exec (.remoteMessage p env) s = .next s) ∧
    (up = true → s.inject = [] → envFlips env 0x0D k (n % 16384) = [] →
      (answersFenced s x.dst = true → Completes (.remoteMessage p env) s fun t => answered stNackFenced (sliceBump k 3 1 u) t) ∧
      (answersFenced s x.dst = false → msgMalformed m.hdr x.len = true → Completes (.remoteMessage p env) s fun t =>
        answered stMalformed (sliceBump k 4 1 u) t) ∧
      (answersFenced s x.dst = false → msgMalformed m.hdr x.len = false →
        (noSuchQueue s (.remote p x) m.hdr = true → Completes (.remoteMessage p env) s fun t =>
          answered stNackNoQueue (sliceBump k 2 1 u) t ∧ t.queues = s.queues) ∧
        ∀ q, noSuchQueue s (.remote p x) m.hdr = false → queueAt s n = some q → waitsZeroing s n q m.hdr = false →
          (∀ st, refusal s q m.hdr = some st → Completes (.remoteMessage p env) s fun t =>
            (∃ v, v.cw = u.cw ∧ answered st v t) ∧
            Tbl.get? t.queues n = some { q with consec := if q.consec + 1 < q.storm then q.consec + 1 else 0 }) ∧
          (mustWait s q m.hdr = false → refusal s q m.hdr = none → hdrKind m.hdr = mkMessage → q.slots = [] → inboxCredit s q = true →
            Completes (.remoteMessage p env) s fun t => Tbl.get? t.queues n = some { q with consec := 0 } ∧
              (∃ v, v.cw = u.cw ∧ answered stOk v t) ∧
              ∃ y ∈ (portAt t (readerPort s q)).out, y.kind = dkMessage ∧ y.core = readerSlot s q ∧
                y.data = headerBytes (deliverHdr m.hdr) ++ m.payload) ∧
          (mustWait s q m.hdr = false → refusal s q m.hdr = none → hdrKind m.hdr = mkContribute → Completes (.remoteMessage p env) s fun t =>
            Tbl.get? t.queues n = some { q with consec := 0, count := q.count + 1 } ∧
            ∃ v, v.cw = u.cw ∧ t.cw = (respondTo x stOk opMessageResp 32 (headerBytes (withStatus m.hdr stOk)) v).cw)))

/-- Rounds end and held messages go out (R386, R394, R405, R406): a round with every contribution landed is COMPLETE, its COMBINED message
presented or held; when its area has been zeroed a queue is ARMED and takes what waited; a reader with inbox credit gets the oldest
message of the queue whose turn it is, once it has landed; one that cannot be read is lost and counted. -/
def Obligations.RoundsAndDeliveries : Prop :=
  (∀ (queue : BitVec 16) (s : State) (q : Queue), let n := queue.toNat
    let up := inService s && fnTakes s (sliceFn (sliceNo n)) && q.combining && q.state == qArmed && decide (q.depth ≤ q.count) &&
      !areaLanding s n
    let shown := fun (d : List Byte) => d = natToBytes 16 (pack [(32, q.base), (32, q.size), (32, q.round), (32, q.depth)])
    queueAt s n = some q →
    (up = false → exec (.combineComplete queue) s = .next s) ∧
    (up = true → inboxCredit s q = false → waitingFor s n = [] → Completes (.combineComplete queue) s fun t =>
      (∃ m, Tbl.get? t.queues n = some { q with state := qComplete, combined := some m } ∧ hdrKind m.hdr = mkCombined ∧
        fld m.hdr.toNat 248 8 = q.roundErr % 256 ∧ shown m.payload) ∧
      t = { s with queues := t.queues, slices := t.slices }) ∧
    (up = true → inboxCredit s q = true → waitingFor s n = [] → Completes (.combineComplete queue) s fun t =>
      Tbl.get? t.queues n = some { q with state := qComplete } ∧
      (∃ x ∈ (portAt t (readerPort s q)).out, x.kind = dkMessage ∧ x.core = readerSlot s q ∧ shown (x.data.drop 32)) ∧
      Tbl.getD (portAt t (readerPort s q)).inbox (readerSlot s q) 0 = Tbl.getD (portAt s (readerPort s q)).inbox (readerSlot s q) 0 - 1 ∧
      t = { s with queues := t.queues, ports := t.ports, counters := t.counters, queueCnt := t.queueCnt, slices := t.slices })) ∧
  (∀ (queue : BitVec 16) (s : State), let n := queue.toNat
    let up := inService s && fnTakes s (sliceFn (sliceNo n)) && fnTakes s .mere
    (up = false ∨ ((∀ q, queueAt s n = some q → q.state ≠ qZeroing) ∧ waitingFor s n = []) → exec (.areaZeroingDone queue) s = .next s) ∧
    ∀ q, up = true → queueAt s n = some q → q.state = qZeroing →
      (waitingFor s n = [] → Completes (.areaZeroingDone queue) s fun t =>
        Tbl.get? t.queues n = some { q with state := qArmed } ∧ t.mem = s.mem ∧ t.ports = s.ports) ∧
      (∀ w, waitingFor s n = [w] → s.inject = [] → refusal s { q with state := qArmed } w.2.1.hdr = none → q.count < q.depth →
        noSuchQueue s w.2.2 w.2.1.hdr = false → hdrQueue w.2.1.hdr = n → hdrKind w.2.1.hdr = mkContribute →
        Completes (.areaZeroingDone queue) s fun t => waitingFor t n = [] ∧
          Tbl.get? t.queues n = some { q with state := qArmed, consec := 0, count := q.count + 1 })) ∧
  ∀ (core : Fin 1024) (env : Env) (s : State),
    let k := (coreEntry s core).port / 16
    let x := Tbl.getD s.slices k Slice.reset
    let next := queueTurn s core (Tbl.getD x.rr core.val (k * 16384 + 16383))
    (inService s = false ∨ fnTakes s (sliceFn k) = false ∨ next = none → exec (.messageDelivery core env) s = .next s) ∧
    ∀ n q, inService s = true → fnTakes s (sliceFn k) = true → next = some (n, q) → Tbl.get? s.queues n = some q → q.freePending = false →
      let shows := fun (t : State) (data : List Byte) =>
        (∃ y ∈ (portAt t (readerPort s q)).out, y.kind = dkMessage ∧ y.core = readerSlot s q ∧ y.data = data) ∧
        Tbl.getD (portAt t (readerPort s q)).inbox (readerSlot s q) 0 = Tbl.getD (portAt s (readerPort s q)).inbox (readerSlot s q) 0 - 1 ∧
        Tbl.get? t.queueCnt n = some (updAt (Tbl.getD s.queueCnt n noCounts) qcDelivered fun v => v + 1)
      (inboxCredit s q = false ∨ (q.combining = false ∧ slotReady s n q = false) → exec (.messageDelivery core env) s = .next s) ∧
      (∀ m, inboxCredit s q = true → q.combining = true → q.combined = some m → Completes (.messageDelivery core env) s fun t =>
        Tbl.get? t.queues n = some { q with combined := none } ∧ shows t (headerBytes m.hdr ++ m.payload) ∧
        Tbl.getD (Tbl.getD t.slices k Slice.reset).rr core.val 0 = n ∧ t.mem = s.mem) ∧
      (∀ i rest, inboxCredit s q = true → q.combining = false → q.combined = none → q.slots = i :: rest → slotReady s n q = true →
        let r := readSlot env (sliceNo n) (slotAddr q i) s
        (∀ m, r.2 = some m → Completes (.messageDelivery core env) s fun t =>
          Tbl.get? t.queues n = some { q with slots := rest } ∧ shows t (headerBytes (deliverHdr m.hdr) ++ m.payload) ∧
          t.mem.mere = s.mem.mere ∧ t.mem.stack = s.mem.stack) ∧
        (r.2 = none → rest = [] → Completes (.messageDelivery core env) s fun t =>
          Tbl.get? t.queues n = some { q with slots := [] } ∧
          Tbl.get? t.queueCnt n = some (updAt (Tbl.getD s.queueCnt n noCounts) qcLost fun v => v + 1) ∧
          t.ports = s.ports ∧ t.mem.mere = s.mem.mere))


/-! Other devices, the pair, power and Peat. -/

/-- Requests of other devices, and the answers to this one's (R71, R396, R441 to R448): a write is refused for the first reason that
holds and counted at its window, or accepted; an accepted one lands, in order, is counted and acknowledged; a read is refused alike or
answered with the bytes it names. A response, or the time limit, ends its request: the tag is free, the burst goes on or fails, a
core's message is answered; a response that finds no request is counted. While an interface retrains nothing crosses it, and a
retraining that fails takes it away. With no injection armed. -/
def Obligations.DevicesTransact : Prop :=
  (∀ (u : Fin 6) (ended : Option Bool) (s : State), s.inject = [] →
    let up := inService s && (ucieNeeded s.straps.split).contains u.val && !s.cw.ucieDown.contains u.val
    let others := s.cw.ucieRetraining.filter fun v => v != u.val
    (up = false → exec (.ucieRetrain u ended) s = .next s) ∧
    (up = true → ended = none → Completes (.ucieRetrain u ended) s fun t =>
      t = { s with cw := { s.cw with ucieRetraining := u.val :: others } } ∧
      ∀ q r, dieOf s q ≠ dieOf s r → pairNo q r = u.val → crossOpen t q r = false) ∧
    (up = true → ended = some true → exec (.ucieRetrain u ended) s = .next { s with cw := { s.cw with ucieRetraining := others } }) ∧
    (up = true → ended = some false → Completes (.ucieRetrain u ended) s fun t =>
      t.cw = { s.cw with ucieRetraining := others, ucieDown := u.val :: s.cw.ucieDown } ∧
      (∀ q r, dieOf s q ≠ dieOf s r → pairNo q r = u.val → crossOpen t q r = false) ∧
      (∀ g, s.irq.groups[5]? = some g → ∃ h, t.irq.groups[5]? = some h ∧ h.cause.getLsbD (32 + u.val) = true) ∧
      t = { s with cw := t.cw, irq := t.irq, peat := t.peat })) ∧
  (∀ (p : Fin 32) (env : Env) (s : State) (k : Packet) (rest : List Packet), (cport s p).inq = k :: rest → s.inject = [] →
    let up := inService s && cwTakes s p && replyOpen s (p / 8) k
    let upR := inService s && cwTakes s p && responseOpen s p k
    let u := dropPacket p s
    let refused := fun (st : Nat) (t : State) => t.cw = (nack p k st (countRefusal k.window st u)).cw ∧ t.mem = s.mem ∧
      ∀ x, windowAt s k.window = some x → ∃ y, windowAt t k.window = some y ∧
        y = { x with nacksClosed := x.nacksClosed + (if st = stWindowClosed then 1 else 0),
                     nacksNoWindow := x.nacksNoWindow + (if st = stNoWindow then 1 else 0), refusedClosing := y.refusedClosing }
    (up = false ∨ k.op ≠ opWrite → exec (.remoteWrite p) s = .next s) ∧
    (up = true → k.op = opWrite →
      (∀ st, judgeRequest s k = .refused st → Completes (.remoteWrite p) s (refused st)) ∧
      (judgeRequest s k = .closed → Completes (.remoteWrite p) s fun t => refused stWindowClosed t) ∧
      (∀ x, judgeRequest s k = .accepted x → windowAt s k.window = some x → Completes (.remoteWrite p) s fun t =>
        (cport t p).inq = rest ∧ (cport t p).inWrites = (cport s p).inWrites ++ [InWrite.mk k.window k (x.base + k.offset)] ∧
        windowAt t k.window = some { x with writesAccepted := x.writesAccepted + 1, inFlight := x.inFlight + 1 } ∧
        t = { s with cw := t.cw })) ∧
    (up = false ∨ k.op ≠ opRead → exec (.remoteRead p env) s = .next s) ∧
    (up = true → k.op = opRead →
      (isHeartbeatRead s k = true → Completes (.remoteRead p env) s fun t =>
        t.cw = (respondTo k stOk opReadData 64 (heartbeatBytes s) u).cw ∧ t.mem = s.mem) ∧
      (isHeartbeatRead s k = false →
        (∀ st, judgeRequest s k = .refused st → Completes (.remoteRead p env) s (refused st)) ∧
        (judgeRequest s k = .closed → Completes (.remoteRead p env) s fun t => refused stWindowClosed t) ∧
        ∀ x, judgeRequest s k = .accepted x → windowAt s k.window = some x →
          let near := windowMem s x && windowOpen s (p / 8) x (x.base + k.offset) k.len
          (near = false → exec (.remoteRead p env) s = .next s) ∧
          (near = true → Completes (.remoteRead p env) s fun t =>
            (∃ y, windowAt t k.window = some y ∧ y = { x with readsAccepted := x.readsAccepted + 1 }) ∧
            t.mem.mere = s.mem.mere ∧ t.mem.stack = s.mem.stack ∧ t.mem.hostOut = s.mem.hostOut) ∧
          (near = true → x.space = 1 → s.mem.mereBad = [] → (∀ b a, envFlips env 1 b a = []) →
            Completes (.remoteRead p env) s fun t => ∃ v, v.cw = (updWindow k.window (fun y => { y with readsAccepted := y.readsAccepted + 1 }) u).cw ∧
              t.cw = (respondTo k stOk opReadData k.len (zeroBytes s.mem.mere (x.base + k.offset) k.len) v).cw))) ∧
    (upR = false ∨ isResponse k.op = false → exec (.remoteResponse p) s = .next s) ∧
    (upR = true → isResponse k.op = true →
      (tagUse s k.tag = none → Completes (.remoteResponse p) s fun t =>
        counterOf t 6 p 4 = counterOf s 6 p 4 + 1 ∧ t.cw = u.cw ∧ t = { s with cw := t.cw, counters := t.counters }) ∧
      ∀ g, tagUse s k.tag = some g → Completes (.remoteResponse p) s fun t =>
        (cport t (k.tag / 1024)).tags = Tbl.del (cport s (k.tag / 1024)).tags (k.tag % 1024) ∧
        (g.owner = .heartbeat → t = { s with cw := t.cw }) ∧
        (∀ m core, g.owner = .msg m core → hdrAck m.hdr = true ∨ k.status ≠ stOk →
          (portAt t (coreEntry s core).port).out = onLanes (shownNow (portCycle s (coreEntry s core).port) (portAt s (coreEntry s core).port) ++
            [nackBeat (coreEntry s core).slot (withStatus m.hdr k.status)]) ∧ t.queues = s.queues) ∧
        (∀ bid b, g.owner = .burst bid → Tbl.get? s.bursts bid = some b → b.packets.any (fun v => v != k.tag) = true →
          (k.status = stOk → g.write = true → b.issuedWrites = true → Tbl.get? t.bursts bid =
            some { b with packets := b.packets.filter fun v => v != k.tag } ∨ (∃ x, Tbl.get? s.slots b.slot = some x ∧ x.failing.isSome = true)) ∧
          (k.status ≠ stOk → ∀ x st, Tbl.get? s.slots b.slot = some x → x.failing = none → Tbl.get? s.streams x.stream = some st →
            st.state = stRunning → st.slot = some b.slot →
            (∃ z f, Tbl.get? t.slots b.slot = some z ∧ z.failing = some f ∧ f.status = k.status ∧ f.addr = g.offset) ∨
            ∃ y, Tbl.get? t.streams x.stream = some y ∧ y.state = stHalted ∧ y.haltStatus = k.status ∧ y.faultAddr = g.offset)))) ∧
  (∀ (p : Fin 32) (env : Env) (s : State) (w : InWrite) (rest : List InWrite) (x : Window), (cport s p).inWrites = w :: rest →
    windowAt s w.window = some x → s.inject = [] →
    let near := windowMem s x && windowOpen s (p / 8) x w.addr w.pkt.data.length && replyOpen s (p / 8) w.pkt
    (inService s = false ∨ cwTakes s p = false ∨ near = false → exec (.remoteWriteLanded p env) s = .next s) ∧
    (inService s = true → cwTakes s p = true → near = true → Completes (.remoteWriteLanded p env) s fun t =>
      (cport t p).inWrites = rest ∧
      (∃ y, windowAt t w.window = some y ∧ y.inFlight = x.inFlight - 1 ∧
        (y.landedClosing = x.landedClosing ∨ x.state = wdClosing ∧ y.landedClosing = x.landedClosing + 1) ∧
        y = { x with inFlight := y.inFlight, bytesWritten := y.bytesWritten, landedClosing := y.landedClosing }) ∧
      (x.space ≠ 1 → t.mem.mere = s.mem.mere) ∧ (x.space = 1 → t.mem.stack = s.mem.stack ∧ t.mem.hostOut = s.mem.hostOut) ∧
      (x.space = 1 → s.mem.mereBad = [] → (∀ b a, envFlips env 1 b a = []) → zeroForm s.mem.mere = true →
        zeroBytes t.mem.mere w.addr w.pkt.data.length = w.pkt.data ∧
        (∀ a, a < w.addr ∨ w.addr + w.pkt.data.length ≤ a → zeroGet t.mem.mere a = zeroGet s.mem.mere a) ∧
        ∃ y, windowAt t w.window = some y ∧ y.bytesWritten = x.bytesWritten + w.pkt.data.length ∧
          y.landedClosing = (if x.state = wdClosing then x.landedClosing + 1 else x.landedClosing)))) ∧
  ∀ (p : Fin 32) (tag : BitVec 16) (s : State),
    let up := inService s && cwTakes s p && tag.toNat / 1024 == p.val && (tagUse s tag.toNat).isSome
    (up = false → exec (.remoteTimeout p tag) s = .next s) ∧
    ∀ g, up = true → tagUse s tag.toNat = some g → Completes (.remoteTimeout p tag) s fun t =>
      (cport t p).tags = Tbl.del (cport s p).tags (tag.toNat % 1024) ∧ counterOf t 6 p 3 = counterOf s 6 p 3 + 1 ∧
      (∀ m core, g.owner = .msg m core → (portAt t (coreEntry s core).port).out =
        onLanes (shownNow (portCycle s (coreEntry s core).port) (portAt s (coreEntry s core).port) ++
          [nackBeat (coreEntry s core).slot (withStatus m.hdr stRemoteTimeout)])) ∧
      (g.owner = .heartbeat → t = { s with cw := t.cw, counters := t.counters })

/-- The pair keeps in step (R459 to R466, R469 to R472): a heartbeat counts only from the partner, under the pair's SERVICE_ID; at the first
over Withy the members join, the primary as the source of a full copy, or part where they disagree; a higher epoch fences a primary,
and after both paths were lost an equal one does too; the receiver of a copy becomes a mirror when the source is in step. Losing Withy
detaches; losing both also fences a mirror. The partner's end of the pair makes a primary SOLO and fences another. An item is applied
by a member that receives mirror traffic; an acknowledgement takes the oldest item off the lag, and the last of a copy ends it. A mirror in
step follows its primary's epoch; a detached primary begins a full copy at a heartbeat once Withy is kept. -/
def Obligations.PairsKeepInStep : Prop :=
  (∀ s : State, (inService s = false ∨ s.mirror.paired = false → exec .heartbeatSend s = .next s) ∧
    (inService s = true → s.mirror.paired = true → s.inject = [] → s.mirror.muteWithy = 0 → s.mirror.muteFabric = 0 →
      Completes .heartbeatSend s fun t => t.mirror = { s.mirror with hbSeq := s.mirror.hbSeq + 1 } ∧
        (∀ p ∈ withyPorts s.mirror, (cport s p).state = 5 → cwTakes s p = true → (cport t p).out.length = 1) ∧
        t = { s with mirror := t.mirror, cw := { s.cw with ports := t.cw.ports }, counters := t.counters })) ∧
  (∀ (withy : Bool) (hb : Heartbeat) (s : State), let m := s.mirror
    (inService s = false ∨ counted s withy hb = false → exec (.heartbeatReceive withy hb) s = .next s) ∧
    (inService s = true → counted s withy hb = true →
      (m.syncState = syncJoining → withy = false → Completes (.heartbeatReceive withy hb) s fun t =>
        t.mirror = noteBeat withy hb m ∧ t = { s with mirror := t.mirror, irq := t.irq }) ∧
      (m.syncState = syncJoining → withy = true → hb.role.toNat ≠ m.role → hb.paramsEqual = true → Completes (.heartbeatReceive withy hb) s fun t =>
        t.mirror.role = m.role ∧ t.mirror.syncState = syncResync ∧
        (m.role = rolePrimary → t.mirror.queue = (copyItems s).map (fun i => (i, 0)) ∧ lagOf t.mirror = 0 ∧ t.mem = s.mem) ∧
        (m.role ≠ rolePrimary → t.mirror.mirrored = [])) ∧
      (m.syncState = syncJoining → withy = true → hb.role.toNat = m.role ∨ hb.paramsEqual = false → Completes (.heartbeatReceive withy hb) s fun t =>
        t.mirror = Mirror.reset ∧ t = { s with mirror := t.mirror, irq := t.irq, peat := t.peat, cw := { s.cw with ports := t.cw.ports } }) ∧
      (m.syncState ≠ syncJoining → m.role = rolePrimary →
        epochLess m.epoch hb.epoch = true ∨ (m.split = true ∧ m.epoch = hb.epoch ∧ hb.role.toNat = rolePrimary) →
        Completes (.heartbeatReceive withy hb) s fun t => t.mirror.role = roleFenced ∧ t.mirror.epoch = m.epoch ∧
          t.mirror.syncState = (if (withy || m.withy) && hb.role.toNat == rolePrimary then syncResync else syncDetached) ∧
          t.mirror.partnerEpoch = hb.epoch ∧ t.mirror.queue = []) ∧
      (m.syncState = syncResync → m.role = roleFenced → m.split = false → hb.role.toNat = rolePrimary → hb.sync.toNat = syncInSync →
        Completes (.heartbeatReceive withy hb) s fun t => t.mirror.role = roleMirror ∧ t.mirror.syncState = syncInSync ∧
          t.mirror.epoch = hb.epoch ∧ t.mirror.resyncs = m.resyncs + 1 ∧ t.mem = s.mem) ∧
      (m.syncState = syncInSync → m.role = rolePrimary → m.split = false → epochLess m.epoch hb.epoch = false →
        Completes (.heartbeatReceive withy hb) s fun t => t.mirror = noteBeat withy hb m ∧ t = { s with mirror := t.mirror, irq := t.irq }) ∧
      (m.syncState = syncInSync → m.role = roleMirror → m.split = false → hb.role.toNat = rolePrimary →
        Completes (.heartbeatReceive withy hb) s fun t => t.mirror = { noteBeat withy hb m with epoch := hb.epoch } ∧
          t = { s with mirror := t.mirror, irq := t.irq }) ∧
      (m.syncState = syncDetached → m.role = rolePrimary → (withy || m.withy) = true → hb.role.toNat ≠ rolePrimary →
        epochLess m.epoch hb.epoch = false → Completes (.heartbeatReceive withy hb) s fun t =>
          t.mirror.role = rolePrimary ∧ t.mirror.syncState = syncResync ∧ t.mirror.queue = (copyItems s).map (fun i => (i, 0)) ∧
          t = { s with mirror := t.mirror, irq := t.irq, peat := t.peat }))) ∧
  (∀ (withy : Bool) (s : State), let m := s.mirror
    let up := inService s && m.paired && m.syncState != syncJoining && (if withy then m.withy else m.fabric)
    (up = false → exec (.pathLoss withy) s = .next s) ∧
    (up = true → withy = false → m.withy = true → exec (.pathLoss withy) s = .next { s with mirror := { m with fabric := false } }) ∧
    (up = true → withy = true → m.fabric = true → Completes (.pathLoss withy) s fun t => t.mirror =
      { m with withy := false, syncState := syncDetached, queue := [], copyLeft := 0, lagStop := false } ∧ t = { s with mirror := t.mirror, irq := t.irq, peat := t.peat }) ∧
    (up = true → (if withy then m.fabric else m.withy) = false → Completes (.pathLoss withy) s fun t => t.mirror =
      { m with withy := false, fabric := false, split := true, syncState := syncDetached, queue := [], copyLeft := 0, lagStop := false,
               role := if m.role = roleMirror then roleFenced else m.role } ∧ t = { s with mirror := t.mirror, irq := t.irq, peat := t.peat })) ∧
  (∀ s : State, (inService s = false ∨ s.mirror.paired = false → exec .pairEnd s = .next s) ∧
    (inService s = true → s.mirror.paired = true → s.mirror.role = rolePrimary → Completes .pairEnd s fun t => t.mirror = Mirror.reset ∧
      (∀ p, (cport t p).state = if p ∈ withyPorts s.mirror ∧ (cport s p).state = 5 then 4 else (cport s p).state)) ∧
    (inService s = true → s.mirror.paired = true → s.mirror.role ≠ rolePrimary → Completes .pairEnd s fun t =>
      t.mirror = { s.mirror with role := roleFenced, syncState := syncDetached } ∧
      t = { s with mirror := t.mirror, irq := t.irq, peat := t.peat })) ∧
  (∀ (item : MirrorItem) (s : State), (appliesItems s = false → exec (.mirrorItemApply item) s = .next s) ∧
    (appliesItems s = true → Completes (.mirrorItemApply item) s fun t =>
      (∀ j res, item = .job j (some res) → Tbl.get? t.jobs j = some { res := res, releasing := false } ∧ (kJob, j) ∈ t.mirror.mirrored) ∧
      (∀ r b j, item = .ring r (some b) j → Tbl.get? t.rings r = some (newRing (cmdFor b.toNat j)) ∧ (kRing, r) ∈ t.mirror.mirrored) ∧
      (∀ n b, item = .range n (some b) → Tbl.get? t.xlate.ranges n = some (bodyRange b.toNat) ∧ (kRange, n) ∈ t.mirror.mirrored) ∧
      (∀ n, item = .range n none → (kRange, n) ∉ t.mirror.mirrored ∧ t.xlate.ranges = Tbl.del s.xlate.ranges n) ∧
      (∀ root on key, item = .paged root on key → t.xlate.root = root.toNat ∧ t.xlate.enable = on ∧ t.xlate.tableKey = key.toNat) ∧
      (∀ k b j, item = .stream k (some b) j → (kStream, k) ∈ t.mirror.mirrored ∧ ∃ x, Tbl.get? t.streams k = some x ∧ x.job = j) ∧
      (∀ c e b, item = .binding c e (some b) → (kBinding, bindKey c e) ∈ t.mirror.mirrored ∧
        Tbl.get? t.bindings (bindKey c e) = some (newBinding s b.toNat)) ∧
      (∀ w b j, item = .window w (some b) j → (kWindow, w) ∈ t.mirror.mirrored ∧ ∃ x, windowAt t w = some x ∧ x.job = j ∧ x.state = fld b.toNat 227 3) ∧
      (∀ p n j fc cc pm, item = .mereAlloc p n j fc cc pm → (kAlloc, p) ∈ t.mirror.mirrored ∧
        ∃ x, Tbl.get? t.allocs p = some x ∧ x.pages = n ∧ x.job = j ∧ x.firstCore = fc ∧ x.coreCount = cc ∧ x.perm = pm) ∧
      (∀ a data, item = .mereWrite a data → zeroForm s.mem.mere = true → zeroBytes t.mem.mere a data.length = data ∧
        ∀ b, b < a ∨ a + data.length ≤ b → zeroGet t.mem.mere b = zeroGet s.mem.mere b) ∧
      (∀ pa key data, item = .stackWrite pa key data → t.mem = stackPutAll (material s key.toNat) s.mem pa data) ∧
      t.fuses = s.fuses ∧ t.peat = s.peat)) ∧
  ∀ s : State, let m := s.mirror
    (inService s = false ∨ mirrors s = false ∨ m.queue = [] → exec .mirrorAck s = .next s) ∧
    (inService s = true → mirrors s = true → m.queue ≠ [] → Completes .mirrorAck s fun t =>
      t.mirror.queue = m.queue.drop 1 ∧ t.mirror.copyLeft = m.copyLeft - 1 ∧ t.mirror.role = m.role ∧
      lagOf t.mirror = lagOf m - ((m.queue.head?.map Prod.snd).getD 0) ∧
      (m.syncState = syncResync ∧ m.copyLeft ≤ 1 → t.mirror.syncState = syncInSync ∧ t.mirror.resyncs = m.resyncs + 1) ∧
      (¬ (m.syncState = syncResync ∧ m.copyLeft ≤ 1) → t.mirror.syncState = m.syncState ∧ t = { s with mirror := t.mirror }))

/-- Heat, power and age (R484, R485, R487, R507 to R517): an estimate moves the power demand by the rule, and notes what POWER_QUERY shows; a
sensor reading moves the thermal demand, with its cause; at 125 degrees the complex shuts down as at a falling RST_N. Sensors are read
while there is power, and monitors before Hexob too (log entry 81). Readings of monitors make a plan where one has drifted, and so do
1,000 further hours; in service a plan lowers no target, and an offset rises a step at a time to its target. The writer takes the pending
record whose turn it is and appends it, until Peat is full; an OPND_NRDY bit is held no longer for a record that has been taken. -/
def Obligations.HeatPowerAgeAndPeat : Prop :=
  (∀ (r : PowerReading) (s : State), (blockUp s = false ∨ s.bring.hexob = false → exec (.powerEstimate r) s = .next s) ∧
    (blockUp s = true → s.bring.hexob = true → Completes (.powerEstimate r) s fun t => let p := s.power
      t.power.p1 = r.p1 ∧ t.power.p1Max = max p.p1Max r.p1 ∧ t.power.powerW = r.avg10 ∧ t.power.classes = r.classes ∧
      t.power.tP = (if p.capW < r.p1 then min 16 (p.tP + max 1 (ceilDiv (16 * (r.p1 - p.capW)) p.capW))
        else if 100 * r.p1 < 92 * p.capW then p.tP - 1 else p.tP) ∧
      t.power.t = max t.power.tP p.tT ∧ t.power.tMax = max p.tMax t.power.t ∧ t.power.tT = p.tT ∧
      t.power.throttleUs = p.throttleUs + (if 0 < max p.tP p.tT then 100 else 0) ∧
      t.power.fullUs = p.fullUs + (if max p.tP p.tT = 16 then 100 else 0) ∧
      t.power.episodes = p.episodes + (if max p.tP p.tT = 0 ∧ t.power.t ≠ 0 then 1 else 0) ∧
      (max p.tP p.tT = 0 → t.power.t ≠ 0 → ∀ g, s.irq.groups[7]? = some g → ∃ h, t.irq.groups[7]? = some h ∧ h.cause.getLsbD 2 = true) ∧
      t = { s with power := t.power, irq := t.irq })) ∧
  (∀ (l : List TempReading) (s : State), (s.bring.pwrOk = false → exec (.thermalSensorRead l) s = .next s) ∧
    (s.bring.pwrOk = true → (blockUp s && s.bring.hexob) = false →
      exec (.thermalSensorRead l) s = .next (noteTemps (sensorReads s l) s)) ∧
    (blockUp s = true → s.bring.pwrOk = true → s.bring.hexob = true →
      let temps := (sensorReads s l).foldl (fun (t : Tbl Int) e => Tbl.put t e.1 e.2) s.power.temps
      let h := (hottest temps).2
      let p := s.power
      (125 ≤ h → Completes (.thermalSensorRead l) s fun t => t.bring.shutdown = true ∧ t.bring.stage = State.reset.bring.stage ∧
        t.streams = [] ∧ t.rings = [] ∧ t.jobs = [] ∧ t.fuses = s.fuses ∧ t.straps = s.straps ∧ t.peat.online = false ∧
        t.peat.records.length ≥ s.peat.records.length) ∧
      (h < 125 → Completes (.thermalSensorRead l) s fun t => t.power.temps = temps ∧ t.power.hotTemp = h ∧
        t.power.tT = (if tripTemp p.profile ≤ h then 16 else if throttleTemp p.profile ≤ h then min 16 (p.tT + 1)
          else if h ≤ throttleTemp p.profile - 3 then p.tT - 1 else p.tT) ∧
        t.power.tP = p.tP ∧ t.power.t = max p.tP t.power.tT ∧
        (throttleTemp p.profile ≤ h → ∀ g, s.irq.groups[7]? = some g → ∃ k, t.irq.groups[7]? = some k ∧ k.cause.getLsbD 0 = true) ∧
        t = { s with power := t.power, irq := t.irq, peat := t.peat }))) ∧
  (∀ (l : List MonReading) (s : State), let u := { s with power := l.foldl noteReading s.power }
    (blockUp s = false → exec (.monitorRead l) s = .next s) ∧
    (blockUp s = true → s.bring.hexob = false ∨ drifted u = false → exec (.monitorRead l) s = .next u) ∧
    (blockUp s = true → s.bring.hexob = true → drifted u = true → Completes (.monitorRead l) s fun t =>
      t.power.plan = s.power.plan + 1 ∧ t.power.mons = u.power.mons ∧ t.power.oscs = u.power.oscs ∧ t.power.driftInj = [] ∧
      (s.bring.stage = 5 → ∀ i < 225, (planOf s i).target ≤ (planOf t i).target ∧ (planOf t i).offset = (planOf s i).offset) ∧
      (∀ g, s.irq.groups[7]? = some g → ∃ h, t.irq.groups[7]? = some h ∧ h.cause.getLsbD 1 = true) ∧
      t = { s with power := t.power, irq := t.irq, peat := t.peat })) ∧
  (∀ s : State, (inService s = false → exec .operatingHours s = .next s) ∧
    (inService s = true → Completes .operatingHours s fun t => t.power.hours = s.power.hours + 1000 ∧ t.power.plan = s.power.plan + 1 ∧
      (s.bring.stage = 5 → ∀ i < 225, (planOf s i).target ≤ (planOf t i).target ∧ (planOf t i).offset = (planOf s i).offset) ∧
      t = { s with power := t.power, irq := t.irq, peat := t.peat })) ∧
  (∀ (i : Fin 225) (s : State), let x := planOf s i
    let up := blockUp s && s.bring.stage == 5 && decide (x.offset < x.target)
    (up = false → exec (.offsetStep i) s = .next s) ∧
    (up = true → Completes (.offsetStep i) s fun t => (planOf t i).offset = x.offset + 1 ∧ (planOf t i).target = x.target ∧
      (x.offset + 1 = x.target → (planOf t i).bin = x.binTarget) ∧
      (∀ j, j ≠ i.val → planOf t j = planOf s j) ∧ t.power = { s.power with plans := t.power.plans } ∧
      t = { s with power := t.power, mbox := t.mbox, freeTick := t.freeTick, peat := t.peat, irq := t.irq, inject := t.inject,
                   counters := t.counters })) ∧
  ∀ s : State, (blockUp s = false ∨ s.peat.online = false → exec .peatWriterTake s = .next s) ∧
    (blockUp s = true → s.peat.online = true → s.peat.pick = none → exec .peatWriterTake s = .next (freeNrdy (recordTaken s.peat) s)) ∧
    ∀ e, blockUp s = true → s.peat.online = true → s.peat.pick = some e → s.inject = [] → Completes .peatWriterTake s fun t =>
      (s.peat.full = none → s.peat.fill + e.record.size ≤ 0x100000 - 8 →
        t.peat.records = s.peat.records ++ [{ e.record with seq := s.peat.nextSeq }] ∧ t.peat.nextSeq = s.peat.nextSeq + 1 ∧
        t.peat.appended = s.peat.appended + 1 ∧ t.peat.full = none) ∧
      (s.peat.full = none → 0x100000 - 8 < s.peat.fill + e.record.size → t.peat.full = some s.peat.nextSeq ∧
        t.peat.records = s.peat.records ∧ t.peat.refused = s.peat.refused + 1 ∧
        ∀ g, s.irq.groups[8]? = some g → ∃ h, t.irq.groups[8]? = some h ∧ h.cause.getLsbD 0 = true) ∧
      (∀ n, s.peat.full = some n → t.peat.records = s.peat.records ∧ t.peat.full = some n ∧ t.peat.refused = s.peat.refused + 1) ∧
      t.peat.pend = s.peat.pend.filter (fun x => x.id != e.id) ∧ t.peat.rr = e.record.island ∧
      (∀ p x, Tbl.get? t.ports p = some x → ∀ h ∈ x.nrdyHeld, recordTaken t.peat h.2 = false) ∧
      t = { s with peat := t.peat, irq := t.irq, ports := t.ports }
end
end

