-- ==== Sys2Proof/Laws/State.lean ====
section
/-! SUPPORT. How updates of a field read back: what is still, and the byte memories. -/

namespace Sys2Proof.Machine

/-! What is still, read from a state written out, and folded back. -/

variable (s : State)

@[simp] theorem still_mk (pending : List Instr) (straps : Straps) (fuses : Fuses) (bring : Bringup) (tap : Tap) (hrp : Hrp) (mbox : List
    Mbox) (cmdSeq : Word32) (irq : Irq) (peat : Peat) (counters : Tbl Word64) (inject : List Arming) (clk : Clk)
    (wedged : List Fn) (resets : List ResetRun) (jobs : Tbl Job) (cores : Tbl CoreEntry) (rings : Tbl Ring) (streams
    : Tbl Stream) (streamGen : Tbl Nat) (ctxCache : Tbl (List Nat)) (ctxReads : List Nat) (admission : Tbl (List
    Nat)) (slots : Tbl Slot) (movers : Tbl Mover) (bursts : Tbl Burst) (nextBurst : Nat) (notices : List Notice)
    (xlate : Xlate) (mem : MemSys) (stackTbl : Tbl Stack) (ports : Tbl Port) (expanders : Tbl Expander) (keys : Tbl
    KeySlot) (tables : Tbl TblSlot) (tableGen : Tbl Nat) (bases : Tbl Base) (quants : Tbl Quantiser) (bindings : Tbl
    Binding) (allocs : Tbl MereAlloc) (queues : Tbl Queue) (queueGen : Tbl Nat) (queueCnt : Tbl (List Word64))
    (slices : Tbl Slice) (cw : Causeway) (mirror : Mirror) (power : Power) (freeTick : Nat) :
    (State.mk pending straps fuses bring tap hrp mbox cmdSeq irq peat counters inject clk wedged resets jobs cores
    rings streams streamGen ctxCache ctxReads admission slots movers bursts nextBurst notices xlate mem stackTbl ports
    expanders keys tables tableGen bases quants bindings allocs queues queueGen queueCnt slices cw mirror power
    freeTick).still =
      ⟨pending, straps, fuses, tap, clk, cmdSeq, keys, jobs, wedged, mbox.length, irq.groups.length⟩ := rfl

@[simp] theorem still_eta : Still.mk s.pending s.straps s.fuses s.tap s.clk s.cmdSeq s.keys s.jobs s.wedged s.mbox.length
    s.irq.groups.length = s.still := rfl

@[simp] theorem cells_mk (pending : List Instr) (straps : Straps) (fuses : Fuses) (bring : Bringup) (tap : Tap) (hrp : Hrp) (mbox : List
    Mbox) (cmdSeq : Word32) (irq : Irq) (peat : Peat) (counters : Tbl Word64) (inject : List Arming) (clk : Clk)
    (wedged : List Fn) (resets : List ResetRun) (jobs : Tbl Job) (cores : Tbl CoreEntry) (rings : Tbl Ring) (streams
    : Tbl Stream) (streamGen : Tbl Nat) (ctxCache : Tbl (List Nat)) (ctxReads : List Nat) (admission : Tbl (List
    Nat)) (slots : Tbl Slot) (movers : Tbl Mover) (bursts : Tbl Burst) (nextBurst : Nat) (notices : List Notice)
    (xlate : Xlate) (mem : MemSys) (stackTbl : Tbl Stack) (ports : Tbl Port) (expanders : Tbl Expander) (keys : Tbl
    KeySlot) (tables : Tbl TblSlot) (tableGen : Tbl Nat) (bases : Tbl Base) (quants : Tbl Quantiser) (bindings : Tbl
    Binding) (allocs : Tbl MereAlloc) (queues : Tbl Queue) (queueGen : Tbl Nat) (queueCnt : Tbl (List Word64))
    (slices : Tbl Slice) (cw : Causeway) (mirror : Mirror) (power : Power) (freeTick : Nat) :
    (State.mk pending straps fuses bring tap hrp mbox cmdSeq irq peat counters inject clk wedged resets jobs cores
    rings streams streamGen ctxCache ctxReads admission slots movers bursts nextBurst notices xlate mem stackTbl ports
    expanders keys tables tableGen bases quants bindings allocs queues queueGen queueCnt slices cw mirror power
    freeTick).cells =
      ⟨mem.stack, mem.hostOut, mem.mere, bring.image⟩ := rfl

@[simp] theorem cells_eta : Cells.mk s.mem.stack s.mem.hostOut s.mem.mere s.bring.image = s.cells := rfl

/-! The fields that are not still and hold no byte memory: one lemma each. -/

@[simp] theorem cells_pending (v : List Instr) : State.cells { s with pending := v } = s.cells := rfl
@[simp] theorem cells_straps (v : Straps) : State.cells { s with straps := v } = s.cells := rfl
@[simp] theorem cells_fuses (v : Fuses) : State.cells { s with fuses := v } = s.cells := rfl
@[simp] theorem still_bring (v : Bringup) : State.still { s with bring := v } = s.still := rfl
@[simp] theorem cells_tap (v : Tap) : State.cells { s with tap := v } = s.cells := rfl
@[simp] theorem still_hrp (v : Hrp) : State.still { s with hrp := v } = s.still := rfl
@[simp] theorem cells_hrp (v : Hrp) : State.cells { s with hrp := v } = s.cells := rfl
@[simp] theorem cells_mbox (v : List Mbox) : State.cells { s with mbox := v } = s.cells := rfl
@[simp] theorem cells_cmdSeq (v : Word32) : State.cells { s with cmdSeq := v } = s.cells := rfl
@[simp] theorem cells_irq (v : Irq) : State.cells { s with irq := v } = s.cells := rfl
@[simp] theorem still_peat (v : Peat) : State.still { s with peat := v } = s.still := rfl
@[simp] theorem cells_peat (v : Peat) : State.cells { s with peat := v } = s.cells := rfl
@[simp] theorem still_counters (v : Tbl Word64) : State.still { s with counters := v } = s.still := rfl
@[simp] theorem cells_counters (v : Tbl Word64) : State.cells { s with counters := v } = s.cells := rfl
@[simp] theorem still_inject (v : List Arming) : State.still { s with inject := v } = s.still := rfl
@[simp] theorem cells_inject (v : List Arming) : State.cells { s with inject := v } = s.cells := rfl
@[simp] theorem cells_clk (v : Clk) : State.cells { s with clk := v } = s.cells := rfl
@[simp] theorem cells_wedged (v : List Fn) : State.cells { s with wedged := v } = s.cells := rfl
@[simp] theorem still_resets (v : List ResetRun) : State.still { s with resets := v } = s.still := rfl
@[simp] theorem cells_resets (v : List ResetRun) : State.cells { s with resets := v } = s.cells := rfl
@[simp] theorem cells_jobs (v : Tbl Job) : State.cells { s with jobs := v } = s.cells := rfl
@[simp] theorem still_cores (v : Tbl CoreEntry) : State.still { s with cores := v } = s.still := rfl
@[simp] theorem cells_cores (v : Tbl CoreEntry) : State.cells { s with cores := v } = s.cells := rfl
@[simp] theorem still_rings (v : Tbl Ring) : State.still { s with rings := v } = s.still := rfl
@[simp] theorem cells_rings (v : Tbl Ring) : State.cells { s with rings := v } = s.cells := rfl
@[simp] theorem still_streams (v : Tbl Stream) : State.still { s with streams := v } = s.still := rfl
@[simp] theorem cells_streams (v : Tbl Stream) : State.cells { s with streams := v } = s.cells := rfl
@[simp] theorem still_streamGen (v : Tbl Nat) : State.still { s with streamGen := v } = s.still := rfl
@[simp] theorem cells_streamGen (v : Tbl Nat) : State.cells { s with streamGen := v } = s.cells := rfl
@[simp] theorem still_ctxCache (v : Tbl (List Nat)) : State.still { s with ctxCache := v } = s.still := rfl
@[simp] theorem cells_ctxCache (v : Tbl (List Nat)) : State.cells { s with ctxCache := v } = s.cells := rfl
@[simp] theorem still_ctxReads (v : List Nat) : State.still { s with ctxReads := v } = s.still := rfl
@[simp] theorem cells_ctxReads (v : List Nat) : State.cells { s with ctxReads := v } = s.cells := rfl
@[simp] theorem still_admission (v : Tbl (List Nat)) : State.still { s with admission := v } = s.still := rfl
@[simp] theorem cells_admission (v : Tbl (List Nat)) : State.cells { s with admission := v } = s.cells := rfl
@[simp] theorem still_slots (v : Tbl Slot) : State.still { s with slots := v } = s.still := rfl
@[simp] theorem cells_slots (v : Tbl Slot) : State.cells { s with slots := v } = s.cells := rfl
@[simp] theorem still_movers (v : Tbl Mover) : State.still { s with movers := v } = s.still := rfl
@[simp] theorem cells_movers (v : Tbl Mover) : State.cells { s with movers := v } = s.cells := rfl
@[simp] theorem still_bursts (v : Tbl Burst) : State.still { s with bursts := v } = s.still := rfl
@[simp] theorem cells_bursts (v : Tbl Burst) : State.cells { s with bursts := v } = s.cells := rfl
@[simp] theorem still_nextBurst (v : Nat) : State.still { s with nextBurst := v } = s.still := rfl
@[simp] theorem cells_nextBurst (v : Nat) : State.cells { s with nextBurst := v } = s.cells := rfl
@[simp] theorem still_notices (v : List Notice) : State.still { s with notices := v } = s.still := rfl
@[simp] theorem cells_notices (v : List Notice) : State.cells { s with notices := v } = s.cells := rfl
@[simp] theorem still_xlate (v : Xlate) : State.still { s with xlate := v } = s.still := rfl
@[simp] theorem cells_xlate (v : Xlate) : State.cells { s with xlate := v } = s.cells := rfl
@[simp] theorem still_mem (v : MemSys) : State.still { s with mem := v } = s.still := rfl
@[simp] theorem still_stacks (v : Tbl Stack) : State.still { s with stackTbl := v } = s.still := rfl
@[simp] theorem cells_stacks (v : Tbl Stack) : State.cells { s with stackTbl := v } = s.cells := rfl
@[simp] theorem still_ports (v : Tbl Port) : State.still { s with ports := v } = s.still := rfl
@[simp] theorem cells_ports (v : Tbl Port) : State.cells { s with ports := v } = s.cells := rfl
@[simp] theorem still_expanders (v : Tbl Expander) : State.still { s with expanders := v } = s.still := rfl
@[simp] theorem cells_expanders (v : Tbl Expander) : State.cells { s with expanders := v } = s.cells := rfl
@[simp] theorem cells_keys (v : Tbl KeySlot) : State.cells { s with keys := v } = s.cells := rfl
@[simp] theorem still_tables (v : Tbl TblSlot) : State.still { s with tables := v } = s.still := rfl
@[simp] theorem cells_tables (v : Tbl TblSlot) : State.cells { s with tables := v } = s.cells := rfl
@[simp] theorem still_tableGen (v : Tbl Nat) : State.still { s with tableGen := v } = s.still := rfl
@[simp] theorem cells_tableGen (v : Tbl Nat) : State.cells { s with tableGen := v } = s.cells := rfl
@[simp] theorem still_bases (v : Tbl Base) : State.still { s with bases := v } = s.still := rfl
@[simp] theorem cells_bases (v : Tbl Base) : State.cells { s with bases := v } = s.cells := rfl
@[simp] theorem still_quants (v : Tbl Quantiser) : State.still { s with quants := v } = s.still := rfl
@[simp] theorem cells_quants (v : Tbl Quantiser) : State.cells { s with quants := v } = s.cells := rfl
@[simp] theorem still_bindings (v : Tbl Binding) : State.still { s with bindings := v } = s.still := rfl
@[simp] theorem cells_bindings (v : Tbl Binding) : State.cells { s with bindings := v } = s.cells := rfl
@[simp] theorem still_allocs (v : Tbl MereAlloc) : State.still { s with allocs := v } = s.still := rfl
@[simp] theorem cells_allocs (v : Tbl MereAlloc) : State.cells { s with allocs := v } = s.cells := rfl
@[simp] theorem still_queues (v : Tbl Queue) : State.still { s with queues := v } = s.still := rfl
@[simp] theorem cells_queues (v : Tbl Queue) : State.cells { s with queues := v } = s.cells := rfl
@[simp] theorem still_queueGen (v : Tbl Nat) : State.still { s with queueGen := v } = s.still := rfl
@[simp] theorem cells_queueGen (v : Tbl Nat) : State.cells { s with queueGen := v } = s.cells := rfl
@[simp] theorem still_queueCnt (v : Tbl (List Word64)) : State.still { s with queueCnt := v } = s.still := rfl
@[simp] theorem cells_queueCnt (v : Tbl (List Word64)) : State.cells { s with queueCnt := v } = s.cells := rfl
@[simp] theorem still_slices (v : Tbl Slice) : State.still { s with slices := v } = s.still := rfl
@[simp] theorem cells_slices (v : Tbl Slice) : State.cells { s with slices := v } = s.cells := rfl
@[simp] theorem still_cw (v : Causeway) : State.still { s with cw := v } = s.still := rfl
@[simp] theorem cells_cw (v : Causeway) : State.cells { s with cw := v } = s.cells := rfl
@[simp] theorem still_mirror (v : Mirror) : State.still { s with mirror := v } = s.still := rfl
@[simp] theorem cells_mirror (v : Mirror) : State.cells { s with mirror := v } = s.cells := rfl
@[simp] theorem still_power (v : Power) : State.still { s with power := v } = s.still := rfl
@[simp] theorem cells_power (v : Power) : State.cells { s with power := v } = s.cells := rfl
@[simp] theorem still_freeTick (v : Nat) : State.still { s with freeTick := v } = s.still := rfl
@[simp] theorem cells_freeTick (v : Nat) : State.cells { s with freeTick := v } = s.cells := rfl

@[simp] theorem sansJobs_mk (j : Tbl Job) (k : Tbl KeySlot) :
    (Still.mk s.pending s.straps s.fuses s.tap s.clk s.cmdSeq k j s.wedged s.mbox.length s.irq.groups.length).sansJobs =
      s.still.sansJobs := rfl

@[simp] theorem sansJobs_ite (p : Prop) [Decidable p] (a b : Still) :
    (if p then a else b).sansJobs = if p then a.sansJobs else b.sansJobs := by split <;> rfl

/-! The parts of what is still. -/

theorem still_ext {s t : State} (h : t.still = s.still) :
    t.pending = s.pending ∧ t.straps = s.straps ∧ t.fuses = s.fuses ∧ t.tap = s.tap ∧ t.clk = s.clk ∧ t.cmdSeq = s.cmdSeq ∧
      t.keys = s.keys ∧ t.jobs = s.jobs ∧ t.wedged = s.wedged ∧ t.mbox.length = s.mbox.length ∧
      t.irq.groups.length = s.irq.groups.length :=
  ⟨congrArg Still.pending h, congrArg Still.straps h, congrArg Still.fuses h, congrArg Still.tap h, congrArg Still.clk h,
    congrArg Still.cmdSeq h, congrArg Still.keys h, congrArg Still.jobs h, congrArg Still.wedged h,
    congrArg Still.mailboxes h, congrArg Still.groups h⟩

/-- The canonical form is a matter of the byte memories alone. -/
theorem wf_cells : Memory.wf s = s.cells.wf := rfl

/-! Lists and folds. -/

@[simp] theorem updAt_length {α : Type} (l : List α) (i : Nat) (f : α → α) : (updAt l i f).length = l.length := by
  unfold updAt; split <;> simp

@[simp] theorem still_ite (p : Prop) [Decidable p] (a b : State) :
    (if p then a else b).still = if p then a.still else b.still := by split <;> rfl

@[simp] theorem cells_ite (p : Prop) [Decidable p] (a b : State) :
    (if p then a else b).cells = if p then a.cells else b.cells := by split <;> rfl

theorem foldl_still {α : Type} (f : State → α → State) (h : ∀ t x, (f t x).still = t.still) (l : List α) :
    (l.foldl f s).still = s.still := by
  induction l generalizing s with
  | nil => rfl
  | cons x xs ih => simp [ih, h]

theorem foldl_sans {α : Type} (f : State → α → State) (h : ∀ t x, (f t x).still.sansJobs = t.still.sansJobs) (l : List α) :
    (l.foldl f s).still.sansJobs = s.still.sansJobs := by
  induction l generalizing s with
  | nil => rfl
  | cons x xs ih => simp [ih, h]

theorem foldl_cells {α : Type} (f : State → α → State) (h : ∀ t x, (f t x).cells = t.cells) (l : List α) :
    (l.foldl f s).cells = s.cells := by
  induction l generalizing s with
  | nil => rfl
  | cons x xs ih => simp [ih, h]

end Sys2Proof.Machine
end

