-- ==== Sys2Proof/Laws/Answer.lean ====
section
/-! SUPPORT. What a mailbox row that is accepted answers, said once for all of them: the response, and that nothing but
the reply is added to the effect. -/

namespace Sys2Proof.Machine

/-! Reports. -/

theorem ButReports.refl (s : State) : ButReports s s := rfl

theorem ButReports.trans {a b c : State} (h : ButReports a b) (g : ButReports b c) : ButReports a c := by
  unfold ButReports at *
  rw [g, h]

theorem setCause_reports (g b : Nat) (s : State) : ButReports s (setCause g b s) := rfl
theorem bump_reports (g u i n : Nat) (s : State) : ButReports s (bump g u i n s) := rfl

theorem setGroupIf_fields (q : Irq) (c : Bool) (g b : Nat) :
    q.setGroupIf c g b = { q with groups := (q.setGroupIf c g b).groups } := by
  cases c <;> rfl

theorem offer_reports (n : Option Nat) (r : PeatRec) (s : State) : ButReports s (offer n r s) := by
  exact congrArg (fun q => { s with irq := q, peat := (s.peat.offer n r).peat }) (setGroupIf_fields ..)

theorem injEvent_reports (l : List Nat) (u lev isl : Nat) (s : State) : ButReports s (injEvent l u lev isl s) := by
  unfold injEvent
  split
  · exact .refl s
  · rename_i a _
    have h : ButReports s { s with inject := injSpend s.inject a } := rfl
    dsimp only
    split
    · exact ((h.trans (offer_reports _ _ _)).trans (bump_reports ..)).trans (setCause_reports ..)
    · exact h

theorem peatCauses_fields (a b : Peat) (q : Irq) : peatCauses a b q = { q with groups := (peatCauses a b q).groups } := by
  unfold peatCauses
  rw [setGroupIf_fields, setGroupIf_fields q]

theorem peatWrite_reports (r : PeatRec) (s : State) : ButReports s (peatWrite r s) := by
  unfold peatWrite
  dsimp only
  split
  · exact (injEvent_reports [0x0037] 0 3 islMgmt s).trans rfl
  · have h : ∀ c : Bool, ButReports s (if c then s else injEvent [0x0037] 0 3 islMgmt s) := fun c => by
      cases c
      · exact injEvent_reports ..
      · exact .refl s
    have h := h (r.typ == 0x0B0 && r.key.head? == some 0x0037 || s.peat.full.isSome)
    generalize (if (r.typ == 0x0B0 && r.key.head? == some 0x0037 || s.peat.full.isSome) = true then s
      else injEvent [0x0037] 0 3 islMgmt s) = u at h ⊢
    refine h.trans ?_
    exact congrArg (fun q => { u with irq := q, peat := u.peat.append r }) (peatCauses_fields ..)

theorem peatFlush_reports (isl n : Nat) (s : State) : ButReports s (peatFlush isl n s) := by
  induction n generalizing s with
  | zero => exact .refl s
  | succ n ih =>
    unfold peatFlush
    split
    · rename_i e _
      have h : ButReports s { s with peat := s.peat.drop e } := rfl
      exact (h.trans (peatWrite_reports ..)).trans (ih _)
    · exact .refl s

theorem peatNow_reports (r : PeatRec) (s : State) : ButReports s (peatNow r s) := by
  unfold peatNow
  split
  · split
    · exact (offer_reports _ _ _).trans (peatFlush_reports ..)
    · have h := peatFlush_reports islMgmt 8 s
      dsimp only
      split
      · split
        · exact h.trans (offer_reports ..)
        · exact h.trans (peatWrite_reports ..)
      · exact h.trans (peatWrite_reports ..)
  · exact offer_reports ..

theorem peatAll_reports (l : List PeatRec) (s : State) : ButReports s (peatAll l s) := by
  induction l generalizing s with
  | nil => exact .refl s
  | cons r l ih => exact (peatNow_reports r s).trans (ih _)

theorem reportClamps_reports (m : Nat) (b : Mbox) (cl : List Clamp) (s : State) : ButReports s (reportClamps m b cl s) := by
  unfold reportClamps
  split
  · exact .refl s
  · exact (peatAll_reports ..).trans (setCause_reports ..)

theorem hexobReads_reports (s : State) : ButReports s (hexobReads s) := by
  unfold hexobReads
  split
  · exact ((injEvent_reports ..).trans (offer_reports ..)).trans (setCause_reports ..)
  · exact injEvent_reports ..

theorem seen_reports (k : CmdSpec) (s : State) : ButReports s (seen k s) := by
  unfold seen
  split
  · exact .refl s
  · exact hexobReads_reports s

theorem ButReports.mbox {s t : State} (h : ButReports s t) : t.mbox = s.mbox := by
  unfold ButReports at h
  rw [h]

theorem ButReports.reply {s t : State} (m : Nat) (h : ButReports s t) : ButReply m s t := by
  refine ⟨?_, by rw [h.mbox], fun k _ => by rw [h.mbox]⟩
  unfold ButReports at h
  rw [h]

theorem ButReply.trans {m : Nat} {a b c : State} (h : ButReply m a b) (g : ButReply m b c) : ButReply m a c := by
  refine ⟨?_, g.2.1.trans h.2.1, fun k hk => (g.2.2 k hk).trans (h.2.2 k hk)⟩
  have h1 := h.1
  have g1 := g.1
  rw [g1, h1]

/-! Mailboxes. -/

theorem updAt_get_ne {α : Type} (l : List α) (i k : Nat) (f : α → α) (h : k ≠ i) : (updAt l i f)[k]? = l[k]? := by
  unfold updAt
  split
  · simp [Ne.symm h]
  · rfl

theorem updAt_get_eq {α : Type} (l : List α) (i : Nat) (f : α → α) (v : α) (h : l[i]? = some v) :
    (updAt l i f)[i]? = some (f v) := by
  unfold updAt
  rw [h]
  obtain ⟨hi, -⟩ := List.getElem?_eq_some_iff.mp h
  simp [hi]

theorem updBox_reply (m : Nat) (f : Mbox → Mbox) (n : Nat) (s : State) :
    ButReply m s { s with mbox := updAt s.mbox m f, freeTick := n } :=
  ⟨rfl, by simp, fun k hk => updAt_get_ne _ _ _ _ hk⟩

theorem keepClamps_reply (m : Nat) (cl : List Clamp) (s : State) : ButReply m s (keepClamps m cl s) :=
  updBox_reply m _ s.freeTick s

theorem respond_reply (m st f e len bits : Nat) (s : State) : ButReply m s (respond m st f e len bits s) := by
  unfold respond
  split
  · exact (ButReports.refl s).reply m
  · exact ((reportClamps_reports ..).reply m).trans (updBox_reply m _ _ _)

/-! Fields of a response. -/

theorem pack_lt (l : List (Nat × Nat)) : pack l < 2 ^ (l.map Prod.fst).sum := by
  induction l with
  | nil => simp [pack]
  | cons x l ih =>
    obtain ⟨w, v⟩ := x
    simp only [pack, List.map_cons, List.sum_cons, Nat.shiftLeft_eq]
    have h1 : v % 2 ^ w < 2 ^ w := Nat.mod_lt _ (Nat.two_pow_pos w)
    have h2 : (pack l + 1) * 2 ^ w ≤ 2 ^ (List.map Prod.fst l).sum * 2 ^ w := Nat.mul_le_mul_right _ ih
    rw [Nat.pow_add, Nat.mul_comm (2 ^ w)]
    rw [Nat.add_mul, Nat.one_mul] at h2
    omega

/-- A field above the first of a packed list. -/
theorem fld_pack_skip (w v lo n : Nat) (l : List (Nat × Nat)) : fld (pack ((w, v) :: l)) (w + lo) n = fld (pack l) lo n := by
  simp only [fld, pack, Nat.shiftRight_add, Nat.shiftLeft_eq]
  congr 2
  rw [Nat.shiftRight_eq_div_pow, Nat.add_mul_div_right _ _ (Nat.two_pow_pos w),
    Nat.div_eq_of_lt (Nat.mod_lt _ (Nat.two_pow_pos w)), Nat.zero_add]

/-- The first field of a packed list. -/
theorem fld_pack_head (w v : Nat) (l : List (Nat × Nat)) : fld (pack ((w, v) :: l)) 0 w = v % 2 ^ w := by
  simp [fld, pack, Nat.shiftLeft_eq, Nat.add_mul_mod_self_right]

/-- The field after the fields of `a`. -/
theorem fld_pack_at (a : List (Nat × Nat)) (w v : Nat) (l : List (Nat × Nat)) :
    fld (pack (a ++ (w, v) :: l)) (a.map Prod.fst).sum w = v % 2 ^ w := by
  induction a with
  | nil => exact fld_pack_head w v l
  | cons x a ih =>
    obtain ⟨y, z⟩ := x
    simp only [List.cons_append, List.map_cons, List.sum_cons]
    rw [fld_pack_skip]
    exact ih

/-- A field that lies wholly below a part added above it. -/
theorem fld_low (x y lo w n : Nat) (h : lo + w ≤ n) : fld (x + (y <<< n)) lo w = fld x lo w := by
  obtain ⟨k, rfl⟩ := Nat.exists_eq_add_of_le h
  simp only [fld, Nat.shiftLeft_eq, Nat.shiftRight_eq_div_pow]
  rw [Nat.add_assoc, Nat.pow_add, ← Nat.mul_assoc, Nat.mul_right_comm, Nat.add_mul_div_right _ _ (Nat.two_pow_pos lo),
    Nat.pow_add, ← Nat.mul_assoc, Nat.mul_right_comm, Nat.add_mul_mod_self_right]

theorem fld_mod (x lo w n : Nat) (h : lo + w ≤ n) : fld (x % 2 ^ n) lo w = fld x lo w := by
  obtain ⟨k, rfl⟩ := Nat.exists_eq_add_of_le h
  simp only [fld, Nat.shiftRight_eq_div_pow]
  rw [Nat.add_assoc, Nat.pow_add, Nat.mod_mul_right_div_self, Nat.pow_add, Nat.mod_mul_right_mod]

theorem fld_high (x y n w : Nat) (h : x < 2 ^ n) : fld (x + (y <<< n)) n w = y % 2 ^ w := by
  simp only [fld, Nat.shiftLeft_eq, Nat.shiftRight_eq_div_pow]
  rw [Nat.add_mul_div_right _ _ (Nat.two_pow_pos n), Nat.div_eq_of_lt h, Nat.zero_add]

theorem rspHdr_lt (b : Mbox) (st f e len c : Nat) (o : Bool) (q : Nat) : rspHdr b st f e len c o q < 2 ^ 256 := by
  unfold rspHdr
  refine Nat.lt_of_lt_of_le (pack_lt _) (Nat.pow_le_pow_right (by omega) ?_)
  simp only [List.map_cons, List.map_nil, List.sum_cons, List.sum_nil]
  omega

/-- The first `len` bytes of a response body are the result. -/
theorem rspBody_low (len bits : Nat) (cl : List Clamp) (free : BitVec 1792) :
    rspBody len bits cl free % 2 ^ (8 * len) = bits % 2 ^ (8 * len) := by
  have hoff : ∃ d, ceilDiv len 8 * 8 = len + d := ⟨ceilDiv len 8 * 8 - len, by unfold ceilDiv; omega⟩
  obtain ⟨d, hd⟩ := hoff
  have hused : ∃ u, (if cl.isEmpty then len else ceilDiv len 8 * 8 + 24 * cl.length) = len + u := by
    split
    · exact ⟨0, rfl⟩
    · exact ⟨d + 24 * cl.length, by omega⟩
  obtain ⟨u, hu⟩ := hused
  unfold rspBody
  dsimp only
  rw [hu, hd]
  simp only [Nat.shiftLeft_eq, Nat.mul_add, Nat.pow_add]
  have e1 : ∀ x, x * (2 ^ (8 * len) * 2 ^ (8 * d)) = x * 2 ^ (8 * d) * 2 ^ (8 * len) := fun x => by
    rw [Nat.mul_comm (2 ^ (8 * len)), Nat.mul_assoc]
  have e2 : ∀ x, x * (2 ^ (8 * len) * 2 ^ (8 * u)) = x * 2 ^ (8 * u) * 2 ^ (8 * len) := fun x => by
    rw [Nat.mul_comm (2 ^ (8 * len)), Nat.mul_assoc]
  rw [e1, e2]
  split
  · rw [Nat.add_zero, Nat.add_mul_mod_self_right, Nat.add_mul_mod_self_right, Nat.mod_mod]
  · rw [Nat.add_mul_mod_self_right, Nat.add_mul_mod_self_right, Nat.add_mul_mod_self_right, Nat.mod_mod]

theorem writeRsp_answered (x b : Mbox) (st f e len bits : Nat) (cl : List Clamp) (q : Nat) (free : BitVec 1792)
    (hx : x.cmd.toNat % 2 ^ 256 = b.cmd.toNat % 2 ^ 256) (hs : x.cmdSeq = b.cmdSeq) (hl : len ≤ 224) :
    let y := writeRsp x st f e len bits cl q free
    y.busy = false ∧ y.done = true ∧ y.cause = !cmdNoIrq b ∧ fld y.rsp.toNat 0 16 = cmdOp b ∧ fld y.rsp.toNat 16 16 = cmdTag b ∧
      fld y.rsp.toNat 32 8 = st % 256 ∧ fld y.rsp.toNat 80 16 = len ∧ fld y.rsp.toNat 128 32 = b.cmdSeq.toNat ∧
      fld y.rsp.toNat 256 (8 * len) = bits % 2 ^ (8 * len) := by
  have ho : cmdOp x = cmdOp b := by unfold cmdOp cmdHdr; rw [hx]
  have ht : cmdTag x = cmdTag b := by unfold cmdTag cmdHdr; rw [hx]
  have hn : cmdNoIrq x = cmdNoIrq b := by unfold cmdNoIrq cmdHdr; rw [hx]
  have hop : cmdOp b < 2 ^ 16 := Nat.mod_lt _ (by decide)
  have htg : cmdTag b < 2 ^ 16 := Nat.mod_lt _ (by decide)
  have hsq : b.cmdSeq.toNat < 2 ^ 32 := b.cmdSeq.isLt
  simp only [writeRsp, hn, BitVec.toNat_ofNat, true_and]
  have low : ∀ lo w, lo + w ≤ 256 → ∀ hd bd, fld ((hd + (bd <<< 256)) % 2 ^ 2048) lo w = fld hd lo w := fun lo w h hd bd => by
    rw [fld_mod _ _ _ _ (by omega), fld_low _ _ _ _ _ h]
  refine ⟨?_, ?_, ?_, ?_, ?_, ?_⟩
  · rw [low 0 16 (by omega)]
    unfold rspHdr
    rw [fld_pack_head, ho, Nat.mod_eq_of_lt hop]
  · rw [low 16 16 (by omega)]
    unfold rspHdr
    exact (fld_pack_at [_] 16 _ _).trans (by rw [ht, Nat.mod_eq_of_lt htg])
  · rw [low 32 8 (by omega)]
    unfold rspHdr
    exact fld_pack_at [_, _] 8 _ _
  · rw [low 80 16 (by omega)]
    unfold rspHdr
    exact (fld_pack_at [_, _, _, _, _, _, _, _] 16 _ _).trans (Nat.mod_eq_of_lt (by omega))
  · rw [low 128 32 (by omega)]
    unfold rspHdr
    exact (fld_pack_at [_, _, _, _, _, _, _, _, _, _, _] 32 _ _).trans (by rw [hs, Nat.mod_eq_of_lt hsq])
  · rw [fld_mod _ _ _ _ (by omega), fld_high _ _ _ _ (rspHdr_lt ..), rspBody_low]

theorem respond_answered (m : Nat) (b x : Mbox) (st f e len bits : Nat) (s : State) (hm : s.mbox[m]? = some x)
    (hx : x.cmd.toNat % 2 ^ 256 = b.cmd.toNat % 2 ^ 256) (hs : x.cmdSeq = b.cmdSeq) (hl : len ≤ 224) :
    Answered m b (if st = stOk then okStatus x.clamps else st) len bits (respond m st f e len bits s) := by
  unfold respond
  rw [hm]
  dsimp only
  refine ⟨_, updAt_get_eq _ _ _ x ?_, ?_⟩
  · rw [(reportClamps_reports ..).mbox, hm]
  · have h := fun st' cl q free => writeRsp_answered x b st' f e len bits cl q free hx hs hl
    by_cases hst : st = stOk
    · subst hst
      simp only [if_true]
      have := h (okStatus x.clamps)
      unfold okStatus at this ⊢
      exact this _ _ _
    · simp only [hst, if_false, List.isEmpty_nil, if_true]
      exact h st _ _ _

theorem respond_refuses (m : Nat) (x : Mbox) (st f e : Nat) (s : State) (hm : s.mbox[m]? = some x) (hst : st ≠ stOk) :
    Refuses m f e (respond m st f e 0 0 s) := by
  have hr : reportClamps m x [] s = s := rfl
  unfold respond
  rw [hm]
  simp only [hst, if_false, List.isEmpty_nil, if_true, hr]
  refine ⟨_, updAt_get_eq _ _ _ x hm, ?_⟩
  have low : ∀ lo w, lo + w ≤ 256 → ∀ hd bd, fld ((hd + (bd <<< 256)) % 2 ^ 2048) lo w = fld hd lo w := fun lo w h hd bd => by
    rw [fld_mod _ _ _ _ (by omega), fld_low _ _ _ _ _ h]
  simp only [writeRsp, BitVec.toNat_ofNat, low 40 8 (by omega), low 48 8 (by omega), low 56 1 (by omega), low 64 16 (by omega),
    low 160 32 (by omega)]
  unfold rspHdr
  exact ⟨fld_pack_at [_, _, _] 8 _ _, fld_pack_at [_, _, _, _] 8 _ _, fld_pack_at [_, _, _, _, _] 1 _ _,
    fld_pack_at [_, _, _, _, _, _, _] 16 _ _, fld_pack_at [_, _, _, _, _, _, _, _, _, _, _, _] 32 _ _⟩

/-! A row that is accepted. -/

theorem busyBox_get {s : State} {m : Nat} {b : Mbox} (h : busyBox s m = some b) : s.mbox[m]? = some b ∧ b.busy = true := by
  unfold busyBox at h
  split at h
  · split at h
    · simp_all
    · simp at h
  · simp at h

/-- What acceptance says of the command: it is ready, its stage accepts it and its checks pass. -/
theorem accepts_checks {k : CmdSpec} {m : Nat} {s : State} {b : Mbox} {body : Nat} {cl : List Clamp}
    (h : accepts k m s = some (b, body, cl)) :
    cmdReady k s m = true ∧ busyBox s m = some b ∧ opAccepted (seen k s) (cmdOp b) = true ∧
      checkAll k (seen k s) b = .ok (body, cl) := by
  unfold accepts at h
  split at h
  · rename_i hr
    split at h
    · rename_i b' hb
      split at h
      · rename_i ho
        split at h
        · rename_i body' cl' hc
          simp only [Option.some.injEq, Prod.mk.injEq] at h
          obtain ⟨rfl, rfl, rfl⟩ := h
          exact ⟨hr, hb, ho, hc⟩
        · simp at h
      · simp at h
    · simp at h
  · simp at h

theorem runCmd_accepted {k : CmdSpec} {m : Nat} {s : State} {b : Mbox} {body : Nat} {cl : List Clamp}
    (h : accepts k m s = some (b, body, cl)) :
    s.mbox[m]? = some b ∧ b.busy = true ∧
      runCmd k m s = applyReply m (k.act (cmdOf m b body) (seen k s)).2 (keepClamps m cl (k.act (cmdOf m b body) (seen k s)).1) := by
  unfold accepts at h
  split at h
  · rename_i hr
    split at h
    · rename_i b' hb
      split at h
      · rename_i ho
        split at h
        · rename_i body' cl' hc
          simp only [Option.some.injEq, Prod.mk.injEq] at h
          obtain ⟨rfl, rfl, rfl⟩ := h
          refine ⟨(busyBox_get hb).1, (busyBox_get hb).2, ?_⟩
          unfold runCmd carryOut
          simp only [hr, hb, if_true]
          unfold seen at ho hc ⊢
          simp only [ho, hc, if_true]
        · simp at h
      · simp at h
    · simp at h
  · simp at h

theorem runCmd_refused {k : CmdSpec} {m : Nat} {s : State} {b : Mbox} {f e : Nat} (h : refuses k m s = some (b, f, e)) :
    s.mbox[m]? = some b ∧ b.busy = true ∧ runCmd k m s = respond m stRefused f e 0 0 (seen k s) := by
  unfold refuses at h
  split at h
  · rename_i hr
    split at h
    · rename_i b' hb
      split at h
      · rename_i ho
        split at h
        · simp at h
        · rename_i r hc
          split at h
          · rename_i hs
            simp only [Option.some.injEq, Prod.mk.injEq] at h
            obtain ⟨rfl, rfl, rfl⟩ := h
            refine ⟨(busyBox_get hb).1, (busyBox_get hb).2, ?_⟩
            unfold runCmd carryOut
            simp only [hr, hb, if_true]
            unfold seen at ho hc ⊢
            simp only [ho, hc, hs, if_true]
          · simp at h
      · rename_i ho
        simp only [Option.some.injEq, Prod.mk.injEq] at h
        obtain ⟨rfl, rfl, rfl⟩ := h
        refine ⟨(busyBox_get hb).1, (busyBox_get hb).2, ?_⟩
        unfold runCmd carryOut
        simp only [hr, hb, if_true]
        unfold seen at ho ⊢
        simp [ho]
    · simp at h
  · simp at h

/-- A row whose action ends in a response and leaves its mailbox to the reply. -/
theorem carried_of {k : CmdSpec} {m : Nat} {s : State} {b : Mbox} {body : Nat} {cl : List Clamp} {eff : State}
    {st f e len bits : Nat} (h : accepts k m s = some (b, body, cl))
    (ha : k.act (cmdOf m b body) (seen k s) = (eff, .done st f e len bits)) (hm : eff.mbox = (seen k s).mbox) (hl : len ≤ 224) :
    ∃ t, runCmd k m s = t ∧ ButReply m eff t ∧ Answered m b (if st = stOk then okStatus cl else st) len bits t := by
  obtain ⟨hb, hbusy, hr⟩ := runCmd_accepted h
  refine ⟨_, rfl, ?_, ?_⟩
  · rw [hr, ha]
    exact (keepClamps_reply m cl eff).trans (respond_reply ..)
  · rw [hr, ha]
    have hget : (keepClamps m cl eff).mbox[m]? = some { b with clamps := cl } := by
      unfold keepClamps
      rw [updAt_get_eq _ _ _ b (by rw [hm, (seen_reports k s).mbox, hb])]
      simp [hbusy]
    exact respond_answered m b { b with clamps := cl } st f e len bits _ hget rfl rfl hl

/-- A row whose action suspends the command. -/
theorem suspended_of {k : CmdSpec} {m : Nat} {s : State} {b : Mbox} {body : Nat} {cl : List Clamp} {eff : State}
    {w : CmdWait} (h : accepts k m s = some (b, body, cl))
    (ha : k.act (cmdOf m b body) (seen k s) = (eff, .wait w)) (hm : eff.mbox = (seen k s).mbox) :
    ∃ t, runCmd k m s = t ∧ ButReply m eff t ∧
      ∃ x, t.mbox[m]? = some x ∧ x.busy = true ∧ x.wait = w ∧ x.clamps = cl ∧ x.cmd = b.cmd := by
  obtain ⟨hb, hbusy, hr⟩ := runCmd_accepted h
  refine ⟨_, rfl, ?_, ?_⟩
  · rw [hr, ha]
    exact (keepClamps_reply m cl eff).trans (updBox_reply m _ eff.freeTick _)
  · rw [hr, ha]
    have hget : (keepClamps m cl eff).mbox[m]? = some { b with clamps := cl } := by
      unfold keepClamps
      rw [updAt_get_eq _ _ _ b (by rw [hm, (seen_reports k s).mbox, hb])]
      simp [hbusy]
    exact ⟨_, updAt_get_eq _ _ _ _ hget, hbusy, rfl, rfl, rfl⟩

theorem carriesOut_of {c : Fin 8 → Instr} {k : CmdSpec} {pre : State → Cmd → Prop} {eff : State → Cmd → State}
    {len res : State → Cmd → Nat} (hx : ∀ m s, exec (c m) s = .next (runCmd k m s))
    (ha : ∀ s d, pre s d → k.act d s = (eff s d, .done stOk 0 0 (len s d) (res s d)))
    (hm : ∀ s d, pre s d → (eff s d).mbox = s.mbox) (hl : ∀ s d, pre s d → len s d ≤ 224) :
    CarriesOut c k pre eff len res := fun m s b body cl h hp => by
  obtain ⟨t, ht, hb, hr⟩ := carried_of h (ha _ _ hp) (hm _ _ hp) (hl _ _ hp)
  exact ⟨t, by rw [hx, ht], hb, hr⟩

theorem endsWith_of {c : Fin 8 → Instr} {k : CmdSpec} {pre : State → Cmd → Prop} {st : Nat}
    (hx : ∀ m s, exec (c m) s = .next (runCmd k m s)) (hs : st ≠ stOk)
    (ha : ∀ s d, pre s d → k.act d s = (s, .done st 0 0 0 0)) : EndsWith c k pre st := fun m s b body cl h hp => by
  obtain ⟨t, ht, hb, hr⟩ := carried_of h (ha _ _ hp) rfl (by omega)
  rw [if_neg hs] at hr
  exact ⟨t, by rw [hx, ht], hb, hr⟩

theorem suspends_of {c : Fin 8 → Instr} {k : CmdSpec} {pre : State → Cmd → Prop} {eff : State → Cmd → State}
    {w : State → Cmd → CmdWait} (hx : ∀ m s, exec (c m) s = .next (runCmd k m s))
    (ha : ∀ s d, pre s d → k.act d s = (eff s d, .wait (w s d)))
    (hm : ∀ s d, pre s d → (eff s d).mbox = s.mbox) : Suspends c k pre eff w := fun m s b body cl h hp => by
  obtain ⟨t, ht, hb, hr⟩ := suspended_of h (ha _ _ hp) (hm _ _ hp)
  exact ⟨t, by rw [hx, ht], hb, hr⟩

/-- A row that creates: what its action answers where a number is found and may be made, and where not. -/
theorem creates_of {c : Fin 8 → Instr} {k : CmdSpec} {num : State → Cmd → Option Nat} {may : State → Cmd → Bool}
    {put : Nat → State → Cmd → State} {len : Nat} {res : Nat → State → Cmd → Nat}
    (hx : ∀ m s, exec (c m) s = .next (runCmd k m s))
    (ha : ∀ i s d, num s d = some i → may s d = true → k.act d s = (put i s d, .done stOk 0 0 len (res i s d)))
    (hn : ∀ s d, num s d = none ∨ may s d = false → k.act d s = (s, .done stExhausted 0 0 0 0))
    (hm : ∀ i s d, (put i s d).mbox = s.mbox) (hl : len ≤ 224) : Creates c k num may put len res :=
  ⟨fun i => carriesOut_of hx (fun s d h => ha i s d h.1 h.2) (fun s d _ => hm i s d) (fun _ _ _ => hl),
    endsWith_of hx (by decide) hn⟩

/-! Operations that leave every mailbox as it is. -/

@[simp] theorem mirrorSend_mbox (i : MirrorItem) (s : State) : (mirrorSend i s).mbox = s.mbox := by
  unfold mirrorSend
  split <;> rfl

@[simp] theorem mirrorWrite_mbox (i : MirrorItem) (s : State) : (mirrorWrite i s).mbox = s.mbox := by
  unfold mirrorWrite
  split <;> simp

@[simp] theorem zeroArea_mbox (a n : Nat) (s : State) : (zeroArea a n s).mbox = s.mbox := by
  simp [zeroArea]

@[simp] theorem zeroPages_mbox (a n : Nat) (s : State) : (zeroPages a n s).mbox = s.mbox := rfl

@[simp] theorem storeCtx_mbox (i : Nat) (s : State) : (storeCtx i s).mbox = s.mbox := by
  unfold storeCtx
  repeat' split
  all_goals rfl

@[simp] theorem installCtx_mbox (i : Nat) (s : State) : (installCtx i s).mbox = s.mbox := by
  unfold installCtx
  dsimp only
  repeat' split
  all_goals simp [putSet]

end Sys2Proof.Machine
end

