-- ==== Sys2Proof/Laws/Cells.lean ====
section
/-! SUPPORT. Every operation on byte memory keeps the canonical form, and reads back what it wrote. -/

namespace Sys2Proof.Machine

/-! Addresses strictly rising, as a bound on what follows. -/

theorem cellsRising_cons (a : Nat) (v : Byte) (m : List Host.Cell) :
    cellsRising ((a, v) :: m) = true ↔ (∀ c ∈ m, a < c.1) ∧ cellsRising m = true := by
  induction m generalizing a v with
  | nil => simp [cellsRising]
  | cons c m ih =>
    obtain ⟨b, w⟩ := c
    simp only [cellsRising, Bool.and_eq_true, decide_eq_true_eq, List.mem_cons, forall_eq_or_imp]
    constructor
    · rintro ⟨h1, h2⟩
      exact ⟨⟨h1, fun x hx => Nat.lt_trans h1 (((ih b w).1 h2).1 x hx)⟩, h2⟩
    · rintro ⟨⟨h1, -⟩, h2⟩
      exact ⟨h1, h2⟩

theorem mem_cellPut {m : List Host.Cell} {a : Nat} {v : Byte} {c : Host.Cell} (h : c ∈ cellPut m a v) :
    c = (a, v) ∨ c ∈ m := by
  induction m with
  | nil => simpa [cellPut] using h
  | cons d m ih =>
    obtain ⟨k, w⟩ := d
    simp only [cellPut] at h
    split at h
    · rcases List.mem_cons.1 h with h | h
      · exact .inl h
      · exact .inr (List.mem_cons_of_mem _ h)
    · split at h
      · rcases List.mem_cons.1 h with h | h
        · exact .inl h
        · exact .inr h
      · rcases List.mem_cons.1 h with h | h
        · exact .inr (h ▸ List.mem_cons_self)
        · exact (ih h).imp_right (List.mem_cons_of_mem _)

theorem mem_cellDel {m : List Host.Cell} {a : Nat} {c : Host.Cell} (h : c ∈ cellDel m a) : c ∈ m := by
  induction m with
  | nil => simp [cellDel] at h
  | cons d m ih =>
    obtain ⟨k, w⟩ := d
    simp only [cellDel] at h
    split at h
    · exact List.mem_cons_of_mem _ h
    · split at h
      · exact h
      · rcases List.mem_cons.1 h with h | h
        · exact h ▸ List.mem_cons_self
        · exact List.mem_cons_of_mem _ (ih h)

theorem cellPut_rising {m : List Host.Cell} (a : Nat) (v : Byte) (h : cellsRising m = true) :
    cellsRising (cellPut m a v) = true := by
  induction m with
  | nil => rfl
  | cons d m ih =>
    obtain ⟨k, w⟩ := d
    obtain ⟨h1, h2⟩ := (cellsRising_cons k w m).1 h
    simp only [cellPut]
    split
    · next e => subst e; exact (cellsRising_cons a v m).2 ⟨h1, h2⟩
    · split
      · next hk =>
        refine (cellsRising_cons a v _).2 ⟨?_, h⟩
        intro c hc
        rcases List.mem_cons.1 hc with rfl | hc
        · exact hk
        · exact Nat.lt_trans hk (h1 c hc)
      · refine (cellsRising_cons k w _).2 ⟨?_, ih h2⟩
        intro c hc
        rcases mem_cellPut hc with rfl | hc
        · simp only; omega
        · exact h1 c hc

theorem cellDel_rising {m : List Host.Cell} (a : Nat) (h : cellsRising m = true) : cellsRising (cellDel m a) = true := by
  induction m with
  | nil => rfl
  | cons d m ih =>
    obtain ⟨k, w⟩ := d
    obtain ⟨h1, h2⟩ := (cellsRising_cons k w m).1 h
    simp only [cellDel]
    split
    · exact h2
    · split
      · exact h
      · exact (cellsRising_cons k w _).2 ⟨fun c hc => h1 c (mem_cellDel hc), ih h2⟩

theorem filter_rising {m : List Host.Cell} (p : Host.Cell → Bool) (h : cellsRising m = true) :
    cellsRising (m.filter p) = true := by
  induction m with
  | nil => rfl
  | cons d m ih =>
    obtain ⟨k, w⟩ := d
    obtain ⟨h1, h2⟩ := (cellsRising_cons k w m).1 h
    simp only [List.filter_cons]
    split
    · exact (cellsRising_cons k w _).2 ⟨fun c hc => h1 c (List.mem_filter.1 hc).1, ih h2⟩
    · exact ih h2

theorem zeroForm_iff (m : List Host.Cell) :
    zeroForm m = true ↔ cellsRising m = true ∧ ∀ c ∈ m, c.2 ≠ 0 := by
  simp [zeroForm]

theorem zeroPut_form {m : List Host.Cell} (a : Nat) (v : Byte) (h : zeroForm m = true) : zeroForm (zeroPut m a v) = true := by
  rw [zeroForm_iff] at h ⊢
  unfold zeroPut
  split
  · exact ⟨cellDel_rising a h.1, fun c hc => h.2 c (mem_cellDel hc)⟩
  · next hv =>
    refine ⟨cellPut_rising a v h.1, fun c hc => ?_⟩
    rcases mem_cellPut hc with rfl | hc
    · exact hv
    · exact h.2 c hc

theorem filter_form {m : List Host.Cell} (p : Host.Cell → Bool) (h : zeroForm m = true) : zeroForm (m.filter p) = true := by
  rw [zeroForm_iff] at h ⊢
  exact ⟨filter_rising p h.1, fun c hc => h.2 c (List.mem_filter.1 hc).1⟩

theorem cellErase_form {m : List Host.Cell} (a n : Nat) (h : zeroForm m = true) : zeroForm (cellErase m a n) = true :=
  filter_form _ h

theorem cellErase_rising {m : List Host.Cell} (a n : Nat) (h : cellsRising m = true) : cellsRising (cellErase m a n) = true :=
  filter_rising _ h

theorem cellPutAll_rising {m : List Host.Cell} (a : Nat) (l : List Byte) (h : cellsRising m = true) :
    cellsRising (cellPutAll m a l) = true := by
  induction l generalizing m a with
  | nil => exact h
  | cons b bs ih => exact ih _ (cellPut_rising a b h)

theorem zeroPutAll_form {m : List Host.Cell} (a : Nat) (l : List Byte) (h : zeroForm m = true) :
    zeroForm (zeroPutAll m a l) = true := by
  induction l generalizing m a with
  | nil => exact h
  | cons b bs ih => exact ih _ (zeroPut_form a b h)

theorem foldl_rising {α : Type} (f : List Host.Cell → α → List Host.Cell)
    (hf : ∀ m x, cellsRising m = true → cellsRising (f m x) = true) (l : List α) {m : List Host.Cell}
    (h : cellsRising m = true) : cellsRising (l.foldl f m) = true := by
  induction l generalizing m with
  | nil => exact h
  | cons x xs ih => exact ih (hf m x h)

theorem foldl_form {α : Type} (f : List Host.Cell → α → List Host.Cell)
    (hf : ∀ m x, zeroForm m = true → zeroForm (f m x) = true) (l : List α) {m : List Host.Cell}
    (h : zeroForm m = true) : zeroForm (l.foldl f m) = true := by
  induction l generalizing m with
  | nil => exact h
  | cons x xs ih => exact ih (hf m x h)

/-! Reading back. -/

theorem cellGet_cellPut (m : List Host.Cell) (a b : Nat) (v : Byte) :
    cellsRising m = true → cellGet (cellPut m a v) b = if b = a then some v else cellGet m b := by
  induction m with
  | nil => intro _; simp only [cellPut, cellGet]; split <;> simp
  | cons d m ih =>
    obtain ⟨k, w⟩ := d
    intro h
    obtain ⟨h1, h2⟩ := (cellsRising_cons k w m).1 h
    simp only [cellPut]
    split
    · next e => subst e; simp only [cellGet]; split <;> simp_all
    · split
      · next hk => simp only [cellGet]; (repeat' split) <;> first | rfl | omega | simp_all
      · simp only [cellGet, ih h2]; (repeat' split) <;> first | rfl | omega | simp_all

/-! The memories of the complex. -/

theorem foldl_wf {α : Type} (f : State → α → State) (hf : ∀ t x, t.cells.wf = true → (f t x).cells.wf = true) (l : List α)
    {s : State} (h : s.cells.wf = true) : (l.foldl f s).cells.wf = true := by
  induction l generalizing s with
  | nil => exact h
  | cons x xs ih => exact ih (hf s x h)

theorem Keeps.refl (s : State) : Keeps s s := ⟨rfl, id⟩

theorem Keeps.trans {s t u : State} (h : Keeps s t) (k : Keeps t u) : Keeps s u :=
  ⟨k.1.trans h.1, fun w => k.2 (h.2 w)⟩

theorem Keeps.of_eq {s t : State} (h : t.still = s.still ∧ t.cells = s.cells) : Keeps s t :=
  ⟨h.1, fun w => by rw [h.2]; exact w⟩

theorem Keeps.restarts {s t u : State} (h : Keeps s t) (k : Restarts t u) : Restarts s u :=
  ⟨k.1.trans (congrArg (fun x : Still => { State.reset.still with
      pending := x.pending, straps := x.straps, fuses := x.fuses, tap := x.tap }) h.1), k.2.1, k.2.2.1,
    fun w => k.2.2.2 (h.2 w)⟩

theorem Keeps.foldl {α : Type} (f : State → α → State) (h : ∀ t x, Keeps t (f t x)) (l : List α) (s : State) :
    Keeps s (l.foldl f s) := by
  induction l generalizing s with
  | nil => exact .refl s
  | cons x xs ih => exact (h s x).trans (ih _)

@[simp] theorem wf_ite (p : Prop) [Decidable p] (a b : Cells) (ha : a.wf = true) (hb : b.wf = true) :
    (if p then a else b).wf = true := by split <;> assumption

theorem cellsWf_iff (c : Cells) :
    c.wf = true ↔ cellsRising c.stack = true ∧ cellsRising c.hostOut = true ∧ zeroForm c.mere = true ∧ zeroForm c.image = true := by
  simp [Cells.wf, and_assoc]

end Sys2Proof.Machine
end

