-- ==== Sys2Proof/Laws/Shared.lean ====
section
/-! SUPPORT. What the operations that every command shares leave still, and that the byte memories stay in canonical form: one lemma for
each operation, in the order of the files of Machine/. -/

namespace Sys2Proof.Machine

/-! Ops.lean -/

@[simp] theorem setGroup_groups (q : Irq) (g b : Nat) : (q.setGroup g b).groups.length = q.groups.length := by
  simp [Irq.setGroup]

@[simp] theorem clearGroup_groups (q : Irq) (g b : Nat) : (q.clearGroup g b).groups.length = q.groups.length := by
  simp [Irq.clearGroup]

@[simp] theorem setGroupIf_groups (q : Irq) (c : Bool) (g b : Nat) :
    (q.setGroupIf c g b).groups.length = q.groups.length := by
  unfold Irq.setGroupIf; split <;> simp

@[simp] theorem setRingDone_groups (q : Irq) (r : Nat) : (q.setRingDone r).groups.length = q.groups.length := rfl

@[simp] theorem setRingErr_groups (q : Irq) (r : Nat) : (q.setRingErr r).groups.length = q.groups.length := rfl

@[simp] theorem clearRing_groups (q : Irq) (r : Nat) : (q.clearRing r).groups.length = q.groups.length := rfl

@[simp] theorem peatCauses_groups (a b : Peat) (q : Irq) : (peatCauses a b q).groups.length = q.groups.length := by
  simp [peatCauses]

@[simp] theorem freeNext_keeps (s : State) :
    (freeNext s).still = s.still ∧ (freeNext s).cells = s.cells := ⟨rfl, rfl⟩

@[simp] theorem bump_keeps (group : Nat) (unit : Nat) (idx : Nat) (n : Nat) (s : State) :
    (bump group unit idx n s).still = s.still ∧ (bump group unit idx n s).cells = s.cells := ⟨rfl, rfl⟩

@[simp] theorem setCause_keeps (g : Nat) (b : Nat) (s : State) :
    (setCause g b s).still = s.still ∧ (setCause g b s).cells = s.cells := by
  simp [setCause]

@[simp] theorem offer_keeps (needs : Option Nat) (r : PeatRec) (s : State) :
    (offer needs r s).still = s.still ∧ (offer needs r s).cells = s.cells := by
  simp [offer]

@[simp] theorem injEvent_keeps (points : List Nat) (unit : Nat) (level : Nat) (island : Nat) (s : State) :
    (injEvent points unit level island s).still = s.still ∧ (injEvent points unit level island s).cells = s.cells := by
  unfold injEvent
  constructor <;> (repeat' split) <;> simp

@[simp] theorem peatWrite_keeps (r : PeatRec) (s : State) :
    (peatWrite r s).still = s.still ∧ (peatWrite r s).cells = s.cells := by
  unfold peatWrite
  constructor <;> (dsimp only; (repeat' split)) <;> simp_all

@[simp] theorem peatTake_keeps (s : State) :
    (peatTake s).still = s.still ∧ (peatTake s).cells = s.cells := by
  unfold peatTake
  constructor <;> (repeat' split) <;> simp

@[simp] theorem peatFlush_keeps (isl : Nat) (x1 : Nat) (s : State) :
    (peatFlush isl x1 s).still = s.still ∧ (peatFlush isl x1 s).cells = s.cells := by
  fun_induction peatFlush isl x1 s <;> simp_all

@[simp] theorem peatNow_keeps (r : PeatRec) (s : State) :
    (peatNow r s).still = s.still ∧ (peatNow r s).cells = s.cells := by
  unfold peatNow
  constructor <;> (dsimp only; (repeat' split)) <;> simp_all

/-! MirrorBase.lean -/

@[simp] theorem mirrorSend_keeps (i : MirrorItem) (s : State) :
    (mirrorSend i s).still = s.still ∧ (mirrorSend i s).cells = s.cells := by
  unfold mirrorSend
  constructor <;> (repeat' split) <;> simp

@[simp] theorem mirrorWrite_keeps (i : MirrorItem) (s : State) :
    (mirrorWrite i s).still = s.still ∧ (mirrorWrite i s).cells = s.cells := by
  unfold mirrorWrite
  constructor <;> (repeat' split) <;> simp

/-! Mailbox.lean -/

@[simp] theorem peatAll_keeps (x1 : List PeatRec) (s : State) :
    (peatAll x1 s).still = s.still ∧ (peatAll x1 s).cells = s.cells := by
  fun_induction peatAll x1 s <;> simp_all

@[simp] theorem reportClamps_keeps (m : Nat) (b : Mbox) (cl : List Clamp) (s : State) :
    (reportClamps m b cl s).still = s.still ∧ (reportClamps m b cl s).cells = s.cells := by
  unfold reportClamps
  constructor <;> (repeat' split) <;> simp

@[simp] theorem respond_keeps (m : Nat) (status : Nat) (field : Nat) (entry : Nat) (len : Nat) (bits : Nat) (s :
    State) :
    (respond m status field entry len bits s).still = s.still ∧
      (respond m status field entry len bits s).cells = s.cells := by
  unfold respond
  constructor <;> (repeat' split) <;> simp

@[simp] theorem applyReply_keeps (m : Nat) (r : Reply) (s : State) :
    (applyReply m r s).still = s.still ∧ (applyReply m r s).cells = s.cells := by
  unfold applyReply
  constructor <;> (repeat' split) <;> simp

@[simp] theorem keepClamps_keeps (m : Nat) (cl : List Clamp) (s : State) :
    (keepClamps m cl s).still = s.still ∧ (keepClamps m cl s).cells = s.cells := by
  simp [keepClamps]

@[simp] theorem hexobReads_keeps (s : State) :
    (hexobReads s).still = s.still ∧ (hexobReads s).cells = s.cells := by
  unfold hexobReads
  constructor <;> (repeat' split) <;> simp

theorem carryOut_still (k : CmdSpec) (m : Nat) (b : Mbox) (s : State) (h : ∀ c t, (k.act c t).1.still = t.still) :
    (carryOut k m b s).still = s.still := by
  unfold carryOut
  dsimp only
  generalize ht : (if k.hw = true then s else hexobReads s) = t
  have e : t.still = s.still := by rw [← ht]; simp
  split
  · split <;> simp [h, e]
  · simp [e]

theorem carryOut_cells (k : CmdSpec) (m : Nat) (b : Mbox) (s : State) (h : ∀ c t, (k.act c t).1.cells = t.cells) :
    (carryOut k m b s).cells = s.cells := by
  unfold carryOut
  dsimp only
  generalize ht : (if k.hw = true then s else hexobReads s) = t
  have e : t.cells = s.cells := by rw [← ht]; simp
  split
  · split <;> simp [h, e]
  · simp [e]

theorem carryOut_wf (k : CmdSpec) (m : Nat) (b : Mbox) (s : State)
    (h : ∀ c t, t.cells.wf = true → (k.act c t).1.cells.wf = true) (w : s.cells.wf = true) :
    (carryOut k m b s).cells.wf = true := by
  unfold carryOut
  dsimp only
  generalize ht : (if k.hw = true then s else hexobReads s) = t
  have e : t.cells.wf = true := by rw [← ht]; simp [w]
  split
  · split <;> simp [h, e]
  · simp [e]

theorem runCmd_still (k : CmdSpec) (m : Nat) (s : State) (h : ∀ c t, (k.act c t).1.still = t.still) :
    (runCmd k m s).still = s.still := by
  unfold runCmd
  (repeat' split) <;> first | rfl | exact carryOut_still k m _ s h

theorem runCmd_cells (k : CmdSpec) (m : Nat) (s : State) (h : ∀ c t, (k.act c t).1.cells = t.cells) :
    (runCmd k m s).cells = s.cells := by
  unfold runCmd
  (repeat' split) <;> first | rfl | exact carryOut_cells k m _ s h

theorem runCmd_wf (k : CmdSpec) (m : Nat) (s : State) (h : ∀ c t, t.cells.wf = true → (k.act c t).1.cells.wf = true)
    (w : s.cells.wf = true) : (runCmd k m s).cells.wf = true := by
  unfold runCmd
  (repeat' split) <;> first | exact w | exact carryOut_wf k m _ s h w

@[simp] theorem finishWait_keeps (w : CmdWait) (status : Nat) (len : Nat) (bits : Nat) (s : State) :
    (finishWait w status len bits s).still = s.still ∧ (finishWait w status len bits s).cells = s.cells := by
  unfold finishWait
  constructor <;> (first | (apply foldl_still; intro t x) | (apply foldl_cells; intro t x)) <;> (repeat' split) <;>
    simp

@[simp] theorem finishWhere_keeps (f : CmdWait → Option (Nat × Nat)) (s : State) :
    (finishWhere f s).still = s.still ∧ (finishWhere f s).cells = s.cells := by
  unfold finishWhere
  constructor <;> (first | (apply foldl_still; intro t x) | (apply foldl_cells; intro t x)) <;> (repeat' split) <;>
    simp

@[simp] theorem refuseUnlisted_keeps (m : Nat) (s : State) :
    (refuseUnlisted m s).still = s.still ∧ (refuseUnlisted m s).cells = s.cells := by
  unfold refuseUnlisted
  constructor <;> (repeat' split) <;> simp

/-! Memory.lean -/

theorem rebase_keeps (m : MemSys) (k : BitVec 256 × BitVec 256) (b : Nat) :
    (rebase m k b).hostOut = m.hostOut ∧ (rebase m k b).mere = m.mere ∧
      (cellsRising m.stack = true → cellsRising (rebase m k b).stack = true) := by
  unfold rebase
  split
  · exact ⟨rfl, rfl, id⟩
  · split
    · exact ⟨rfl, rfl, id⟩
    · exact ⟨rfl, rfl, cellPutAll_rising _ _⟩

theorem stackPut_keeps (k : BitVec 256 × BitVec 256) (m : MemSys) (a : Nat) (v : Byte) :
    (stackPut k m a v).hostOut = m.hostOut ∧ (stackPut k m a v).mere = m.mere ∧
      (cellsRising m.stack = true → cellsRising (stackPut k m a v).stack = true) :=
  ⟨(rebase_keeps m k _).1, (rebase_keeps m k _).2.1, fun h => cellPut_rising _ _ ((rebase_keeps m k _).2.2 h)⟩

theorem stackPuts_keep {α : Type} (k : BitVec 256 × BitVec 256) (f : α → Nat × Byte) (l : List α) (m : MemSys) :
    (l.foldl (fun c e => stackPut k c (f e).1 (f e).2) m).hostOut = m.hostOut ∧
      (l.foldl (fun c e => stackPut k c (f e).1 (f e).2) m).mere = m.mere ∧
      (cellsRising m.stack = true → cellsRising (l.foldl (fun c e => stackPut k c (f e).1 (f e).2) m).stack = true) := by
  induction l generalizing m with
  | nil => exact ⟨rfl, rfl, id⟩
  | cons x xs ih =>
    have h := ih (stackPut k m (f x).1 (f x).2)
    have p := stackPut_keeps k m (f x).1 (f x).2
    exact ⟨h.1.trans p.1, h.2.1.trans p.2.1, fun w => h.2.2 (p.2.2 w)⟩

@[simp] theorem putRowStack_keeps (k : BitVec 256 × BitVec 256) (m : MemSys) (a : Nat) (row mask : BitVec 512) :
    (putRowStack k m a row mask).hostOut = m.hostOut ∧ (putRowStack k m a row mask).mere = m.mere ∧
      (cellsRising m.stack = true → cellsRising (putRowStack k m a row mask).stack = true) :=
  stackPuts_keep k (fun e : Nat × Byte => (a + e.1, e.2)) _ m

@[simp] theorem stackPutAll_keeps (k : BitVec 256 × BitVec 256) (m : MemSys) (a : Nat) (l : List Byte) :
    (stackPutAll k m a l).hostOut = m.hostOut ∧ (stackPutAll k m a l).mere = m.mere ∧
      (cellsRising m.stack = true → cellsRising (stackPutAll k m a l).stack = true) := by
  induction l generalizing m a with
  | nil => exact ⟨rfl, rfl, id⟩
  | cons x xs ih =>
    have h := ih (stackPut k m a x) (a + 1)
    have p := stackPut_keeps k m a x
    exact ⟨h.1.trans p.1, h.2.1.trans p.2.1, fun w => h.2.2 (p.2.2 w)⟩

@[simp] theorem putRowMere_keeps (m : MemSys) (a : Nat) (row mask : BitVec 512) :
    (putRowMere m a row mask).hostOut = m.hostOut ∧ (putRowMere m a row mask).stack = m.stack ∧
      (zeroForm m.mere = true → zeroForm (putRowMere m a row mask).mere = true) :=
  ⟨rfl, rfl, foldl_form _ (fun _ _ => zeroPut_form _ _) _⟩

@[simp] theorem putHost_keeps (m : MemSys) (a : Nat) (row mask : BitVec 512) :
    (putHost m a row mask).mere = m.mere ∧ (putHost m a row mask).stack = m.stack ∧
      (cellsRising m.hostOut = true → cellsRising (putHost m a row mask).hostOut = true) :=
  ⟨rfl, rfl, foldl_rising _ (fun _ _ => cellPut_rising _ _) _⟩

/-- The canonical form after a change of the memory system's byte memories. -/
theorem wf_putMem (s : State) (m : MemSys) (w : s.cells.wf = true) (h1 : cellsRising s.mem.stack = true → cellsRising m.stack = true)
    (h2 : cellsRising s.mem.hostOut = true → cellsRising m.hostOut = true)
    (h3 : zeroForm s.mem.mere = true → zeroForm m.mere = true) : (State.cells { s with mem := m }).wf = true := by
  rw [cellsWf_iff] at w ⊢
  exact ⟨h1 w.1, h2 w.2.1, h3 w.2.2.1, w.2.2.2⟩

@[simp] theorem putRowStack_wf (s : State) (k : BitVec 256 × BitVec 256) (a : Nat) (row mask : BitVec 512)
    (w : s.cells.wf = true) :
    (Cells.mk (putRowStack k s.mem a row mask).stack s.mem.hostOut s.mem.mere s.bring.image).wf = true := by
  simpa using wf_putMem s _ w (putRowStack_keeps k s.mem a row mask).2.2 (by simp) (by simp)

@[simp] theorem putRowMere_wf (s : State) (a : Nat) (row mask : BitVec 512) (w : s.cells.wf = true) :
    (Cells.mk s.mem.stack s.mem.hostOut (putRowMere s.mem a row mask).mere s.bring.image).wf = true := by
  simpa using wf_putMem s _ w (by simp) (by simp) (putRowMere_keeps s.mem a row mask).2.2

@[simp] theorem putHost_wf (s : State) (a : Nat) (row mask : BitVec 512) (w : s.cells.wf = true) :
    (Cells.mk s.mem.stack (putHost s.mem a row mask).hostOut s.mem.mere s.bring.image).wf = true := by
  simpa using wf_putMem s _ w (by simp) (putHost_keeps s.mem a row mask).2.2 (by simp)

@[simp] theorem reportBy_cells (f : State → State) (s : State) : (reportBy f s).cells = s.cells := rfl

@[simp] theorem reportBy_still (f : State → State) (s : State) (h : (f s).still = s.still) : (reportBy f s).still = s.still := by
  have := congrArg Still.groups h
  simp only [reportBy, still_mk]
  simp only [State.still] at this
  rw [this]
  rfl

@[simp] theorem eccTrace_keeps (env : Env) (x : EccSite) (bad : List (Nat × Nat × Nat)) (s : State) :
    (eccTrace env x bad s).still = s.still ∧ (eccTrace env x bad s).cells = s.cells := by
  unfold eccTrace
  constructor <;> (dsimp only; (repeat' split)) <;> simp_all

@[simp] theorem readStackRow_keeps (env : Env) (k : Nat) (a : Nat) (key : BitVec 256 × BitVec 256) (reader : Nat) (s : State) :
    (readStackRow env k a key reader s).st.still = s.still ∧ (readStackRow env k a key reader s).st.cells = s.cells := by
  unfold readStackRow
  constructor <;> (dsimp only; (repeat' split)) <;> simp_all

@[simp] theorem readMereRow_keeps (env : Env) (x1 : Nat) (reader : Nat) (inj : Bool) (s : State) :
    (readMereRow env x1 reader inj s).st.still = s.still ∧ (readMereRow env x1 reader inj s).st.cells = s.cells := by
  unfold readMereRow
  constructor <;> (dsimp only; (repeat' split)) <;> simp_all

@[simp] theorem writeStackRow_keeps (env : Env) (k : Nat) (a : Nat) (key : BitVec 256 × BitVec 256) (data : BitVec 512)
    (mask : BitVec 512) (merged : Bool) (s : State) :
    (writeStackRow env k a key data mask merged s).st.still = s.still ∧ (s.cells.wf = true →
      (writeStackRow env k a key data mask merged s).st.cells.wf = true) := by
  refine ⟨?_, fun w => ?_⟩ <;> unfold writeStackRow <;> dsimp only <;> (repeat' split) <;>
    simp_all (maxDischargeDepth := 8)

@[simp] theorem writeMereRow_keeps (env : Env) (x1 : Nat) (data : BitVec 512) (mask : BitVec 512) (merged : Bool) (s
    : State) :
    (writeMereRow env x1 data mask merged s).st.still = s.still ∧
      (s.cells.wf = true → (writeMereRow env x1 data mask merged s).st.cells.wf = true) := by
  refine ⟨?_, fun w => ?_⟩ <;> unfold writeMereRow <;> dsimp only <;> (repeat' split) <;>
    simp_all (maxDischargeDepth := 8)

@[simp] theorem hostEvent_keeps (pt : Nat) (q : Nat) (s : State) :
    (hostEvent pt q s).still = s.still ∧ (hostEvent pt q s).cells = s.cells := by
  simp [hostEvent]

@[simp] theorem turnBank_keeps (a : Nat) (q : Nat) (s : State) :
    (turnBank a q s).still = s.still ∧ (turnBank a q s).cells = s.cells := ⟨rfl, rfl⟩

@[simp] theorem readRowAt_keeps (env : Env) (l : RowAt) (reader : Nat) (s : State) :
    (readRowAt env l reader s).st.still = s.still ∧ (readRowAt env l reader s).st.cells = s.cells := by
  unfold readRowAt
  constructor <;> (repeat' split) <;> simp

@[simp] theorem writeRowAt_keeps (env : Env) (l : RowAt) (data : BitVec 512) (mask : BitVec 512) (s : State) :
    (writeRowAt env l data mask s).st.still = s.still ∧
      (s.cells.wf = true → (writeRowAt env l data mask s).st.cells.wf = true) := by
  refine ⟨?_, fun w => ?_⟩ <;> unfold writeRowAt <;> (repeat' split) <;> simp [*]

/-! Translate.lean -/

@[simp] theorem noMere_wf (s : State) (w : s.cells.wf = true) :
    (Cells.mk s.mem.stack s.mem.hostOut [] s.bring.image).wf = true := by
  rw [cellsWf_iff] at w ⊢
  exact ⟨w.1, w.2.1, rfl, w.2.2.2⟩

@[simp] theorem noImage_wf (s : State) (w : s.cells.wf = true) :
    (Cells.mk s.mem.stack s.mem.hostOut s.mem.mere []).wf = true := by
  rw [cellsWf_iff] at w ⊢
  exact ⟨w.1, w.2.1, w.2.2.1, rfl⟩

@[simp] theorem zeroPutAll_wf (s : State) (a : Nat) (l : List Byte) (w : s.cells.wf = true) :
    (Cells.mk s.mem.stack s.mem.hostOut (zeroPutAll s.mem.mere a l) s.bring.image).wf = true := by
  rw [cellsWf_iff] at w ⊢
  exact ⟨w.1, w.2.1, zeroPutAll_form a l w.2.2.1, w.2.2.2⟩

@[simp] theorem zeroPutAll_image_wf (s : State) (a : Nat) (l : List Byte) (w : s.cells.wf = true) :
    (Cells.mk s.mem.stack s.mem.hostOut s.mem.mere (zeroPutAll s.bring.image a l)).wf = true := by
  rw [cellsWf_iff] at w ⊢
  exact ⟨w.1, w.2.1, w.2.2.1, zeroPutAll_form a l w.2.2.2⟩

@[simp] theorem cellErase_wf (s : State) (a n : Nat) (w : s.cells.wf = true) :
    (Cells.mk s.mem.stack s.mem.hostOut (cellErase s.mem.mere a n) s.bring.image).wf = true := by
  rw [cellsWf_iff] at w ⊢
  exact ⟨w.1, w.2.1, cellErase_form a n w.2.2.1, w.2.2.2⟩

@[simp] theorem stackPutAll_wf (s : State) (k : BitVec 256 × BitVec 256) (a : Nat) (l : List Byte) (w : s.cells.wf = true) :
    (Cells.mk (stackPutAll k s.mem a l).stack s.mem.hostOut s.mem.mere s.bring.image).wf = true := by
  simpa using wf_putMem s _ w (stackPutAll_keeps k s.mem a l).2.2 (by simp) (by simp)

@[simp] theorem walkRead_keeps (env : Env) (page : Nat) (n : Nat) (table : Nat) (s : State) :
    (walkRead env page n table s).st.still = s.still ∧ (walkRead env page n table s).st.cells = s.cells := by
  unfold walkRead
  constructor <;> (dsimp only; (repeat' split)) <;> simp_all

@[simp] theorem walkAll_keeps (env : Env) (page : Nat) (x1 : Nat) (x2 : Nat) (s : State) :
    (walkAll env page x1 x2 s).st.still = s.still ∧ (walkAll env page x1 x2 s).st.cells = s.cells := by
  fun_induction walkAll env page x1 x2 s <;> simp_all +zetaDelta (maxDischargeDepth := 8)

/-! Power.lean -/

@[simp] theorem makePlan_keeps (trigger : Nat) (s : State) :
    (makePlan trigger s).still = s.still ∧ (makePlan trigger s).cells = s.cells := by
  simp [makePlan]

@[simp] theorem thermal_keeps (reason : Nat) (unit : Nat) (temp : Int) (limit : Int) (s : State) :
    (thermal reason unit temp limit s).still = s.still ∧ (thermal reason unit temp limit s).cells = s.cells := by
  simp [thermal]

@[simp] theorem noteThrottle_keeps (before : Nat) (s : State) :
    (noteThrottle before s).still = s.still ∧ (noteThrottle before s).cells = s.cells := by
  unfold noteThrottle
  constructor <;> (dsimp only; (repeat' split)) <;> simp_all

@[simp] theorem estimate_keeps (r : PowerReading) (s : State) :
    (estimate r s).still = s.still ∧ (estimate r s).cells = s.cells := by
  simp [estimate]

@[simp] theorem readMonitors_keeps (readings : List MonReading) (s : State) :
    (readMonitors readings s).still = s.still ∧ (readMonitors readings s).cells = s.cells := by
  unfold readMonitors
  constructor <;> (dsimp only; (repeat' split)) <;> simp_all

@[simp] theorem raiseOffset_keeps (i : Nat) (s : State) :
    (raiseOffset i s).still = s.still ∧ (raiseOffset i s).cells = s.cells := ⟨rfl, rfl⟩

@[simp] theorem finishReplan_keeps (s : State) :
    (finishReplan s).still = s.still ∧ (finishReplan s).cells = s.cells := by
  unfold finishReplan
  constructor <;> (repeat' split) <;> simp

@[simp] theorem askSwitch_keeps (s : State) :
    (askSwitch s).still = s.still ∧ (askSwitch s).cells = s.cells := ⟨rfl, rfl⟩

@[simp] theorem confirmCool_keeps (c : Cmd) (s : State) :
    (confirmCool c s).1.still = s.still ∧ (confirmCool c s).1.cells = s.cells := by
  unfold confirmCool
  constructor <;> (dsimp only; (repeat' split)) <;> simp_all

@[simp] theorem replan_keeps (x : Cmd) (s : State) :
    (replan x s).1.still = s.still ∧ (replan x s).1.cells = s.cells := by
  simp [replan]

end Sys2Proof.Machine
end

