-- ==== Sys2Proof/Laws/Objects.lean ====
section
/-! SUPPORT. What keys, tables, jobs, streams and rings leave still, and that the byte memories stay in canonical form: one lemma for
each operation, in the order of the files of Machine/. -/

namespace Sys2Proof.Machine

/-! Compress.lean -/

@[simp] theorem keepKey_keeps (key : Nat) (s : State) :
    (keepKey key s).still = s.still ∧ (keepKey key s).cells = s.cells := ⟨rfl, rfl⟩

@[simp] theorem retire_keeps (slot : Nat) (s : State) :
    (retire slot s).still = s.still ∧ (retire slot s).cells = s.cells := by
  unfold retire
  constructor <;> (repeat' split) <;> simp

@[simp] theorem takeTable_keeps (slot : Nat) (s : State) :
    (takeTable slot s).still = s.still ∧ (takeTable slot s).cells = s.cells := ⟨rfl, rfl⟩

@[simp] theorem freeTable_keeps (slot : Nat) (gen : Nat) (s : State) :
    (freeTable slot gen s).still = s.still ∧ (freeTable slot gen s).cells = s.cells := by
  simp [freeTable]

@[simp] theorem newTable_keeps (c : Cmd) (s : State) :
    (newTable c s).1.still = s.still ∧ (newTable c s).1.cells = s.cells := by
  unfold newTable
  constructor <;> (dsimp only; (repeat' split)) <;> simp_all

@[simp] theorem replaceTable_keeps (c : Cmd) (s : State) :
    (replaceTable c s).1.still = s.still ∧ (replaceTable c s).1.cells = s.cells := by
  unfold replaceTable
  constructor <;> (dsimp only; (repeat' split)) <;> simp_all

@[simp] theorem dropTable_keeps (k : Nat) (s : State) :
    (dropTable k s).still = s.still ∧ (dropTable k s).cells = s.cells := ⟨rfl, rfl⟩

@[simp] theorem discardTable_keeps (c : Cmd) (s : State) :
    (discardTable c s).1.still = s.still ∧ (discardTable c s).1.cells = s.cells := by
  unfold discardTable
  constructor <;> (dsimp only; (repeat' split)) <;> simp_all

@[simp] theorem registerBase_keeps (c : Cmd) (s : State) :
    (registerBase c s).1.still = s.still ∧ (registerBase c s).1.cells = s.cells := by
  unfold registerBase
  constructor <;> (dsimp only; (repeat' split)) <;> simp_all

@[simp] theorem settleBase_keeps (k : Nat) (s : State) :
    (settleBase k s).still = s.still ∧ (settleBase k s).cells = s.cells := by
  unfold settleBase
  constructor <;> (repeat' split) <;> simp

@[simp] theorem takeBase_keeps (k : Nat) (s : State) :
    (takeBase k s).still = s.still ∧ (takeBase k s).cells = s.cells := ⟨rfl, rfl⟩

@[simp] theorem freeBase_keeps (k : Nat) (s : State) :
    (freeBase k s).still = s.still ∧ (freeBase k s).cells = s.cells := by
  simp [freeBase]

@[simp] theorem releaseBase_keeps (k : Nat) (s : State) :
    (releaseBase k s).still = s.still ∧ (releaseBase k s).cells = s.cells := by
  simp [releaseBase]

/-! Jobs.lean -/

@[simp] theorem declareCore_keeps (body : Nat) (i : Nat) (s : State) :
    (declareCore body i s).still = s.still ∧ (declareCore body i s).cells = s.cells := ⟨rfl, rfl⟩

@[simp] theorem declareCores_keeps (body : Nat) (s : State) :
    (declareCores body s).still = s.still ∧ (declareCores body s).cells = s.cells := by
  unfold declareCores
  constructor <;> (first | (apply foldl_still; intro t x) | (apply foldl_cells; intro t x)) <;> (repeat' split) <;>
    simp

/-! Streams.lean -/

@[simp] theorem updStream_keeps (i : Nat) (f : Stream → Stream) (s : State) :
    (updStream i f s).still = s.still ∧ (updStream i f s).cells = s.cells := ⟨rfl, rfl⟩

@[simp] theorem updSlot_keeps (n : Nat) (f : Slot → Slot) (s : State) :
    (updSlot n f s).still = s.still ∧ (updSlot n f s).cells = s.cells := ⟨rfl, rfl⟩

@[simp] theorem updRing_keeps (r : Nat) (f : Ring → Ring) (s : State) :
    (updRing r f s).still = s.still ∧ (updRing r f s).cells = s.cells := ⟨rfl, rfl⟩

@[simp] theorem storeCtx_keeps (i : Nat) (s : State) :
    (storeCtx i s).still = s.still ∧ (s.cells.wf = true → (storeCtx i s).cells.wf = true) := by
  refine ⟨?_, fun w => ?_⟩ <;> unfold storeCtx <;> (repeat' split) <;> simp [*]

@[simp] theorem storeCached_keeps (s : State) :
    (storeCached s).still = s.still ∧ (s.cells.wf = true → (storeCached s).cells.wf = true) := by
  unfold storeCached
  exact ⟨foldl_still _ _ (fun t x => foldl_still t _ (fun u i => (storeCtx_keeps i u).1) _) _,
    fun w => foldl_wf _ (fun t x => foldl_wf _ (fun u i => (storeCtx_keeps i u).2) _) _ w⟩

@[simp] theorem putSet_keeps (set : Nat) (l : List Nat) (s : State) :
    (putSet set l s).still = s.still ∧ (putSet set l s).cells = s.cells := ⟨rfl, rfl⟩

@[simp] theorem installCtx_keeps (i : Nat) (s : State) :
    (installCtx i s).still = s.still ∧ (s.cells.wf = true → (installCtx i s).cells.wf = true) := by
  refine ⟨?_, fun w => ?_⟩ <;> unfold installCtx <;> dsimp only <;> (repeat' split) <;>
    simp_all (maxDischargeDepth := 8)

@[simp] theorem dropCtx_keeps (i : Nat) (s : State) :
    (dropCtx i s).still = s.still ∧ (dropCtx i s).cells = s.cells := ⟨rfl, rfl⟩

@[simp] theorem settleEntry_keeps (r : Nat) (pos : Nat) (c : Completion) (s : State) :
    (settleEntry r pos c s).still = s.still ∧ (settleEntry r pos c s).cells = s.cells := ⟨rfl, rfl⟩

@[simp] theorem settleUndef_keeps (r : Nat) (pos : Nat) (status : Nat) (mover : Nat) (fault : Option (Nat × Bool))
    (s : State) :
    (settleUndef r pos status mover fault s).still = s.still ∧
      (settleUndef r pos status mover fault s).cells = s.cells := ⟨rfl, rfl⟩

@[simp] theorem setPort_keeps (p : Nat) (f : Port → Port) (s : State) :
    (setPort p f s).still = s.still ∧ (setPort p f s).cells = s.cells := ⟨rfl, rfl⟩

@[simp] theorem tellFill_keeps (t : Option Nat × Nat) (fill : Nat) (s : State) :
    (tellFill t fill s).still = s.still ∧ (tellFill t fill s).cells = s.cells := ⟨rfl, rfl⟩

@[simp] theorem failAt_keeps (h : Option NrdyHold) (p : Nat) (s : State) (d : Delivery) :
    (failAt h p s d).still = s.still ∧ (failAt h p s d).cells = s.cells := by
  unfold failAt
  constructor <;> (dsimp only; split) <;> simp

@[simp] theorem failPicked_keeps (h : Option NrdyHold) (pick : Delivery → Bool) (s : State) :
    (failPicked h pick s).still = s.still ∧ (failPicked h pick s).cells = s.cells := by
  unfold failPicked
  exact ⟨foldl_still _ _ (fun t x => foldl_still t _ (by simp) _) _, foldl_cells _ _ (fun t x => foldl_cells t _ (by simp) _) _⟩

@[simp] theorem freeNrdy_keeps (k : NrdyHold → Bool) (s : State) :
    (freeNrdy k s).still = s.still ∧ (freeNrdy k s).cells = s.cells := by
  simp [freeNrdy]

@[simp] theorem failSlot_keeps (h : Option NrdyHold) (n : Nat) (s : State) :
    (failSlot h n s).still = s.still ∧ (failSlot h n s).cells = s.cells := by
  simp [failSlot]

@[simp] theorem discardSlot_keeps (h : Option NrdyHold) (n : Nat) (s : State) :
    (discardSlot h n s).still = s.still ∧ (discardSlot h n s).cells = s.cells := by
  simp [discardSlot]

@[simp] theorem giveUpSlot_keeps (h : Option NrdyHold) (i : Nat) (s : State) :
    (giveUpSlot h i s).still = s.still ∧ (giveUpSlot h i s).cells = s.cells := by
  unfold giveUpSlot
  constructor <;> (repeat' split) <;> simp

@[simp] theorem leaveQueues_keeps (i : Nat) (s : State) :
    (leaveQueues i s).still = s.still ∧ (leaveQueues i s).cells = s.cells := ⟨rfl, rfl⟩

@[simp] theorem setQuant_keeps (k : Nat) (f : Quantiser → Quantiser) (s : State) :
    (setQuant k f s).still = s.still ∧ (setQuant k f s).cells = s.cells := ⟨rfl, rfl⟩

@[simp] theorem dropReplays_keeps (i : Nat) (s : State) :
    (dropReplays i s).still = s.still ∧ (dropReplays i s).cells = s.cells := ⟨rfl, rfl⟩

@[simp] theorem endRow_keeps (i : Nat) (s : State) :
    (endRow i s).still = s.still ∧ (endRow i s).cells = s.cells := ⟨rfl, rfl⟩

@[simp] theorem dropLaneBeats_keeps (k : Nat) (s : State) :
    (dropLaneBeats k s).still = s.still ∧ (dropLaneBeats k s).cells = s.cells := by
  unfold dropLaneBeats
  split
  · exact ⟨rfl, rfl⟩
  · constructor <;> (dsimp only; split) <;> simp

@[simp] theorem dropHeld_keeps (k : Nat) (b : Binding) (s : State) :
    (dropHeld k b s).still = s.still ∧ (dropHeld k b s).cells = s.cells := ⟨rfl, rfl⟩

@[simp] theorem dropHeldOf_keeps (i : Nat) (s : State) :
    (dropHeldOf i s).still = s.still ∧ (dropHeldOf i s).cells = s.cells := by
  unfold dropHeldOf
  constructor <;> (repeat' split) <;> simp

@[simp] theorem dropFeed_keeps (h : Option NrdyHold) (i : Nat) (s : State) :
    (dropFeed h i s).still = s.still ∧ (dropFeed h i s).cells = s.cells := by
  simp [dropFeed]

@[simp] theorem dropOrphans_keeps (h : Option NrdyHold) (i : Nat) (s : State) :
    (dropOrphans h i s).still = s.still ∧ (dropOrphans h i s).cells = s.cells := by
  simp [dropOrphans]

@[simp] theorem settleDropped_keeps (status : Nat) (r : Nat) (pos : Nat) (mover : Nat) (s : State) :
    (settleDropped status r pos mover s).still = s.still ∧ (settleDropped status r pos mover s).cells = s.cells := ⟨rfl, rfl⟩

@[simp] theorem dropWork_keeps (h : Option NrdyHold) (i : Nat) (s : State) :
    (dropWork h i s).still = s.still ∧ (dropWork h i s).cells = s.cells := by
  simp [dropWork]

@[simp] theorem disableStream_keeps (i : Nat) (s : State) :
    (disableStream i s).still = s.still ∧ (s.cells.wf = true → (disableStream i s).cells.wf = true) := by
  refine ⟨?_, fun w => ?_⟩ <;> unfold disableStream <;> (repeat' split) <;> simp (maxDischargeDepth := 8) [*]

@[simp] theorem orphanDeliveries_keeps (n : Nat) (s : State) :
    (orphanDeliveries n s).still = s.still ∧ (orphanDeliveries n s).cells = s.cells := ⟨rfl, rfl⟩

@[simp] theorem leaveSlot_keeps (h : Option NrdyHold) (i : Nat) (x : Stream) (s : State) :
    (leaveSlot h i x s).still = s.still ∧ (leaveSlot h i x s).cells = s.cells := by
  unfold leaveSlot
  constructor <;> (repeat' split) <;> simp

@[simp] theorem haltStream_keeps (i : Nat) (f : Failure) (part : Bool) (needs : Option Nat) (s : State) :
    (haltStream i f part needs s).still = s.still ∧
      (s.cells.wf = true → (haltStream i f part needs s).cells.wf = true) := by
  refine ⟨?_, fun w => ?_⟩ <;> unfold haltStream <;> (repeat' split) <;> simp (maxDischargeDepth := 8) [*]

@[simp] theorem allocStream_keeps (c : Cmd) (s : State) :
    (allocStream c s).1.still = s.still ∧ (s.cells.wf = true → (allocStream c s).1.cells.wf = true) := by
  refine ⟨?_, fun w => ?_⟩ <;> unfold allocStream <;> dsimp only <;> (repeat' split) <;>
    simp_all (maxDischargeDepth := 8)

@[simp] theorem staleAll_keeps (i : Nat) (l : List (Nat × Nat)) (s : State) :
    (staleAll i l s).still = s.still ∧ (staleAll i l s).cells = s.cells := by
  unfold staleAll
  constructor <;> (first | (apply foldl_still; intro t x) | (apply foldl_cells; intro t x)) <;> (repeat' split) <;>
    simp

@[simp] theorem freeStream_keeps (i : Nat) (s : State) :
    (freeStream i s).still = s.still ∧ (freeStream i s).cells = s.cells := by
  unfold freeStream
  constructor <;> (repeat' split) <;> simp

@[simp] theorem enqueue_keeps (q : Nat) (i : Nat) (s : State) :
    (enqueue q i s).still = s.still ∧ (enqueue q i s).cells = s.cells := ⟨rfl, rfl⟩

@[simp] theorem resumeStream_keeps (i : Nat) (s : State) :
    (resumeStream i s).1.still = s.still ∧ (resumeStream i s).1.cells = s.cells := by
  unfold resumeStream
  constructor <;> (repeat' split) <;> simp

@[simp] theorem abortStream_keeps (i : Nat) (s : State) :
    (abortStream i s).1.still = s.still ∧ (s.cells.wf = true → (abortStream i s).1.cells.wf = true) := by
  refine ⟨?_, fun w => ?_⟩ <;> unfold abortStream <;> (repeat' split) <;> simp (maxDischargeDepth := 8) [*]

end Sys2Proof.Machine
end

