-- ==== Sys2Proof/Laws/Bring.lean ====
section
/-! SUPPORT. What bring-up and the host register port leave still, and that the byte memories stay in canonical form: one lemma for
each operation, in the order of the files of Machine/. -/

namespace Sys2Proof.Machine

/-! Bringup.lean -/

@[simp] theorem isolate_keeps (s : State) :
    (isolate s).still = s.still ∧ (isolate s).cells = s.cells := ⟨rfl, rfl⟩

@[simp] theorem spoilFlight_keeps (s : State) :
    (spoilFlight s).still = s.still ∧ (spoilFlight s).cells = s.cells := ⟨rfl, rfl⟩

@[simp] theorem stageEntered_keeps (stage : Nat) (s : State) :
    (stageEntered stage s).still = s.still ∧ (stageEntered stage s).cells = s.cells := by
  simp [stageEntered]

@[simp] theorem unitNoted_keeps (reason : Nat) (kind : Nat) (unit : Nat) (rate : Nat) (attempts : Nat) (s : State) :
    (unitNoted reason kind unit rate attempts s).still = s.still ∧
      (unitNoted reason kind unit rate attempts s).cells = s.cells := by
  simp [unitNoted]

@[simp] theorem linkDownNoted_keeps (ucie : Bool) (unit : Nat) (reason : Nat) (s : State) :
    (linkDownNoted ucie unit reason s).still = s.still ∧ (linkDownNoted ucie unit reason s).cells = s.cells := by
  simp [linkDownNoted]

@[simp] theorem peatOnline_keeps (s : State) :
    (peatOnline s).still = s.still ∧ (peatOnline s).cells = s.cells := by
  simp [peatOnline]

@[simp] theorem zeroImage_keeps (s : State) :
    (zeroImage s).still = s.still ∧ (s.cells.wf = true → (zeroImage s).cells.wf = true) := by
  refine ⟨?_, fun w => ?_⟩ <;> unfold zeroImage <;> (repeat' split) <;> simp [*]

@[simp] theorem stopS1_keeps (cause : Nat) (s : State) :
    (stopS1 cause s).still = s.still ∧ (stopS1 cause s).cells = s.cells := ⟨rfl, rfl⟩

@[simp] theorem noteRepair_keeps (s : State) (b : Nat × Nat) :
    (noteRepair s b).still = s.still ∧ (noteRepair s b).cells = s.cells := by
  simp [noteRepair]

@[simp] theorem checkHeld_keeps (s : State) :
    (checkHeld s).still = s.still ∧ (checkHeld s).cells = s.cells := by
  unfold checkHeld
  constructor <;> (first | (apply foldl_still; intro t x) | (apply foldl_cells; intro t x)) <;> (repeat' split) <;>
    simp

@[simp] theorem openBoardwalk_keeps (s : State) :
    (openBoardwalk s).still = s.still ∧ (s.cells.wf = true → (openBoardwalk s).cells.wf = true) := by
  refine ⟨?_, fun w => ?_⟩ <;> unfold openBoardwalk <;> (repeat' split) <;> simp [*]

@[simp] theorem mereTested_keeps (failing : List (Nat × Nat)) (s : State) :
    (mereTested failing s).still = s.still ∧ (s.cells.wf = true → (mereTested failing s).cells.wf = true) := by
  have h1 := foldl_still s noteRepair (by simp)
  have h2 := foldl_cells s noteRepair (by simp)
  unfold mereTested
  dsimp only
  split
  · simp [h1, h2]
  · exact ⟨by simp [h1], fun w => (openBoardwalk_keeps _).2 (by rw [h2]; exact w)⟩

@[simp] theorem setStack_keeps (k : Nat) (f : Stack → Stack) (s : State) :
    (setStack k f s).still = s.still ∧ (setStack k f s).cells = s.cells := ⟨rfl, rfl⟩

@[simp] theorem joinStack_keeps (k : Nat) (t : StackTrain) (attempts : Nat) (s : State) :
    (joinStack k t attempts s).still = s.still ∧ (s.cells.wf = true → (joinStack k t attempts s).cells.wf = true) := by
  refine ⟨?_, fun w => ?_⟩ <;> unfold joinStack <;> (repeat' split) <;> simp [*]

@[simp] theorem failStack_keeps (k : Nat) (attempts : Nat) (s : State) :
    (failStack k attempts s).still = s.still ∧ (failStack k attempts s).cells = s.cells := by
  simp [failStack]

@[simp] theorem startPort_keeps (s : State) (p : Nat) :
    (startPort s p).still = s.still ∧ (startPort s p).cells = s.cells := by
  simp [startPort]

@[simp] theorem startPorts_keeps (s : State) :
    (startPorts s).still = s.still ∧ (startPorts s).cells = s.cells := by
  unfold startPorts
  constructor <;> (first | (apply foldl_still; intro t x) | (apply foldl_cells; intro t x)) <;> (repeat' split) <;>
    simp

@[simp] theorem exitS4_keeps (s : State) :
    (exitS4 s).still = s.still ∧ (exitS4 s).cells = s.cells := by
  unfold exitS4
  constructor <;> (repeat' split) <;> simp

@[simp] theorem resolveJoin_keeps (s : State) (k : Nat) :
    (resolveJoin s k).still = s.still ∧ (resolveJoin s k).cells = s.cells := by
  unfold resolveJoin
  constructor <;> (repeat' split) <;> simp

@[simp] theorem enterS4_keeps (s : State) :
    (enterS4 s).still = s.still ∧ (enterS4 s).cells = s.cells := by
  unfold enterS4
  constructor <;> (repeat' split) <;> simp [foldl_still, foldl_cells]

@[simp] theorem nextStack_keeps (s : State) :
    (nextStack s).still = s.still ∧ (nextStack s).cells = s.cells := by
  unfold nextStack
  constructor <;> (dsimp only; (repeat' split)) <;> simp_all

@[simp] theorem clearTrip_keeps (k : Nat) (s : State) :
    (clearTrip k s).still = s.still ∧ (clearTrip k s).cells = s.cells := ⟨rfl, rfl⟩

@[simp] theorem attemptS3_keeps (k : Nat) (t : StackTrain) (s : State) :
    (attemptS3 k t s).still = s.still ∧ (s.cells.wf = true → (attemptS3 k t s).cells.wf = true) := by
  refine ⟨?_, fun w => ?_⟩ <;> unfold attemptS3 <;> (repeat' split) <;> simp [*]

@[simp] theorem bumpRetry_keeps (old : CmdWait) (new : CmdWait) (s : State) :
    (bumpRetry old new s).still = s.still ∧ (bumpRetry old new s).cells = s.cells := by
  simp [bumpRetry]

@[simp] theorem attemptRetry_keeps (k : Nat) (n : Nat) (t : StackTrain) (s : State) :
    (attemptRetry k n t s).still = s.still ∧ (s.cells.wf = true → (attemptRetry k n t s).cells.wf = true) := by
  refine ⟨?_, fun w => ?_⟩ <;> unfold attemptRetry <;> (repeat' split) <;> simp [*]

@[simp] theorem stackAttempt_keeps (k : Nat) (t : StackTrain) (s : State) :
    (stackAttempt k t s).still = s.still ∧ (s.cells.wf = true → (stackAttempt k t s).cells.wf = true) := by
  refine ⟨?_, fun w => ?_⟩ <;> unfold stackAttempt <;> (repeat' split) <;> simp [*]

@[simp] theorem joinStackAct_keeps (c : Cmd) (s : State) :
    (joinStackAct c s).1.still = s.still ∧ (joinStackAct c s).1.cells = s.cells := by
  unfold joinStackAct
  constructor <;> (dsimp only; (repeat' split)) <;> simp_all

@[simp] theorem lockPlans_keeps (s : State) :
    (lockPlans s).still = s.still ∧ (lockPlans s).cells = s.cells := ⟨rfl, rfl⟩

@[simp] theorem enterS5_keeps (s : State) :
    (enterS5 s).still = s.still ∧ (enterS5 s).cells = s.cells := by
  simp [enterS5]

@[simp] theorem switchRate_keeps (k : Nat) (pause : Nat) (s : State) :
    (switchRate k pause s).still = s.still ∧ (switchRate k pause s).cells = s.cells := ⟨rfl, rfl⟩

@[simp] theorem noteTemps_keeps (l : List (Nat × Int)) (s : State) :
    (noteTemps l s).still = s.still ∧ (noteTemps l s).cells = s.cells := ⟨rfl, rfl⟩

@[simp] theorem reached_keeps (reason : Nat) (lim : Int) (s : State) :
    (reached reason lim s).still = s.still ∧ (reached reason lim s).cells = s.cells := by
  simp [reached]

/-! Hrp.lean -/

@[simp] theorem holdRequest_keeps (c : Instr) (s : State) :
    (holdRequest c s).still = s.still ∧ (holdRequest c s).cells = s.cells := ⟨rfl, rfl⟩

@[simp] theorem answer_keeps (tag : BitVec 5) (status : Nat) (rdata : Nat) (s : State) :
    (answer tag status rdata s).still = s.still ∧ (answer tag status rdata s).cells = s.cells := ⟨rfl, rfl⟩

@[simp] theorem answerDecode_keeps (tag : BitVec 5) (s : State) :
    (answerDecode tag s).still = s.still ∧ (answerDecode tag s).cells = s.cells := ⟨rfl, rfl⟩

theorem hrpRequest_keeps (c : Instr) (tag : BitVec 5) (f : State → State) (s : State)
    (h : ∀ t, (f t).still = t.still ∧ (f t).cells = t.cells) :
    (hrpRequest c tag f s).still = s.still ∧ (hrpRequest c tag f s).cells = s.cells := by
  unfold hrpRequest; constructor <;> (repeat' split) <;> simp [h]

theorem regWrite_keeps (tag : BitVec 5) (be : BitVec 8) (f : State → State) (s : State)
    (h : ∀ t, (f t).still = t.still ∧ (f t).cells = t.cells) :
    (regWrite tag be f s).still = s.still ∧ (regWrite tag be f s).cells = s.cells := by
  unfold regWrite; constructor <;> split <;> simp [h]

@[simp] theorem setMask_keeps (data : Word64) (s : State) :
    (setMask data s).still = s.still ∧ (setMask data s).cells = s.cells := ⟨rfl, rfl⟩

@[simp] theorem setEnable_keeps (g : Nat) (data : Word64) (s : State) :
    (setEnable g data s).still = s.still ∧ (setEnable g data s).cells = s.cells := by
  simp [setEnable]

@[simp] theorem setVector_keeps (g : Nat) (data : Word64) (s : State) :
    (setVector g data s).still = s.still ∧ (setVector g data s).cells = s.cells := by
  unfold setVector
  constructor <;> (repeat' split) <;> simp

@[simp] theorem writeArea_keeps (m : Nat) (w : Nat) (be : BitVec 8) (data : Word64) (s : State) :
    (writeArea m w be data s).still = s.still ∧ (writeArea m w be data s).cells = s.cells := by
  simp [writeArea]

@[simp] theorem ackBox_keeps (m : Nat) (data : Word64) (s : State) :
    (ackBox m data s).still = s.still ∧ (ackBox m data s).cells = s.cells := by
  simp [ackBox]

@[simp] theorem clearCause_keeps (at' : HrpAt) (data : Word64) (s : State) :
    (clearCause at' data s).still = s.still ∧ (clearCause at' data s).cells = s.cells := by
  unfold clearCause
  constructor <;> (repeat' split) <;> simp

@[simp] theorem readStatus_keeps (tag : BitVec 5) (r : Nat) (word : Bool) (s : State) :
    (readStatus tag r word s).still = s.still ∧ (readStatus tag r word s).cells = s.cells := ⟨rfl, rfl⟩

@[simp] theorem ringBell_keeps (n : Nat) (v : Nat) (s : State) :
    (ringBell n v s).still = s.still ∧ (ringBell n v s).cells = s.cells := by
  unfold ringBell
  constructor <;> (repeat' split) <;> simp

@[simp] theorem bellCase_keeps (n : Nat) (v : Nat) (s : State) :
    (bellCase n v s).still = s.still ∧ (bellCase n v s).cells = s.cells := by
  unfold bellCase
  constructor <;> (repeat' split) <;> simp

@[simp] theorem doorbellWrite_keeps (tag : BitVec 5) (n : Nat) (be : BitVec 8) (data : Word64) (s : State) :
    (doorbellWrite tag n be data s).still = s.still ∧ (doorbellWrite tag n be data s).cells = s.cells := by
  unfold doorbellWrite
  constructor <;> (repeat' split) <;> simp

@[simp] theorem readCopy_keeps (env : Env) (copy : Nat) (w : Nat) (s : State) :
    (readCopy env copy w s).still = s.still ∧ (readCopy env copy w s).cells = s.cells := by
  unfold readCopy
  constructor <;> (repeat' split) <;> simp

@[simp] theorem readPeat_keeps (tag : BitVec 5) (w : Nat) (env : Env) (s : State) :
    (readPeat tag w env s).still = s.still ∧ (readPeat tag w env s).cells = s.cells := by
  unfold readPeat
  constructor <;> (dsimp only; (repeat' split)) <;> simp_all

end Sys2Proof.Machine
end

