-- ==== Sys2Proof/Laws/Path.lean ====
section
/-! SUPPORT. What translation, links and the data path leave still, and that the byte memories stay in canonical form: one lemma for
each operation, in the order of the files of Machine/. -/

namespace Sys2Proof.Machine

/-! TileXlate.lean -/

@[simp] theorem soundRead_keeps (env : Env) (x : EccSite) (s : State) :
    (soundRead env x s).still = s.still ∧ (soundRead env x s).cells = s.cells := by
  unfold soundRead
  constructor <;> (repeat' split) <;> simp

@[simp] theorem copyLookup_keeps (q : Nat) (s : State) :
    (copyLookup q s).still = s.still ∧ (copyLookup q s).cells = s.cells := by
  simp [copyLookup]

@[simp] theorem setMover_keeps (m : Nat) (f : Mover → Mover) (s : State) :
    (setMover m f s).still = s.still ∧ (setMover m f s).cells = s.cells := ⟨rfl, rfl⟩

@[simp] theorem lookFirst_keeps (env : Env) (m : Nat) (page : Nat) (t : Tile) (s : State) :
    (lookFirst env m page t s).2.still = s.still ∧ (lookFirst env m page t s).2.cells = s.cells := by
  unfold lookFirst
  constructor <;> (dsimp only; (repeat' split)) <;> simp_all

@[simp] theorem lookPages_keeps (env : Env) (m : Nat) (x1 : List Nat) (x2 : Tile) (s : State) :
    (lookPages env m x1 x2 s).2.still = s.still ∧ (lookPages env m x1 x2 s).2.cells = s.cells := by
  fun_induction lookPages env m x1 x2 s <;> simp_all

@[simp] theorem readSpan_keeps (env : Env) (q : Nat) (t : Tile) (sp : Nat) (reader : Nat) (x1 : Nat) (x2 : Nat) (x3
    : Nat) (s : State) :
    (readSpan env q t sp reader x1 x2 x3 s).st.still = s.still ∧
      (readSpan env q t sp reader x1 x2 x3 s).st.cells = s.cells := by
  fun_induction readSpan env q t sp reader x1 x2 x3 s <;> simp_all +zetaDelta

@[simp] theorem Forged.waiting_keeps (t : Tile) (s : State) :
    (Forged.waiting t s).st.still = s.still ∧ (Forged.waiting t s).st.cells = s.cells := ⟨rfl, rfl⟩

@[simp] theorem Forged.goes_keeps (t : Tile) (s : State) :
    (Forged.goes t s).st.still = s.still ∧ (Forged.goes t s).st.cells = s.cells := ⟨rfl, rfl⟩

@[simp] theorem Forged.fails_keeps (t : Tile) (f : TileFault) (s : State) :
    (Forged.fails t f s).st.still = s.still ∧ (Forged.fails t f s).st.cells = s.cells := ⟨rfl, rfl⟩

@[simp] theorem indexFails_keeps (t : Tile) (f : TileFault) (segs : List (Nat × Nat)) (s : State) :
    (indexFails t f segs s).st.still = s.still ∧ (indexFails t f segs s).st.cells = s.cells := by
  unfold indexFails
  constructor <;> (repeat' split) <;> simp

@[simp] theorem readIndex_keeps (env : Env) (m : Nat) (j : Nat) (segs : List (Nat × Nat)) (a : Access) (t : Tile) (s : State) :
    (readIndex env m j segs a t s).st.still = s.still ∧ (readIndex env m j segs a t s).st.cells = s.cells := by
  unfold readIndex
  constructor <;> (dsimp only; (repeat' split)) <;> simp_all

@[simp] theorem forgeIndex_keeps (env : Env) (d : Desc) (m : Nat) (mask : BitVec 16) (j : Nat) (segs : List (Nat ×
    Nat)) (t : Tile) (s : State) :
    (forgeIndex env d m mask j segs t s).st.still = s.still ∧
      (forgeIndex env d m mask j segs t s).st.cells = s.cells := by
  unfold forgeIndex
  constructor <;> (dsimp only; (repeat' split)) <;> simp_all

@[simp] theorem forge_keeps (env : Env) (d : Desc) (m : Nat) (mask : BitVec 16) (x1 : Nat) (x2 : Tile) (s : State) :
    (forge env d m mask x1 x2 s).st.still = s.still ∧ (forge env d m mask x1 x2 s).st.cells = s.cells := by
  fun_induction forge env d m mask x1 x2 s <;> simp_all +zetaDelta

@[simp] theorem readEscapes_keeps (env : Env) (d : Desc) (q : Nat) (mask : BitVec 16) (x1 : List Nat) (x2 : Tile) (s : State) :
    (readEscapes env d q mask x1 x2 s).st.still = s.still ∧ (readEscapes env d q mask x1 x2 s).st.cells = s.cells := by
  fun_induction readEscapes env d q mask x1 x2 s <;> simp_all +zetaDelta (maxDischargeDepth := 8)

@[simp] theorem checkEvent_keeps (q : Nat) (m : Nat) (l : List Access) (s : State) :
    (checkEvent q m l s).still = s.still ∧ (checkEvent q m l s).cells = s.cells := by
  unfold checkEvent
  constructor <;> (repeat' split) <;> simp

@[simp] theorem failTile_keeps (n : Nat) (x : Slot) (f : TileFault) (needs : Option Nat) (s : State) :
    (failTile n x f needs s).still = s.still ∧ (s.cells.wf = true → (failTile n x f needs s).cells.wf = true) := by
  refine ⟨?_, fun w => ?_⟩ <;> unfold failTile <;> (repeat' split) <;> simp [*]

@[simp] theorem putNext_keeps (n : Nat) (t : Tile) (s : State) :
    (putNext n t s).still = s.still ∧ (putNext n t s).cells = s.cells := ⟨rfl, rfl⟩

@[simp] theorem judgeTile_keeps (n : Nat) (x : Slot) (d : Desc) (mask : BitVec 16) (t : Tile) (s : State) :
    (judgeTile n x d mask t s).still = s.still ∧ (s.cells.wf = true → (judgeTile n x d mask t s).cells.wf = true) := by
  refine ⟨?_, fun w => ?_⟩ <;> unfold judgeTile <;> dsimp only <;> (repeat' split) <;>
    simp_all (maxDischargeDepth := 8)

@[simp] theorem failOrWait_keeps (n : Nat) (x : Slot) (f : TileFault) (t : Tile) (s : State) :
    (failOrWait n x f t s).still = s.still ∧ (s.cells.wf = true → (failOrWait n x f t s).cells.wf = true) := by
  refine ⟨?_, fun w => ?_⟩ <;> unfold failOrWait <;> (repeat' split) <;> simp (maxDischargeDepth := 8) [*]

@[simp] theorem translateShaped_keeps (n : Nat) (env : Env) (x : Slot) (mask : BitVec 16) (t : Tile) (s : State) :
    (translateShaped n env x mask t s).still = s.still ∧
      (s.cells.wf = true → (translateShaped n env x mask t s).cells.wf = true) := by
  refine ⟨?_, fun w => ?_⟩ <;> unfold translateShaped <;> dsimp only <;> (repeat' split) <;>
    simp_all (maxDischargeDepth := 8)

@[simp] theorem translateTile_keeps (n : Nat) (env : Env) (x : Slot) (s : State) :
    (translateTile n env x s).still = s.still ∧ (s.cells.wf = true → (translateTile n env x s).cells.wf = true) := by
  refine ⟨?_, fun w => ?_⟩ <;> unfold translateTile <;> dsimp only <;> (repeat' split) <;>
    simp_all (maxDischargeDepth := 8)

/-! Walk.lean -/

@[simp] theorem updTiles_keeps (n : Nat) (f : Tile → Tile) (s : State) :
    (updTiles n f s).still = s.still ∧ (updTiles n f s).cells = s.cells := ⟨rfl, rfl⟩

@[simp] theorem installFirst_keeps (m : Nat) (e : LabEntry) (s : State) :
    (installFirst m e s).still = s.still ∧ (installFirst m e s).cells = s.cells := ⟨rfl, rfl⟩

@[simp] theorem answerHit_keeps (n : Nat) (page : Nat) (found : Nat) (charge : Nat) (bit : Nat) (e : LabEntry) (s :
    State) :
    (answerHit n page found charge bit e s).still = s.still ∧
      (answerHit n page found charge bit e s).cells = s.cells := ⟨rfl, rfl⟩

@[simp] theorem answerBad_keeps (n : Nat) (page : Nat) (charge : Nat) (bit : Nat) (x : XFault) (s : State) :
    (answerBad n page charge bit x s).still = s.still ∧ (answerBad n page charge bit x s).cells = s.cells :=
  ⟨rfl, rfl⟩

@[simp] theorem startMiss_keeps (n : Nat) (page : Nat) (q : Nat) (s : State) :
    (startMiss n page q s).still = s.still ∧ (startMiss n page q s).cells = s.cells := ⟨rfl, rfl⟩

@[simp] theorem lookSecond_keeps (n : Nat) (page : Nat) (x : Slot) (s : State) :
    (lookSecond n page x s).still = s.still ∧ (lookSecond n page x s).cells = s.cells := by
  unfold lookSecond
  constructor <;> (dsimp only; (repeat' split)) <;> simp_all

@[simp] theorem passLook_keeps (m : Nat) (s : State) :
    (passLook m s).still = s.still ∧ (passLook m s).cells = s.cells := ⟨rfl, rfl⟩

@[simp] theorem startWalk_keeps (q : Nat) (n : Nat) (page : Nat) (s : State) :
    (startWalk q n page s).still = s.still ∧ (startWalk q n page s).cells = s.cells := by
  unfold startWalk
  constructor <;> (dsimp only; (repeat' split)) <;> simp_all

@[simp] theorem takeMiss_keeps (q : Nat) (s : State) :
    (takeMiss q s).still = s.still ∧ (takeMiss q s).cells = s.cells := by
  unfold takeMiss
  constructor <;> (dsimp only; (repeat' split)) <;> simp_all

@[simp] theorem requeueWalk_keeps (q : Nat) (w : Walk) (covers : Nat → Bool) (s : State) :
    (requeueWalk q w covers s).still = s.still ∧ (requeueWalk q w covers s).cells = s.cells := ⟨rfl, rfl⟩

theorem answerWalk_keeps (w : Walk) (covers : Nat → Bool) (f : Nat → Nat → State → State) (s : State)
    (h : ∀ n p t, (f n p t).still = t.still ∧ (f n p t).cells = t.cells) :
    (answerWalk w covers f s).still = s.still ∧ (answerWalk w covers f s).cells = s.cells :=
  ⟨foldl_still _ _ (fun t x => (h _ _ t).1) _, foldl_cells _ _ (fun t x => (h _ _ t).2) _⟩

@[simp] theorem readTable_keeps (q : Nat) (env : Env) (evict : Option Nat) (w : Walk) (s : State) :
    (readTable q env evict w s).still = s.still ∧ (readTable q env evict w s).cells = s.cells := by
  have h1 : ∀ (covers : Nat → Bool) (e : LabEntry) (a b : Nat) (t : State), _ := fun covers e a b t =>
    answerWalk_keeps w covers (fun n p t => answerHit n p w.level a b e t) t (by simp)
  have h2 : ∀ (covers : Nat → Bool) (x : XFault) (a b : Nat) (t : State), _ := fun covers x a b t =>
    answerWalk_keeps w covers (fun n p t => answerBad n p a b x t) t (by simp)
  unfold readTable
  dsimp only
  constructor <;> split <;> simp [h1, h2, apply_ite State.still, apply_ite State.cells]

@[simp] theorem spreadWd_keeps (w : Wd) (s : State) :
    (spreadWd w s).still = s.still ∧ (spreadWd w s).cells = s.cells := by
  unfold spreadWd
  constructor <;> (repeat' split) <;> simp

@[simp] theorem wakeLookups_keeps (w : Wd) (s : State) :
    (wakeLookups w s).still = s.still ∧ (wakeLookups w s).cells = s.cells := ⟨rfl, rfl⟩

@[simp] theorem zeroPages_keeps (x1 : Nat) (pages : Nat) (s : State) :
    (zeroPages x1 pages s).still = s.still ∧ (s.cells.wf = true → (zeroPages x1 pages s).cells.wf = true) := by
  refine ⟨?_, fun w => ?_⟩ <;> unfold zeroPages <;> (repeat' split) <;> simp [*]

@[simp] theorem commitWd_keeps (w : Wd) (s : State) :
    (commitWd w s).still = s.still ∧ (s.cells.wf = true → (commitWd w s).cells.wf = true) := by
  refine ⟨?_, fun w => ?_⟩ <;> unfold commitWd <;> (repeat' split) <;> simp (maxDischargeDepth := 8) [*]

@[simp] theorem noteWd_keeps (w : Wd) (s : State) :
    (noteWd w s).still = s.still ∧ (noteWd w s).cells = s.cells := by
  unfold noteWd
  constructor <;> (repeat' split) <;> simp

@[simp] theorem finishWd_keeps (w : Wd) (s : State) :
    (finishWd w s).still = s.still ∧ (s.cells.wf = true → (finishWd w s).cells.wf = true) := by
  refine ⟨?_, fun w => ?_⟩ <;> unfold finishWd <;> dsimp only <;> (repeat' split) <;>
    simp_all (maxDischargeDepth := 8)

@[simp] theorem startWd_keeps (w0 : Wd) (s : State) :
    (startWd w0 s).still = s.still ∧ (startWd w0 s).cells = s.cells := by
  simp [startWd]

@[simp] theorem runWd_keeps (m : Nat) (w : Wd) (s : State) :
    (runWd m w s).1.still = s.still ∧ (s.cells.wf = true → (runWd m w s).1.cells.wf = true) := by
  refine ⟨?_, fun w => ?_⟩ <;> unfold runWd <;> dsimp only <;> (repeat' split) <;> simp_all (maxDischargeDepth := 8)

@[simp] theorem settleWds_keeps (s : State) :
    (settleWds s).still = s.still ∧ (s.cells.wf = true → (settleWds s).cells.wf = true) := by
  refine ⟨?_, fun w => ?_⟩ <;> unfold settleWds <;>
    (first | (apply foldl_still; intro t x) | (refine foldl_wf _ (fun t x w => ?_) _ w)) <;> (repeat' split) <;>
    simp_all (maxDischargeDepth := 8)

@[simp] theorem ackAll_keeps (mv : Nat) (s : State) :
    (ackAll mv s).still = s.still ∧ (s.cells.wf = true → (ackAll mv s).cells.wf = true) := by
  refine ⟨?_, fun w => ?_⟩ <;> unfold ackAll <;> (try dsimp only) <;> (repeat' split) <;>
    simp (maxDischargeDepth := 8) [*]

@[simp] theorem holdRange_keeps (n : Nat) (r : RangeEntry) (s : State) :
    (holdRange n r s).still = s.still ∧ (holdRange n r s).cells = s.cells := ⟨rfl, rfl⟩

@[simp] theorem mapRange_keeps (c : Cmd) (s : State) :
    (mapRange c s).1.still = s.still ∧ (s.cells.wf = true → (mapRange c s).1.cells.wf = true) := by
  refine ⟨?_, fun w => ?_⟩ <;> unfold mapRange <;> (try dsimp only) <;> (repeat' split) <;>
    simp (maxDischargeDepth := 8) [*]

@[simp] theorem markRange_keeps (n : Nat) (s : State) :
    (markRange n s).still = s.still ∧ (markRange n s).cells = s.cells := ⟨rfl, rfl⟩

@[simp] theorem unmapRange_keeps (c : Cmd) (s : State) :
    (unmapRange c s).1.still = s.still ∧ (s.cells.wf = true → (unmapRange c s).1.cells.wf = true) := by
  refine ⟨?_, fun w => ?_⟩ <;> unfold unmapRange <;> (try dsimp only) <;> (repeat' split) <;>
    simp (maxDischargeDepth := 8) [*]

@[simp] theorem setRoot_keeps (c : Cmd) (s : State) :
    (setRoot c s).1.still = s.still ∧ (s.cells.wf = true → (setRoot c s).1.cells.wf = true) := by
  refine ⟨?_, fun w => ?_⟩ <;> unfold setRoot <;> (try dsimp only) <;> (repeat' split) <;>
    simp (maxDischargeDepth := 8) [*]

@[simp] theorem withdrawSpan_keeps (c : Cmd) (s : State) :
    (withdrawSpan c s).1.still = s.still ∧ (s.cells.wf = true → (withdrawSpan c s).1.cells.wf = true) := by
  refine ⟨?_, fun w => ?_⟩ <;> unfold withdrawSpan <;> (try dsimp only) <;> (repeat' split) <;>
    simp (maxDischargeDepth := 8) [*]

@[simp] theorem askTables_keeps (env : Env) (page : Nat) (s : State) :
    (askTables env page s).st.still = s.still ∧ (askTables env page s).st.cells = s.cells := by
  unfold askTables
  constructor <;> (dsimp only; (repeat' split)) <;> simp_all

@[simp] theorem askXlate_keeps (env : Env) (va : Nat) (s : State) :
    (askXlate env va s).st.still = s.still ∧ (askXlate env va s).st.cells = s.cells := by
  unfold askXlate
  constructor <;> (repeat' split) <;> simp

@[simp] theorem queryXlate_keeps (env : Env) (c : Cmd) (s : State) :
    (queryXlate env c s).1.still = s.still ∧ (queryXlate env c s).1.cells = s.cells := by
  unfold queryXlate
  constructor <;> (repeat' split) <;> simp

/-! Links.lean -/

@[simp] theorem setCport_keeps (p : Nat) (f : CPort → CPort) (s : State) :
    (setCport p f s).still = s.still ∧ (setCport p f s).cells = s.cells := ⟨rfl, rfl⟩

@[simp] theorem portBump_keeps (p : Nat) (idx : Nat) (n : Nat) (s : State) :
    (portBump p idx n s).still = s.still ∧ (portBump p idx n s).cells = s.cells := ⟨rfl, rfl⟩

@[simp] theorem sendControl_keeps (p : Nat) (kind : Nat) (arg : Nat) (s : State) :
    (sendControl p kind arg s).still = s.still ∧ (sendControl p kind arg s).cells = s.cells := ⟨rfl, rfl⟩

@[simp] theorem pump_keeps (p : Nat) (x1 : Nat) (s : State) :
    (pump p x1 s).still = s.still ∧ (pump p x1 s).cells = s.cells := by
  fun_induction pump p x1 s <;> simp_all +zetaDelta

@[simp] theorem pumpPort_keeps (p : Nat) (s : State) :
    (pumpPort p s).still = s.still ∧ (pumpPort p s).cells = s.cells := by
  simp [pumpPort]

@[simp] theorem pumpMore_keeps (p : Nat) (s : State) :
    (pumpMore p s).still = s.still ∧ (pumpMore p s).cells = s.cells := by
  simp [pumpMore]

@[simp] theorem queuePacket_keeps (p : Nat) (k : Packet) (fwd : Bool) (s : State) :
    (queuePacket p k fwd s).still = s.still ∧ (queuePacket p k fwd s).cells = s.cells := ⟨rfl, rfl⟩

@[simp] theorem sendPacket_keeps (p : Nat) (k : Packet) (s : State) :
    (sendPacket p k s).still = s.still ∧ (sendPacket p k s).cells = s.cells := by
  simp [sendPacket]

@[simp] theorem respondTo_keeps (k : Packet) (status : Nat) (op : Nat) (len : Nat) (data : List Byte) (s : State) :
    (respondTo k status op len data s).still = s.still ∧ (respondTo k status op len data s).cells = s.cells := by
  unfold respondTo
  constructor <;> (repeat' split) <;> simp

@[simp] theorem nack_keeps (p : Nat) (k : Packet) (status : Nat) (s : State) :
    (nack p k status s).still = s.still ∧ (nack p k status s).cells = s.cells := by
  unfold nack
  constructor <;> (repeat' split) <;> simp

@[simp] theorem dropTag_keeps (tag : Nat) (s : State) :
    (dropTag tag s).still = s.still ∧ (dropTag tag s).cells = s.cells := ⟨rfl, rfl⟩

@[simp] theorem putTag_keeps (p : Nat) (t : Nat) (u : TagUse) (s : State) :
    (putTag p t u s).still = s.still ∧ (putTag p t u s).cells = s.cells := ⟨rfl, rfl⟩

@[simp] theorem Rerouted.lose_keeps (f : TxFlit) (r : Rerouted) :
    (Rerouted.lose f r).st.still = r.st.still ∧ (Rerouted.lose f r).st.cells = r.st.cells := by
  unfold Rerouted.lose
  constructor <;> (dsimp only; (repeat' split)) <;> simp_all

@[simp] theorem Rerouted.move_keeps (r : Rerouted) (f : TxFlit) :
    (Rerouted.move r f).st.still = r.st.still ∧ (Rerouted.move r f).st.cells = r.st.cells := by
  unfold Rerouted.move
  constructor <;> (repeat' split) <;> simp

@[simp] theorem reroute_keeps (s : State) (l : List TxFlit) :
    (reroute s l).st.still = s.still ∧ (reroute s l).st.cells = s.cells := by
  have h : ∀ r : Rerouted, (l.foldl Rerouted.move r).st.still = r.st.still ∧ (l.foldl Rerouted.move r).st.cells = r.st.cells := by
    induction l with
    | nil => exact fun r => ⟨rfl, rfl⟩
    | cons f fs ih => exact fun r => by simp [ih]
  exact h _

@[simp] theorem portDown_keeps (p : Nat) (reason : Nat) (s : State) :
    (portDown p reason s).st.still = s.still ∧ (s.cells.wf = true → (portDown p reason s).st.cells.wf = true) := by
  refine ⟨?_, fun w => ?_⟩ <;> unfold portDown <;> (repeat' split) <;> simp (maxDischargeDepth := 8) [*]

@[simp] theorem reidentify_keeps (p : Nat) (s : State) :
    (reidentify p s).still = s.still ∧ (reidentify p s).cells = s.cells := by
  unfold reidentify
  constructor <;> (dsimp only; (repeat' split)) <;> simp_all

@[simp] theorem joinPort_keeps (p : Nat) (res : PortTrain) (attempts : Nat) (s : State) :
    (joinPort p res attempts s).still = s.still ∧ (joinPort p res attempts s).cells = s.cells := by
  unfold joinPort
  constructor <;> (dsimp only; (repeat' split)) <;> simp_all

@[simp] theorem failPort_keeps (p : Nat) (attempts : Nat) (s : State) :
    (failPort p attempts s).still = s.still ∧ (failPort p attempts s).cells = s.cells := by
  simp [failPort]

@[simp] theorem farChanged_keeps (p : Nat) (res : PortTrain) (s : State) :
    (farChanged p res s).still = s.still ∧ (farChanged p res s).cells = s.cells := by
  simp [farChanged]

@[simp] theorem portAttempt_keeps (p : Nat) (ok : Bool) (res : PortTrain) (s : State) :
    (portAttempt p ok res s).still = s.still ∧ (portAttempt p ok res s).cells = s.cells := by
  unfold portAttempt
  constructor <;> (dsimp only; (repeat' split)) <;> simp_all

@[simp] theorem joinPortAct_keeps (c : Cmd) (s : State) :
    (joinPortAct c s).1.still = s.still ∧ (joinPortAct c s).1.cells = s.cells := by
  unfold joinPortAct
  constructor <;> (dsimp only; (repeat' split)) <;> simp_all

@[simp] theorem beginRetrain_keeps (u : Nat) (s : State) :
    (beginRetrain u s).still = s.still ∧ (beginRetrain u s).cells = s.cells := ⟨rfl, rfl⟩

@[simp] theorem endRetrain_keeps (u : Nat) (ok : Bool) (s : State) :
    (endRetrain u ok s).still = s.still ∧ (endRetrain u ok s).cells = s.cells := by
  simp [endRetrain]

@[simp] theorem setDeviceId_keeps (v : Nat) (s : State) :
    (setDeviceId v s).still = s.still ∧ (setDeviceId v s).cells = s.cells := by
  unfold setDeviceId
  constructor <;> (repeat' split) <;> simp [foldl_still, foldl_cells]

@[simp] theorem setRoutes_keeps (body : Nat) (s : State) :
    (setRoutes body s).still = s.still ∧ (setRoutes body s).cells = s.cells := ⟨rfl, rfl⟩

@[simp] theorem setEntry_keeps (body : Nat) (s : State) (i : Nat) :
    (setEntry body s i).still = s.still ∧ (setEntry body s i).cells = s.cells := by
  unfold setEntry
  constructor <;> (dsimp only; (repeat' split)) <;> simp_all

@[simp] theorem queryLink_keeps (c : Cmd) (s : State) :
    (queryLink c s).1.still = s.still ∧ (queryLink c s).1.cells = s.cells := by
  unfold queryLink
  constructor <;> (dsimp only; (repeat' split)) <;> simp_all

@[simp] theorem endProbe_keeps (m : Nat) (tpath : Nat) (s : State) :
    (endProbe m tpath s).still = s.still ∧ (endProbe m tpath s).cells = s.cells := by
  unfold endProbe
  constructor <;> (repeat' split) <;> simp

/-! Bursts.lean -/

@[simp] theorem updBurst_keeps (id : Nat) (f : Burst → Burst) (s : State) :
    (updBurst id f s).still = s.still ∧ (updBurst id f s).cells = s.cells := ⟨rfl, rfl⟩

@[simp] theorem setExpander_keeps (x : Nat) (f : Expander → Expander) (s : State) :
    (setExpander x f s).still = s.still ∧ (setExpander x f s).cells = s.cells := ⟨rfl, rfl⟩

@[simp] theorem noteFail_keeps (id : Nat) (f : Failure) (s : State) :
    (noteFail id f s).still = s.still ∧ (noteFail id f s).cells = s.cells := by
  unfold noteFail
  constructor <;> (repeat' split) <;> simp

@[simp] theorem endEntry_keeps (n : Nat) (s : State) :
    (endEntry n s).still = s.still ∧ (endEntry n s).cells = s.cells := by
  unfold endEntry
  constructor <;> (repeat' split) <;> simp

@[simp] theorem dropBursts_keeps (n : Nat) (s : State) :
    (dropBursts n s).still = s.still ∧ (dropBursts n s).cells = s.cells := ⟨rfl, rfl⟩

@[simp] theorem finishTile_keeps (n : Nat) (x : Slot) (t : Tile) (s : State) :
    (finishTile n x t s).still = s.still ∧ (finishTile n x t s).cells = s.cells := by
  simp [finishTile]

@[simp] theorem advanceSlot_keeps (n : Nat) (s : State) :
    (advanceSlot n s).still = s.still ∧ (s.cells.wf = true → (advanceSlot n s).cells.wf = true) := by
  refine ⟨?_, fun w => ?_⟩ <;> unfold advanceSlot <;> (repeat' split) <;> simp [*]

@[simp] theorem markLanded_keeps (n : Nat) (s : State) :
    (markLanded n s).still = s.still ∧ (markLanded n s).cells = s.cells := ⟨rfl, rfl⟩

@[simp] theorem addReqs_keeps (l : List MemReq) (s : State) :
    (addReqs l s).still = s.still ∧ (addReqs l s).cells = s.cells := ⟨rfl, rfl⟩

@[simp] theorem sendAll_keeps (addr : Nat) (op : Nat) (job : Nat) (rows : List RowOut) (free : BitVec 512) (x1 :
    List (Nat × Nat × Nat)) (s : State) :
    (sendAll addr op job rows free x1 s).still = s.still ∧ (sendAll addr op job rows free x1 s).cells = s.cells := by
  fun_induction sendAll addr op job rows free x1 s <;> simp_all

@[simp] theorem sendSide_keeps (bid : Nat) (b : Burst) (s : State) :
    (sendSide bid b s).still = s.still ∧ (sendSide bid b s).cells = s.cells := ⟨rfl, rfl⟩

@[simp] theorem sendRow_keeps (bid : Nat) (b : Burst) (d : Desc) (t : Tile) (x1 : List RowOut) (s : State) :
    (sendRow bid b d t x1 s).still = s.still ∧ (sendRow bid b d t x1 s).cells = s.cells := by
  fun_induction sendRow bid b d t x1 s <;> simp_all

@[simp] theorem sendOut_keeps (bid : Nat) (b : Burst) (d : Desc) (t : Tile) (job : Nat) (w : Written) (es : List
    Elem) (s : State) :
    (sendOut bid b d t job w es s).still = s.still ∧ (sendOut bid b d t job w es s).cells = s.cells := by
  unfold sendOut
  constructor <;> (repeat' split) <;> simp

@[simp] theorem askMerges_keeps (bid : Nat) (b : Burst) (d : Desc) (t : Tile) (rows : List Nat) (s : State) :
    (askMerges bid b d t rows s).still = s.still ∧ (askMerges bid b d t rows s).cells = s.cells := ⟨rfl, rfl⟩

@[simp] theorem issueWrites_keeps (bid : Nat) (b : Burst) (x : Slot) (t : Tile) (es : List (Elem × Nat)) (s : State) :
    (issueWrites bid b x t es s).still = s.still ∧ (issueWrites bid b x t es s).cells = s.cells := by
  simp [issueWrites]

@[simp] theorem writeStage_keeps (bid : Nat) (s : State) :
    (writeStage bid s).still = s.still ∧ (s.cells.wf = true → (writeStage bid s).cells.wf = true) := by
  refine ⟨?_, fun w => ?_⟩ <;> unfold writeStage <;> (repeat' split) <;> simp (maxDischargeDepth := 8) [*]

@[simp] theorem writeAll_keeps (n : Nat) (x1 : Nat) (s : State) :
    (writeAll n x1 s).still = s.still ∧ (s.cells.wf = true → (writeAll n x1 s).cells.wf = true) := by
  fun_induction writeAll n x1 s <;> simp_all

@[simp] theorem writeReady_keeps (n : Nat) (s : State) :
    (writeReady n s).still = s.still ∧ (s.cells.wf = true → (writeReady n s).cells.wf = true) := by
  refine ⟨?_, fun w => ?_⟩ <;> unfold writeReady <;> (repeat' split) <;> simp [*]

@[simp] theorem takeData_keeps (bid : Nat) (code : Int → Nat) (s : State) :
    (takeData bid code s).still = s.still ∧ (s.cells.wf = true → (takeData bid code s).cells.wf = true) := by
  refine ⟨?_, fun w => ?_⟩ <;> unfold takeData <;> (repeat' split) <;> simp [*]

@[simp] theorem arrive_keeps (bid : Nat) (s : State) :
    (arrive bid s).still = s.still ∧ (s.cells.wf = true → (arrive bid s).cells.wf = true) := by
  refine ⟨?_, fun w => ?_⟩ <;> unfold arrive <;> (repeat' split) <;> simp (maxDischargeDepth := 8) [*]

@[simp] theorem rowGoes_keeps (bid : Nat) (b : Burst) (sums : List Nat) (s : State) :
    (rowGoes bid b sums s).still = s.still ∧ (rowGoes bid b sums s).cells = s.cells := by
  unfold rowGoes
  constructor <;> (repeat' split) <;> simp

/-! Issue.lean -/

@[simp] theorem takeTags_keeps (p : Nat) (bid : Nat) (dst : Nat) (write : Bool) (x1 : List (Nat × Nat)) (s : State)
    :
    (takeTags p bid dst write x1 s).1.still = s.still ∧ (takeTags p bid dst write x1 s).1.cells = s.cells := by
  fun_induction takeTags p bid dst write x1 s <;> simp_all +zetaDelta

@[simp] theorem goRemote_keeps (bid : Nat) (x : Slot) (t : Tile) (es : List Elem) (job : Nat) (s : State) :
    (goRemote bid x t es job s).still = s.still ∧ (goRemote bid x t es job s).cells = s.cells := by
  unfold goRemote
  constructor <;> (dsimp only; (repeat' split)) <;> simp_all

@[simp] theorem issueBurst_keeps (mv : Nat) (n : Nat) (x : Slot) (t : Tile) (s0 : State) :
    (issueBurst mv n x t s0).still = s0.still ∧ (s0.cells.wf = true → (issueBurst mv n x t s0).cells.wf = true) := by
  refine ⟨?_, fun w => ?_⟩ <;> unfold issueBurst <;> (repeat' split) <;> simp [*]

@[simp] theorem releaseSlots_keeps (mv : Nat) (s : State) :
    (releaseSlots mv s).still = s.still ∧ (releaseSlots mv s).cells = s.cells := ⟨rfl, rfl⟩

@[simp] theorem slotParity_keeps (mv : Nat) (s : State) :
    (slotParity mv s).still = s.still ∧ (s.cells.wf = true → (slotParity mv s).cells.wf = true) := by
  refine ⟨?_, fun w => ?_⟩ <;> unfold slotParity <;> dsimp only <;> (repeat' split) <;>
    simp_all (maxDischargeDepth := 8)

@[simp] theorem boundary_keeps (mv : Nat) (s : State) :
    (boundary mv s).still = s.still ∧ (s.cells.wf = true → (boundary mv s).cells.wf = true) := by
  refine ⟨?_, fun w => ?_⟩ <;> unfold boundary <;> dsimp only <;> (repeat' split) <;>
    simp_all (maxDischargeDepth := 8)

/-! Service.lean -/

@[simp] theorem mirrorRow_keeps (l : RowAt) (mat : BitVec 256 × BitVec 256) (mask : BitVec 512) (s : State) :
    (mirrorRow l mat mask s).still = s.still ∧ (mirrorRow l mat mask s).cells = s.cells := by
  unfold mirrorRow
  constructor <;> (repeat' split) <;> simp [foldl_still, foldl_cells]

@[simp] theorem landRow_keeps (env : Env) (l : RowAt) (data : BitVec 512) (mask : BitVec 512) (s : State) :
    (landRow env l data mask s).st.still = s.still ∧
      (s.cells.wf = true → (landRow env l data mask s).st.cells.wf = true) := by
  refine ⟨?_, fun w => ?_⟩ <;> unfold landRow <;> dsimp only <;> (repeat' split) <;> simp_all (maxDischargeDepth := 8)

@[simp] theorem dropReq_keeps (id : Nat) (s : State) :
    (dropReq id s).still = s.still ∧ (dropReq id s).cells = s.cells := ⟨rfl, rfl⟩

@[simp] theorem updReq_keeps (id : Nat) (f : MemReq → MemReq) (s : State) :
    (updReq id f s).still = s.still ∧ (updReq id f s).cells = s.cells := ⟨rfl, rfl⟩

theorem addedWrite_keeps (q : MemReq) (r : RowRead) (put : BitVec 512 → State → State)
    (h : ∀ row t, (put row t).still = t.still ∧ (t.cells.wf = true → (put row t).cells.wf = true)) :
    (addedWrite q r put).1.st.still = r.st.still ∧ (r.st.cells.wf = true → (addedWrite q r put).1.st.cells.wf = true) := by
  unfold addedWrite
  constructor <;> (dsimp only; split) <;> simp_all

@[simp] theorem stackWrite_keeps (env : Env) (k : Nat) (q : MemReq) (s : State) :
    (stackWrite env k q s).1.st.still = s.still ∧ (s.cells.wf = true → (stackWrite env k q s).1.st.cells.wf = true) := by
  have h := addedWrite_keeps q (readStackRow env k q.addr (reqMaterial s q) 1 (bump 8 k 2 1 s))
    (fun row t => { t with mem := putRowStack (reqMaterial s q) t.mem q.addr row q.mask }) fun row t => ⟨by simp, fun w => by simp [w]⟩
  unfold stackWrite
  refine ⟨?_, fun w => ?_⟩ <;> (dsimp only; (repeat' split)) <;> simp_all

@[simp] theorem mereWrite_keeps (env : Env) (q : MemReq) (s : State) :
    (mereWrite env q s).1.st.still = s.still ∧ (s.cells.wf = true → (mereWrite env q s).1.st.cells.wf = true) := by
  have h := addedWrite_keeps q (readMereRow env q.addr (addReader q) true s)
    (fun row t => { t with mem := putRowMere t.mem q.addr row q.mask }) fun row t => ⟨by simp, fun w => by simp [w]⟩
  unfold mereWrite
  refine ⟨?_, fun w => ?_⟩ <;> split <;> simp_all

@[simp] theorem writeServed_keeps (q : MemReq) (mat : BitVec 256 × BitVec 256) (w : RowWrite × List Nat) :
    (writeServed q mat w).still = w.1.st.still ∧ (w.1.st.cells.wf = true → (writeServed q mat w).cells.wf = true) := by
  unfold writeServed
  refine ⟨?_, fun h => ?_⟩ <;> (dsimp only; split) <;> simp_all

@[simp] theorem serveReq_keeps (env : Env) (q : MemReq) (s : State) :
    (serveReq env q s).still = s.still ∧ (s.cells.wf = true → (serveReq env q s).cells.wf = true) := by
  refine ⟨?_, fun w => ?_⟩ <;> unfold serveReq <;> (dsimp only; (repeat' split)) <;> simp_all (maxDischargeDepth := 8)

@[simp] theorem turnStack_keeps (s : State) (k : Nat) (q : MemReq) :
    (turnStack s k q).still = s.still ∧ (turnStack s k q).cells = s.cells := ⟨rfl, rfl⟩

@[simp] theorem serveStack_keeps (k : Nat) (env : Env) (s : State) :
    (serveStack k env s).still = s.still ∧ (s.cells.wf = true → (serveStack k env s).cells.wf = true) := by
  refine ⟨?_, fun w => ?_⟩ <;> unfold serveStack <;> (repeat' split) <;> simp (maxDischargeDepth := 8) [*]

@[simp] theorem tripStack_keeps (k : Nat) (needs : Option Nat) (s : State) :
    (tripStack k needs s).still = s.still ∧ (tripStack k needs s).cells = s.cells := by
  unfold tripStack
  constructor <;> (repeat' split) <;> simp

@[simp] theorem serveBank_keeps (b : Nat) (env : Env) (s : State) :
    (serveBank b env s).still = s.still ∧ (s.cells.wf = true → (serveBank b env s).cells.wf = true) := by
  refine ⟨?_, fun w => ?_⟩ <;> unfold serveBank <;> (repeat' split) <;> simp (maxDischargeDepth := 8) [*]

@[simp] theorem scrubBank_keeps (b : Nat) (env : Env) (s : State) :
    (scrubBank b env s).still = s.still ∧ (scrubBank b env s).cells = s.cells := by
  unfold scrubBank
  constructor <;> (dsimp only; (repeat' split)) <;> simp_all

@[simp] theorem hostAnswer_keeps (env : Env) (q : MemReq) (s : State) :
    (hostAnswer env q s).1.still = s.still ∧ (s.cells.wf = true → (hostAnswer env q s).1.cells.wf = true) := by
  refine ⟨?_, fun w => ?_⟩ <;> unfold hostAnswer <;> dsimp only <;> (repeat' split) <;>
    simp_all (maxDischargeDepth := 8)

theorem answerOf_keeps (env : Env) (q : MemReq) (s : State) (r : State × Nat × BitVec 512 × Option Nat)
    (h : answerOf env q s = some r) : r.1.still = s.still ∧ (s.cells.wf = true → r.1.cells.wf = true) := by
  unfold answerOf at h
  split at h
  · cases h
    exact hostAnswer_keeps env q s
  · obtain ⟨x, -, rfl⟩ := Option.map_eq_some_iff.1 h
    exact ⟨rfl, id⟩

@[simp] theorem rowArrived_keeps (q : MemReq) (bid : Nat) (status : Nat) (row : BitVec 512) (needs : Option Nat) (s
    : State) :
    (rowArrived q bid status row needs s).still = s.still ∧
      (s.cells.wf = true → (rowArrived q bid status row needs s).cells.wf = true) := by
  refine ⟨?_, fun w => ?_⟩ <;> unfold rowArrived <;> (repeat' split) <;> simp [*]

@[simp] theorem coreRow_keeps (q : MemReq) (p : Nat) (rd : Nat) (status : Nat) (row : BitVec 512) (s : State) :
    (coreRow q p rd status row s).still = s.still ∧ (coreRow q p rd status row s).cells = s.cells :=
  ⟨rfl, rfl⟩

@[simp] theorem updQueue_keeps (n : Nat) (f : Queue → Queue) (s : State) :
    (updQueue n f s).still = s.still ∧ (updQueue n f s).cells = s.cells := ⟨rfl, rfl⟩

@[simp] theorem loseAdd_keeps (n : Nat) (gen : Nat) (status : Nat) (s : State) :
    (loseAdd n gen status s).still = s.still ∧ (loseAdd n gen status s).cells = s.cells := by
  simp [loseAdd]

@[simp] theorem rowAdded_keeps (n : Nat) (gen : Nat) (status : Nat) (s : State) :
    (rowAdded n gen status s).still = s.still ∧ (rowAdded n gen status s).cells = s.cells := by
  simp [rowAdded]

@[simp] theorem takeRead_keeps (env : Env) (q : MemReq) (s : State) :
    (takeRead env q s).still = s.still ∧ (s.cells.wf = true → (takeRead env q s).cells.wf = true) := by
  unfold takeRead
  split
  · exact ⟨rfl, id⟩
  · next h =>
    have k := answerOf_keeps env q s _ h
    refine ⟨?_, fun w => ?_⟩ <;> dsimp only <;> split <;> simp_all (maxDischargeDepth := 8)

@[simp] theorem rowLanded_keeps (q : MemReq) (bid : Nat) (status : Nat) (needs : Option Nat) (s : State) :
    (rowLanded q bid status needs s).still = s.still ∧
      (s.cells.wf = true → (rowLanded q bid status needs s).cells.wf = true) := by
  refine ⟨?_, fun w => ?_⟩ <;> unfold rowLanded <;> (repeat' split) <;> simp [*]

@[simp] theorem takeWrite_keeps (env : Env) (q : MemReq) (s : State) :
    (takeWrite env q s).still = s.still ∧ (s.cells.wf = true → (takeWrite env q s).cells.wf = true) := by
  unfold takeWrite
  split
  · exact ⟨rfl, id⟩
  · next h =>
    have k := answerOf_keeps env q s _ h
    refine ⟨?_, fun w => ?_⟩ <;> dsimp only <;> split <;> simp_all (maxDischargeDepth := 8)

end Sys2Proof.Machine
end

