-- ==== Sys2Proof/Laws/Finish.lean ====
section
/-! SUPPORT. What quantisers, admission, completion, delivery and core requests leave still, and that the byte memories stay in canonical form: one lemma for
each operation, in the order of the files of Machine/. -/

namespace Sys2Proof.Machine

/-! Quant.lean -/

@[simp] theorem bindSource_keeps (c : Cmd) (s : State) :
    (bindSource c s).1.still = s.still ∧ (bindSource c s).1.cells = s.cells := by
  unfold bindSource
  constructor <;> (dsimp only; (repeat' split)) <;> simp_all

@[simp] theorem unbind_keeps (k : Nat) (s : State) :
    (unbind k s).still = s.still ∧ (unbind k s).cells = s.cells := by
  unfold unbind
  constructor <;> (repeat' split) <;> simp

@[simp] theorem readMereSpan_keeps (env : Env) (reader : Nat) (x1 : Nat) (x2 : Nat) (x3 : Nat) (s : State) :
    (readMereSpan env reader x1 x2 x3 s).st.still = s.still ∧
      (readMereSpan env reader x1 x2 x3 s).st.cells = s.cells := by
  fun_induction readMereSpan env reader x1 x2 x3 s <;> simp_all +zetaDelta

@[simp] theorem loadScales_keeps (env : Env) (c : Cmd) (s : State) :
    (loadScales env c s).1.still = s.still ∧ (loadScales env c s).1.cells = s.cells := by
  unfold loadScales
  constructor <;> (dsimp only; (repeat' split)) <;> simp_all

@[simp] theorem releaseScales_keeps (c : Cmd) (s : State) :
    (releaseScales c s).1.still = s.still ∧ (releaseScales c s).1.cells = s.cells := ⟨rfl, rfl⟩

@[simp] theorem putMere_keeps (x1 : Nat) (l : List Byte) (s : State) :
    (putMere x1 l s).still = s.still ∧ (s.cells.wf = true → (putMere x1 l s).cells.wf = true) := by
  refine ⟨?_, fun w => ?_⟩ <;> unfold putMere <;> (try dsimp only) <;> (repeat' split) <;>
    simp (maxDischargeDepth := 8) [*]

@[simp] theorem readStats_keeps (c : Cmd) (s : State) :
    (readStats c s).1.still = s.still ∧ (s.cells.wf = true → (readStats c s).1.cells.wf = true) := by
  have p (a : Nat) (l : List Byte) := putMere_keeps a l s
  have m (i : MirrorItem) (t : State) := mirrorWrite_keeps i t
  unfold readStats
  split
  · exact ⟨rfl, id⟩
  · refine ⟨?_, fun w => ?_⟩ <;> dsimp only <;> (repeat' split)
    · exact (m _ _).1.trans (p _ _).1
    · rfl
    · exact (m _ _).1.trans (p _ _).1
    · rfl
    · exact ((congrArg Cells.wf (m _ _).2).trans ((p _ _).2 w) :)
    · exact w
    · exact ((congrArg Cells.wf (m _ _).2).trans ((p _ _).2 w) :)
    · exact w

@[simp] theorem setThreshold_keeps (c : Cmd) (s : State) :
    (setThreshold c s).still = s.still ∧ (setThreshold c s).cells = s.cells := ⟨rfl, rfl⟩

/-! QuantRows.lean -/

@[simp] theorem beginRow_keeps (env : Env) (k : Nat) (d : Desc) (i : Nat) (r : Run) :
    (beginRow env k d i r).st.still = r.st.still ∧ (beginRow env k d i r).st.cells = r.st.cells := by
  unfold beginRow
  constructor <;> (dsimp only; (repeat' split)) <;> simp_all

@[simp] theorem finishRow_keeps (d : Desc) (i : Nat) (r : Run) :
    (finishRow d i r).st.still = r.st.still ∧ (finishRow d i r).st.cells = r.st.cells := by
  unfold finishRow
  constructor <;> (repeat' split) <;> simp

@[simp] theorem saturateOnce_keeps (k : Nat) (key : Nat) (x1 : RowAcc) (scale : Nat) (x : Nat) (abs : Nat) (needs :
    Option Nat) (r : Run) :
    (saturateOnce k key x1 scale x abs needs r).st.still = r.st.still ∧
      (saturateOnce k key x1 scale x abs needs r).st.cells = r.st.cells := by
  unfold saturateOnce
  constructor <;> (dsimp only; (repeat' split)) <;> simp_all

@[simp] theorem quantElem_keeps (k : Nat) (key : Nat) (d : Desc) (regs : List Nat) (n : Nat) (i : Nat) (c : Nat)
    (outlier : Option Nat) (raw : Nat) (r : Run) :
    (quantElem k key d regs n i c outlier raw r).st.still = r.st.still ∧
      (quantElem k key d regs n i c outlier raw r).st.cells = r.st.cells := by
  unfold quantElem
  constructor <;> (dsimp only; (repeat' split)) <;> simp_all

@[simp] theorem quantElems_keeps (env : Env) (k key : Nat) (d : Desc) (regs : List Nat) (es : List Elem) (r : Run) :
    (quantElems env k key d regs es r).st.still = r.st.still ∧ (quantElems env k key d regs es r).st.cells = r.st.cells := by
  induction es generalizing r with
  | nil => exact ⟨rfl, rfl⟩
  | cons e es ih =>
    unfold quantElems
    dsimp only
    split
    · split
      · exact ⟨rfl, rfl⟩
      · rw [(ih _).1, (ih _).2]
        constructor <;> (repeat' split) <;> simp
    · rw [(ih _).1, (ih _).2]
      exact ⟨rfl, rfl⟩

@[simp] theorem readRegs_keeps (env : Env) (k : Nat) (l : List Nat) (s : State) :
    (readRegs env k l s).st.still = s.still ∧ (readRegs env k l s).st.cells = s.cells := by
  unfold readRegs
  constructor <;> (dsimp only; (repeat' split)) <;> simp_all

@[simp] theorem putReplay_keeps (k : Nat) (p : Replay) (s : State) :
    (putReplay k p s).still = s.still ∧ (putReplay k p s).cells = s.cells := ⟨rfl, rfl⟩

@[simp] theorem fillTile_keeps (env : Env) (k : Nat) (x : Slot) (t : Tile) (b : Binding) (p : Replay) (s : State) :
    (fillTile env k x t b p s).still = s.still ∧ (s.cells.wf = true → (fillTile env k x t b p s).cells.wf = true) := by
  refine ⟨?_, fun w => ?_⟩ <;> unfold fillTile <;> (repeat' split) <;> simp (maxDischargeDepth := 8) [*]

@[simp] theorem startQuant_keeps (env : Env) (k : Nat) (x : Slot) (t : Tile) (b : Binding) (s : State) :
    (startQuant env k x t b s).still = s.still ∧ (s.cells.wf = true → (startQuant env k x t b s).cells.wf = true) := by
  refine ⟨?_, fun w => ?_⟩ <;> unfold startQuant <;> (try dsimp only) <;> (repeat' split) <;>
    simp (maxDischargeDepth := 8) [*]

@[simp] theorem tryQuant_keeps (env : Env) (k : Nat) (x : Slot) (t : Tile) (b : Binding) (s : State) :
    (tryQuant env k x t b s).still = s.still ∧ (s.cells.wf = true → (tryQuant env k x t b s).cells.wf = true) := by
  refine ⟨?_, fun w => ?_⟩ <;> unfold tryQuant <;> (repeat' split) <;> simp [*]

/-! Rings.lean -/

@[simp] theorem createRing_keeps (c : Cmd) (s : State) :
    (createRing c s).1.still = s.still ∧ (createRing c s).1.cells = s.cells := by
  unfold createRing
  constructor <;> (dsimp only; (repeat' split)) <;> simp_all

@[simp] theorem destroyRing_keeps (n : Nat) (s : State) :
    (destroyRing n s).still = s.still ∧ (destroyRing n s).cells = s.cells := by
  simp [destroyRing]

@[simp] theorem fetchRow_keeps (env : Env) (r : Ring) (x1 : Nat) (row : Option (Nat × BitVec 512)) (s : State) :
    (fetchRow env r x1 row s).st.still = s.still ∧ (fetchRow env r x1 row s).st.cells = s.cells := by
  unfold fetchRow
  constructor <;> (repeat' split) <;> simp

@[simp] theorem readGranules_keeps (env : Env) (r : Ring) (e : Nat) (row : Option (Nat × BitVec 512)) (x1 : Nat) (s
    : State) :
    (readGranules env r e row x1 s).st.still = s.still ∧ (readGranules env r e row x1 s).st.cells = s.cells := by
  fun_induction readGranules env r e row x1 s <;> simp_all +zetaDelta

@[simp] theorem ringError_keeps (n : Nat) (x1 : Nat) (s : State) :
    (ringError n x1 s).still = s.still ∧ (ringError n x1 s).cells = s.cells := ⟨rfl, rfl⟩

@[simp] theorem fetchEntry_keeps (n : Nat) (env : Env) (r : Ring) (s : State) :
    (fetchEntry n env r s).still = s.still ∧ (fetchEntry n env r s).cells = s.cells := by
  unfold fetchEntry
  constructor <;> (dsimp only; (repeat' split)) <;> simp_all

/-! Start.lean -/

@[simp] theorem takeRefs_keeps (d : Desc) (s : State) :
    (takeRefs d s).still = s.still ∧ (takeRefs d s).cells = s.cells := by
  unfold takeRefs
  constructor <;> (repeat' split) <;> simp

@[simp] theorem passOn_keeps (r : Nat) (e : RingEntry) (s : State) :
    (passOn r e s).still = s.still ∧ (passOn r e s).cells = s.cells := by
  simp [passOn]

@[simp] theorem startEntry_keeps (r : Nat) (x : Ring) (e : RingEntry) (s : State) :
    (startEntry r x e s).still = s.still ∧ (startEntry r x e s).cells = s.cells := by
  unfold startEntry
  constructor <;> (repeat' split) <;> simp

@[simp] theorem loseStream_keeps (i : Nat) (s : State) :
    (loseStream i s).still = s.still ∧ (s.cells.wf = true → (loseStream i s).cells.wf = true) := by
  refine ⟨?_, fun w => ?_⟩ <;> unfold loseStream <;> (try dsimp only) <;> (repeat' split) <;>
    simp (maxDischargeDepth := 8) [*]

theorem answerHead_keeps (i : Nat) (rest : List (Nat × Nat)) (f : State → State) (s : State)
    (h : ∀ t, (f t).still = t.still ∧ (t.cells.wf = true → (f t).cells.wf = true)) :
    (answerHead i rest f s).still = s.still ∧ (s.cells.wf = true → (answerHead i rest f s).cells.wf = true) := by
  unfold answerHead
  exact ⟨(h _).1.trans (by simp), fun w => (h _).2 (by simpa using w)⟩

@[simp] theorem takeEntry_keeps (i : Nat) (r : Nat) (pos : Nat) (q : Nat) (d : Desc) (rest : List (Nat × Nat)) (s :
    State) :
    (takeEntry i r pos q d rest s).still = s.still ∧ (takeEntry i r pos q d rest s).cells = s.cells :=
  ⟨rfl, rfl⟩

@[simp] theorem admitEntry_keeps (i : Nat) (x : Stream) (r pos : Nat) (rest : List (Nat × Nat)) (s : State) :
    (admitEntry i x r pos rest s).still = s.still ∧ (s.cells.wf = true → (admitEntry i x r pos rest s).cells.wf = true) := by
  unfold admitEntry
  dsimp only
  (repeat' split) <;>
    first
    | exact answerHead_keeps i rest _ s (by simp)
    | exact ⟨by simp, fun w => by simp [w]⟩

@[simp] theorem readContext_keeps (i : Nat) (s : State) :
    (readContext i s).still = s.still ∧ (s.cells.wf = true → (readContext i s).cells.wf = true) := by
  refine ⟨?_, fun w => ?_⟩ <;> unfold readContext <;> dsimp only <;> (repeat' split) <;>
    simp_all (maxDischargeDepth := 8)

@[simp] theorem readStore_keeps (i : Nat) (env : Env) (s : State) :
    (readStore i env s).1.still = s.still ∧ (readStore i env s).1.cells = s.cells := by
  unfold readStore
  constructor <;> (dsimp only; (repeat' split)) <;> simp_all

@[simp] theorem loseQueued_keeps (i : Nat) (x : Stream) (s : State) :
    (loseQueued i x s).still = s.still ∧ (s.cells.wf = true → (loseQueued i x s).cells.wf = true) := by
  refine ⟨?_, fun w => ?_⟩ <;> unfold loseQueued <;> (repeat' split) <;> simp [*]

@[simp] theorem loseCtx_keeps (i : Nat) (s : State) :
    (loseCtx i s).still = s.still ∧ (s.cells.wf = true → (loseCtx i s).cells.wf = true) := by
  refine ⟨?_, fun w => ?_⟩ <;> unfold loseCtx <;> (repeat' split) <;> simp [*]

@[simp] theorem startFeed_keeps (i : Nat) (d : Desc) (s : State) :
    (startFeed i d s).still = s.still ∧ (startFeed i d s).cells = s.cells := by
  unfold startFeed
  constructor <;> (repeat' split) <;> simp

@[simp] theorem loadSlot_keeps (q : Nat) (n : Nat) (i : Nat) (x : Stream) (d : Desc) (s : State) :
    (loadSlot q n i x d s).still = s.still ∧ (s.cells.wf = true → (loadSlot q n i x d s).cells.wf = true) := by
  refine ⟨?_, fun w => ?_⟩ <;> unfold loadSlot <;> (try dsimp only) <;> (repeat' split) <;>
    simp (maxDischargeDepth := 8) [*]

@[simp] theorem grantSlot_keeps (q : Nat) (n : Nat) (i : Nat) (x : Stream) (d : Desc) (s : State) :
    (grantSlot q n i x d s).still = s.still ∧ (s.cells.wf = true → (grantSlot q n i x d s).cells.wf = true) := by
  refine ⟨?_, fun w => ?_⟩ <;> unfold grantSlot <;> (repeat' split) <;> simp [*]

/-! Complete.lean -/

@[simp] theorem shareEntry_keeps (i : Nat) (s : State) :
    (shareEntry i s).still = s.still ∧ (shareEntry i s).cells = s.cells := by
  unfold shareEntry
  constructor <;> (repeat' split) <;> simp [foldl_still, foldl_cells]

@[simp] theorem endStream_keeps (r : Nat) (pos : Nat) (i : Nat) (s : State) :
    (endStream r pos i s).still = s.still ∧ (s.cells.wf = true → (endStream r pos i s).cells.wf = true) := by
  refine ⟨?_, fun w => ?_⟩ <;> unfold endStream <;> (try dsimp only) <;> (repeat' split) <;>
    simp (maxDischargeDepth := 8) [*]

@[simp] theorem dropRefs_keeps (e : RingEntry) (s : State) :
    (dropRefs e s).still = s.still ∧ (dropRefs e s).cells = s.cells := by
  unfold dropRefs
  constructor <;> (repeat' split) <;> simp

@[simp] theorem noteDone_keeps (n : Nat) (e : RingEntry) (c : Completion) (s : State) :
    (noteDone n e c s).still = s.still ∧ (noteDone n e c s).cells = s.cells := by
  unfold noteDone
  constructor <;> (repeat' split) <;> simp [updRing]

@[simp] theorem sendRingStatus_keeps (n : Nat) (s : State) :
    (sendRingStatus n s).still = s.still ∧ (sendRingStatus n s).cells = s.cells := by
  unfold sendRingStatus
  constructor <;> (repeat' split) <;> simp

@[simp] theorem writeHeader_keeps (env : Env) (r : Ring) (e : RingEntry) (c : Completion) (s : State) :
    (writeHeader env r e c s).1.still = s.still ∧ (s.cells.wf = true → (writeHeader env r e c s).1.cells.wf = true) := by
  refine ⟨?_, fun w => ?_⟩ <;> unfold writeHeader <;> (try dsimp only) <;> (repeat' split) <;>
    simp (maxDischargeDepth := 8) [*]

@[simp] theorem writeCompletion_keeps (n : Nat) (env : Env) (r : Ring) (e : RingEntry) (c : Completion) (s : State)
    :
    (writeCompletion n env r e c s).still = s.still ∧
      (s.cells.wf = true → (writeCompletion n env r e c s).cells.wf = true) := by
  refine ⟨?_, fun w => ?_⟩ <;> unfold writeCompletion <;> dsimp only <;> (repeat' split) <;>
    simp_all (maxDischargeDepth := 8)

@[simp] theorem completeEntry_keeps (n : Nat) (env : Env) (r : Ring) (e : RingEntry) (c : Completion) (s : State) :
    (completeEntry n env r e c s).still = s.still ∧
      (s.cells.wf = true → (completeEntry n env r e c s).cells.wf = true) := by
  refine ⟨?_, fun w => ?_⟩ <;> unfold completeEntry <;> dsimp only <;> (repeat' split) <;>
    simp_all (maxDischargeDepth := 8)

/-! Deliver.lean -/

@[simp] theorem askGrant_keeps (n : Nat) (x : Slot) (t : Tile) (s : State) :
    (askGrant n x t s).still = s.still ∧ (askGrant n x t s).cells = s.cells := by
  unfold askGrant
  constructor <;> (repeat' split) <;> simp

@[simp] theorem takeNotice_keeps (mv : Nat) (n : Notice) (s : State) :
    (takeNotice mv n s).still = s.still ∧ (takeNotice mv n s).cells = s.cells := ⟨rfl, rfl⟩

@[simp] theorem answerGrant_keeps (p : Nat) (g : GrantReq) (s : State) :
    (answerGrant p g s).still = s.still ∧ (answerGrant p g s).cells = s.cells := by
  unfold answerGrant
  constructor <;> (repeat' split) <;> simp

@[simp] theorem updDlv_keeps (p : Nat) (id : Nat) (f : Delivery → Delivery) (s : State) :
    (updDlv p id f s).still = s.still ∧ (updDlv p id f s).cells = s.cells := ⟨rfl, rfl⟩

@[simp] theorem noteLate_keeps (p : Nat) (d : Delivery) (tseq : Nat) (s : State) :
    (noteLate p d tseq s).still = s.still ∧ (noteLate p d tseq s).cells = s.cells := by
  unfold noteLate
  constructor <;> (dsimp only; (repeat' split)) <;> simp_all

@[simp] theorem dlvEnded_keeps (p : Nat) (d : Delivery) (s : State) :
    (dlvEnded p d s).still = s.still ∧ (s.cells.wf = true → (dlvEnded p d s).cells.wf = true) := by
  refine ⟨?_, fun w => ?_⟩ <;> unfold dlvEnded <;> (try dsimp only) <;> (repeat' split) <;>
    simp (maxDischargeDepth := 8) [*]

@[simp] theorem presentBeat_keeps (p : Nat) (d : Delivery) (s : State) :
    (presentBeat p d s).still = s.still ∧ (s.cells.wf = true → (presentBeat p d s).cells.wf = true) := by
  refine ⟨?_, fun w => ?_⟩ <;> unfold presentBeat <;> (repeat' split) <;> simp [*]

theorem holdToken_keeps (p : Nat) (d : Delivery) (s t : State) (h : holdToken p d s = some t) :
    t.still = s.still ∧ t.cells = s.cells := by
  unfold holdToken at h
  split at h
  · obtain ⟨a, -, rfl⟩ := Option.map_eq_some_iff.1 h
    simp
  · cases h

@[simp] theorem deliver_keeps (p : Nat) (d : Delivery) (s : State) :
    (deliver p d s).still = s.still ∧ (s.cells.wf = true → (deliver p d s).cells.wf = true) := by
  unfold deliver
  split
  · next h => exact ⟨(holdToken_keeps p d s _ h).1, fun w => by rw [(holdToken_keeps p d s _ h).2]; exact w⟩
  · refine ⟨by simp, fun w => (presentBeat_keeps _ _ _).2 ?_⟩
    split <;> simp [w]

@[simp] theorem returnLines_keeps (p : Nat) (buf : Nat) (n : Nat) (s : State) :
    (returnLines p buf n s).still = s.still ∧ (returnLines p buf n s).cells = s.cells := by
  unfold returnLines
  constructor <;> (dsimp only; (repeat' split)) <;> simp_all

@[simp] theorem returnInbox_keeps (p : Nat) (slot : Nat) (n : Nat) (s : State) :
    (returnInbox p slot n s).still = s.still ∧ (returnInbox p slot n s).cells = s.cells := by
  unfold returnInbox
  constructor <;> (dsimp only; (repeat' split)) <;> simp_all

@[simp] theorem takeBeat_keeps (p : Nat) (lane : Nat) (s : State) :
    (takeBeat p lane s).still = s.still ∧ (takeBeat p lane s).cells = s.cells := ⟨rfl, rfl⟩

@[simp] theorem takeActivation_keeps (p : Nat) (lane : Nat) (k : Nat) (b : Binding) (x : RtnBeat) (s : State) :
    (takeActivation p lane k b x s).still = s.still ∧ (takeActivation p lane k b x s).cells = s.cells := by
  unfold takeActivation
  constructor <;> (dsimp only; (repeat' split)) <;> simp_all

/-! Expand.lean -/

@[simp] theorem missBase_keeps (k : Nat) (base : Nat) (block : Nat) (s : State) :
    (missBase k base block s).still = s.still ∧ (missBase k base block s).cells = s.cells := ⟨rfl, rfl⟩

@[simp] theorem answerBase_keeps (k : Nat) (base : Nat) (block : Nat) (s : State) :
    (answerBase k base block s).still = s.still ∧ (answerBase k base block s).cells = s.cells := by
  unfold answerBase
  constructor <;> (dsimp only; (repeat' split)) <;> simp_all

@[simp] theorem giveCredit_keeps (k : Nat) (n : Nat) (pin : Option (Nat × Nat)) (s : State) :
    (giveCredit k n pin s).still = s.still ∧ (giveCredit k n pin s).cells = s.cells := by
  unfold giveCredit
  constructor <;> (repeat' split) <;> simp

@[simp] theorem waitCredit_keeps (k : Nat) (n : Nat) (s : State) :
    (waitCredit k n s).still = s.still ∧ (waitCredit k n s).cells = s.cells := ⟨rfl, rfl⟩

@[simp] theorem askCredit_keeps (n : Nat) (x : Slot) (t : Tile) (va : Nat) (s : State) :
    (askCredit n x t va s).still = s.still ∧ (s.cells.wf = true → (askCredit n x t va s).cells.wf = true) := by
  refine ⟨?_, fun w => ?_⟩ <;> unfold askCredit <;> (try dsimp only) <;> (repeat' split) <;>
    simp (maxDischargeDepth := 8) [*]

@[simp] theorem closeWindow_keeps (k : Nat) (needs : Option Nat) (s : State) :
    (closeWindow k needs s).still = s.still ∧ (closeWindow k needs s).cells = s.cells := by
  unfold closeWindow
  constructor <;> (dsimp only; (repeat' split)) <;> simp_all

@[simp] theorem chargeEvent_keeps (bid : Nat) (n : Nat) (bit : Nat) (s : State) :
    (chargeEvent bid n bit s).still = s.still ∧ (chargeEvent bid n bit s).cells = s.cells := by
  unfold chargeEvent
  constructor <;> (repeat' split) <;> simp

@[simp] theorem leaveBlock_keeps (bid : Nat) (b : Burst) (e : Nat) (p : Nat) (s : State) :
    (leaveBlock bid b e p s).still = s.still ∧ (leaveBlock bid b e p s).cells = s.cells := ⟨rfl, rfl⟩

@[simp] theorem keepBase_keeps (d : Desc) (b : Burst) (va : Nat) (s : State) :
    (keepBase d b va s).still = s.still ∧ (keepBase d b va s).cells = s.cells := ⟨rfl, rfl⟩

@[simp] theorem passEscape_keeps (bid : Nat) (k : Nat) (d : Desc) (b : Burst) (va : Nat) (s : State) :
    (passEscape bid k d b va s).still = s.still ∧ (s.cells.wf = true → (passEscape bid k d b va s).cells.wf = true) := by
  refine ⟨?_, fun w => ?_⟩ <;> unfold passEscape <;> (try dsimp only) <;> (repeat' split) <;>
    simp (maxDischargeDepth := 8) [*]

@[simp] theorem failBlock_keeps (bid : Nat) (k : Nat) (b : Burst) (va : Nat) (h : Header) (f : BlockFault) (needs :
    Option Nat) (s : State) :
    (failBlock bid k b va h f needs s).still = s.still ∧
      (s.cells.wf = true → (failBlock bid k b va h f needs s).cells.wf = true) := by
  refine ⟨?_, fun w => ?_⟩ <;> unfold failBlock <;> (try dsimp only) <;> (repeat' split) <;>
    simp (maxDischargeDepth := 8) [*]

@[simp] theorem decodeBlock_keeps (env : Env) (bid : Nat) (k : Nat) (d : Desc) (b : Burst) (va : Nat) (s : State) :
    (decodeBlock env bid k d b va s).still = s.still ∧
      (s.cells.wf = true → (decodeBlock env bid k d b va s).cells.wf = true) := by
  refine ⟨?_, fun w => ?_⟩ <;> unfold decodeBlock <;> (try dsimp only) <;> (repeat' split) <;>
    simp (maxDischargeDepth := 8) [*]

@[simp] theorem enterBlock_keeps (bid : Nat) (k : Nat) (s : State) :
    (enterBlock bid k s).still = s.still ∧ (enterBlock bid k s).cells = s.cells := by
  unfold enterBlock
  constructor <;> (dsimp only; (repeat' split)) <;> simp_all

@[simp] theorem runBlock_keeps (env : Env) (bid : Nat) (k : Nat) (s : State) :
    (runBlock env bid k s).still = s.still ∧ (s.cells.wf = true → (runBlock env bid k s).cells.wf = true) := by
  refine ⟨?_, fun w => ?_⟩ <;> unfold runBlock <;> dsimp only <;> (repeat' split) <;>
    simp_all (maxDischargeDepth := 8)

/-! Mere.lean -/

@[simp] theorem presentAll_keeps (l : List (Nat × DlvBeat)) (s : State) :
    (presentAll l s).still = s.still ∧ (presentAll l s).cells = s.cells := by
  unfold presentAll
  constructor <;> (first | (apply foldl_still; intro t x) | (apply foldl_cells; intro t x)) <;> (repeat' split) <;>
    simp

@[simp] theorem countMereNack_keeps (p : Nat) (s : State) :
    (countMereNack p s).still = s.still ∧ (countMereNack p s).cells = s.cells := ⟨rfl, rfl⟩

@[simp] theorem mereNack_keeps (p : Nat) (slot : Nat) (status : Nat) (tag : Nat) (len : Nat) (addr : Nat) (write :
    Bool) (s : State) :
    (mereNack p slot status tag len addr write s).still = s.still ∧
      (mereNack p slot status tag len addr write s).cells = s.cells := ⟨rfl, rfl⟩

@[simp] theorem enterCrossbar_keeps (p : Nat) (b : RtnBeat) (s : State) :
    (enterCrossbar p b s).still = s.still ∧ (enterCrossbar p b s).cells = s.cells := ⟨rfl, rfl⟩

@[simp] theorem takeMereBeat_keeps (p : Nat) (lane : Nat) (b : RtnBeat) (s : State) :
    (takeMereBeat p lane b s).still = s.still ∧ (takeMereBeat p lane b s).cells = s.cells := by
  unfold takeMereBeat
  constructor <;> (dsimp only; (repeat' split)) <;> simp_all

@[simp] theorem endCoreReq_keeps (p : Nat) (id : Nat) (s : State) :
    (endCoreReq p id s).still = s.still ∧ (endCoreReq p id s).cells = s.cells := ⟨rfl, rfl⟩

@[simp] theorem answerCore_keeps (p : Nat) (c : CoreReq) (s : State) :
    (answerCore p c s).still = s.still ∧ (answerCore p c s).cells = s.cells := by
  unfold answerCore
  constructor <;> (repeat' split) <;> simp

@[simp] theorem putAlloc_keeps (p : Nat) (x1 : MereAlloc) (s : State) :
    (putAlloc p x1 s).still = s.still ∧ (s.cells.wf = true → (putAlloc p x1 s).cells.wf = true) := by
  refine ⟨?_, fun w => ?_⟩ <;> unfold putAlloc <;> (try dsimp only) <;> (repeat' split) <;>
    simp (maxDischargeDepth := 8) [*]

@[simp] theorem allocMere_keeps (c : Cmd) (s : State) :
    (allocMere c s).1.still = s.still ∧ (s.cells.wf = true → (allocMere c s).1.cells.wf = true) := by
  refine ⟨?_, fun w => ?_⟩ <;> unfold allocMere <;> dsimp only <;> (repeat' split) <;>
    simp_all (maxDischargeDepth := 8)

@[simp] theorem freeMere_keeps (c : Cmd) (s : State) :
    (freeMere c s).1.still = s.still ∧ (s.cells.wf = true → (freeMere c s).1.cells.wf = true) := by
  refine ⟨?_, fun w => ?_⟩ <;> unfold freeMere <;> (try dsimp only) <;> (repeat' split) <;>
    simp (maxDischargeDepth := 8) [*]

end Sys2Proof.Machine
end

