-- ==== Sys2Proof/Laws/Far.lean ====
section
/-! SUPPORT. What queues, flits, remote access, release and mirroring leave still, and that the byte memories stay in canonical form: one lemma for
each operation, in the order of the files of Machine/. -/

namespace Sys2Proof.Machine

/-! Queues.lean -/

@[simp] theorem nextGen_keeps (n : Nat) (s : State) :
    (nextGen n s).still = s.still ∧ (nextGen n s).cells = s.cells := ⟨rfl, rfl⟩

@[simp] theorem bumpQ_keeps (n : Nat) (idx : Nat) (k : Nat) (s : State) :
    (bumpQ n idx k s).still = s.still ∧ (bumpQ n idx k s).cells = s.cells := ⟨rfl, rfl⟩

@[simp] theorem sliceBump_keeps (q : Nat) (idx : Nat) (n : Nat) (s : State) :
    (sliceBump q idx n s).still = s.still ∧ (sliceBump q idx n s).cells = s.cells := ⟨rfl, rfl⟩

@[simp] theorem freeQueue_keeps (n : Nat) (s : State) :
    (freeQueue n s).still = s.still ∧ (freeQueue n s).cells = s.cells := ⟨rfl, rfl⟩

@[simp] theorem afterFall_keeps (n : Nat) (s : State) :
    (afterFall n s).still = s.still ∧ (afterFall n s).cells = s.cells := by
  unfold afterFall
  constructor <;> (repeat' split) <;> simp

@[simp] theorem discardHeld_keeps (n : Nat) (idx : Nat) (s : State) :
    (discardHeld n idx s).still = s.still ∧ (discardHeld n idx s).cells = s.cells := by
  unfold discardHeld
  constructor <;> (dsimp only; (repeat' split)) <;> simp_all

@[simp] theorem resetQueue_keeps (n : Nat) (idx : Nat) (s : State) :
    (resetQueue n idx s).still = s.still ∧ (resetQueue n idx s).cells = s.cells := by
  unfold resetQueue
  constructor <;> (dsimp only; (repeat' split)) <;> simp_all

@[simp] theorem writeSlot_keeps (n : Nat) (q : Queue) (m : Msg) (s : State) :
    (writeSlot n q m s).still = s.still ∧ (s.cells.wf = true → (writeSlot n q m s).cells.wf = true) := by
  refine ⟨?_, fun w => ?_⟩ <;> unfold writeSlot <;> (repeat' split) <;> simp [*]

@[simp] theorem readRows_keeps (env : Env) (reader : Nat) (x1 : List Nat) (s : State) :
    (readRows env reader x1 s).1.still = s.still ∧ (readRows env reader x1 s).1.cells = s.cells := by
  fun_induction readRows env reader x1 s <;> simp_all +zetaDelta

@[simp] theorem readSlot_keeps (env : Env) (g : Nat) (a : Nat) (s : State) :
    (readSlot env g a s).1.still = s.still ∧ (readSlot env g a s).1.cells = s.cells := by
  unfold readSlot
  constructor <;> (dsimp only; (repeat' split)) <;> simp_all

@[simp] theorem zeroArea_keeps (x1 : Nat) (n : Nat) (s : State) :
    (zeroArea x1 n s).still = s.still ∧ (s.cells.wf = true → (zeroArea x1 n s).cells.wf = true) := by
  refine ⟨?_, fun w => ?_⟩ <;> unfold zeroArea <;> (try dsimp only) <;> (repeat' split) <;>
    simp (maxDischargeDepth := 8) [*]

@[simp] theorem addAll_keeps (n : Nat) (q : Queue) (m : Msg) (s : State) :
    (addAll n q m s).still = s.still ∧ (addAll n q m s).cells = s.cells := ⟨rfl, rfl⟩

@[simp] theorem notYet_keeps (s : State) :
    (notYet s).st.still = s.still ∧ (notYet s).st.cells = s.cells := ⟨rfl, rfl⟩

@[simp] theorem answerMsg_keeps (o : Origin) (m : Msg) (status : Nat) (s : State) :
    (answerMsg o m status s).st.still = s.still ∧ (answerMsg o m status s).st.cells = s.cells := by
  unfold answerMsg
  constructor <;> (repeat' split) <;> simp

@[simp] theorem acceptMsg_keeps (o : Origin) (m : Msg) (s : State) :
    (acceptMsg o m s).st.still = s.still ∧ (acceptMsg o m s).st.cells = s.cells := by
  unfold acceptMsg
  constructor <;> (repeat' split) <;> simp

@[simp] theorem countNack_keeps (n : Nat) (m : Msg) (status : Nat) (s : State) :
    (countNack n m status s).still = s.still ∧ (countNack n m status s).cells = s.cells := by
  unfold countNack
  constructor <;> (dsimp only; (repeat' split)) <;> simp_all

@[simp] theorem spendInbox_keeps (n : Nat) (q : Queue) (s : State) :
    (spendInbox n q s).still = s.still ∧ (spendInbox n q s).cells = s.cells := ⟨rfl, rfl⟩

@[simp] theorem accepted_keeps (n : Nat) (s : State) :
    (accepted n s).still = s.still ∧ (accepted n s).cells = s.cells := ⟨rfl, rfl⟩

@[simp] theorem takePlain_keeps (n : Nat) (q : Queue) (o : Origin) (m : Msg) (s : State) :
    (takePlain n q o m s).st.still = s.still ∧ (s.cells.wf = true → (takePlain n q o m s).st.cells.wf = true) := by
  refine ⟨?_, fun w => ?_⟩ <;> unfold takePlain <;> (repeat' split) <;> simp (maxDischargeDepth := 8) [*]

@[simp] theorem takeContribution_keeps (n : Nat) (q : Queue) (o : Origin) (m : Msg) (s : State) :
    (takeContribution n q o m s).st.still = s.still ∧ (s.cells.wf = true → (takeContribution n q o m s).st.cells.wf = true) := by
  refine ⟨?_, fun w => ?_⟩ <;> unfold takeContribution <;> (repeat' split) <;> simp (maxDischargeDepth := 8) [*]

@[simp] theorem takeRearm_keeps (n : Nat) (q : Queue) (o : Origin) (m : Msg) (s : State) :
    (takeRearm n q o m s).st.still = s.still ∧ (s.cells.wf = true → (takeRearm n q o m s).st.cells.wf = true) := by
  refine ⟨?_, fun w => ?_⟩ <;> unfold takeRearm <;> (repeat' split) <;> simp [*]

@[simp] theorem takeMsg_keeps (n : Nat) (q : Queue) (o : Origin) (m : Msg) (s : State) :
    (takeMsg n q o m s).st.still = s.still ∧ (s.cells.wf = true → (takeMsg n q o m s).st.cells.wf = true) := by
  refine ⟨?_, fun w => ?_⟩ <;> unfold takeMsg <;> (repeat' split) <;> simp (maxDischargeDepth := 8) [*]

@[simp] theorem stormPoint_keeps (n : Nat) (q : Queue) (o : Origin) (m : Msg) (s : State) :
    (stormPoint n q o m s).st.still = s.still ∧ (s.cells.wf = true → (stormPoint n q o m s).st.cells.wf = true) := by
  refine ⟨?_, fun w => ?_⟩ <;> unfold stormPoint <;> dsimp only <;> (repeat' split) <;>
    simp_all (maxDischargeDepth := 8)

@[simp] theorem decideQueue_keeps (n : Nat) (q : Queue) (o : Origin) (m : Msg) (s : State) :
    (decideQueue n q o m s).st.still = s.still ∧ (s.cells.wf = true → (decideQueue n q o m s).st.cells.wf = true) := by
  refine ⟨?_, fun w => ?_⟩ <;> unfold decideQueue <;> (try dsimp only) <;> (repeat' split) <;>
    simp (maxDischargeDepth := 8) [*]

@[simp] theorem holdContribution_keeps (n : Nat) (o : Origin) (m : Msg) (s : State) :
    (holdContribution n o m s).st.still = s.still ∧ (holdContribution n o m s).st.cells = s.cells :=
  ⟨rfl, rfl⟩

@[simp] theorem readDescriptor_keeps (env : Env) (n : Nat) (s : State) :
    (readDescriptor env n s).still = s.still ∧ (readDescriptor env n s).cells = s.cells := by
  unfold readDescriptor
  constructor <;> (repeat' split) <;> simp

theorem keeps_notYet (s : State) : (notYet s).st.still = s.still ∧ (s.cells.wf = true → (notYet s).st.cells.wf = true) :=
  ⟨rfl, id⟩

@[simp] theorem decideHere_keeps (env : Env) (o : Origin) (m : Msg) (s : State) :
    (decideHere env o m s).st.still = s.still ∧ (s.cells.wf = true → (decideHere env o m s).st.cells.wf = true) := by
  unfold decideHere
  dsimp only
  split
  · exact ⟨by simp, fun w => by simp [w]⟩
  · split
    · exact keeps_notYet s
    · split
      · exact ⟨by simp, fun w => by simp [w]⟩
      · split
        · exact keeps_notYet s
        · split
          · exact ⟨by simp, fun w => by simp [w]⟩
          · exact ⟨by simp, fun w => by simp [w]⟩

@[simp] theorem forwardMsg_keeps (o : Origin) (m : Msg) (s : State) :
    (forwardMsg o m s).st.still = s.still ∧ (forwardMsg o m s).st.cells = s.cells := by
  unfold forwardMsg
  constructor <;> (dsimp only; (repeat' split)) <;> simp_all

@[simp] theorem decideMsg_keeps (env : Env) (o : Origin) (m : Msg) (n : Nat) (s : State) :
    (decideMsg env o m n s).st.still = s.still ∧ (s.cells.wf = true → (decideMsg env o m n s).st.cells.wf = true) := by
  refine ⟨?_, fun w => ?_⟩ <;> unfold decideMsg <;> (try dsimp only) <;> (repeat' split) <;>
    simp (maxDischargeDepth := 8) [*]

@[simp] theorem takeMessage_keeps (p : Nat) (lane : Nat) (env : Env) (kinds : Nat → Bool) (s : State) :
    (takeMessage p lane env kinds s).still = s.still ∧
      (s.cells.wf = true → (takeMessage p lane env kinds s).cells.wf = true) := by
  refine ⟨?_, fun w => ?_⟩ <;> unfold takeMessage <;> (try dsimp only) <;> (repeat' split) <;>
    simp (maxDischargeDepth := 8) [*]

@[simp] theorem dropPacket_keeps (p : Nat) (s : State) :
    (dropPacket p s).still = s.still ∧ (dropPacket p s).cells = s.cells := ⟨rfl, rfl⟩

@[simp] theorem clearWaiting_keeps (n : Nat) (s : State) :
    (clearWaiting n s).still = s.still ∧ (clearWaiting n s).cells = s.cells := ⟨rfl, rfl⟩

theorem foldl_pair {α β : Type} (f : State × β → α → State × β) (s : State)
    (h : ∀ r x, (f r x).1.still = r.1.still ∧ (r.1.cells.wf = true → (f r x).1.cells.wf = true)) (l : List α)
    (r : State × β) (hr : r.1.still = s.still ∧ (s.cells.wf = true → r.1.cells.wf = true)) :
    (l.foldl f r).1.still = s.still ∧ (s.cells.wf = true → (l.foldl f r).1.cells.wf = true) := by
  induction l generalizing r with
  | nil => exact hr
  | cons x xs ih => exact ih _ ⟨(h r x).1.trans hr.1, fun w => (h r x).2 (hr.2 w)⟩

@[simp] theorem flushAfter_keeps (env : Env) (n : Nat) (l : List (Nat × DlvBeat)) (s : State) :
    (flushAfter env n l s).still = s.still ∧ (s.cells.wf = true → (flushAfter env n l s).cells.wf = true) := by
  have h := foldl_pair (fun (r : State × List (Nat × DlvBeat)) (e : Nat × Msg × Origin) =>
    let d := decideHere env e.2.2 e.2.1 r.1
    if d.taken then (d.st, r.2 ++ d.beats) else ((holdContribution n e.2.2 e.2.1 r.1).st, r.2)) s
    (fun r e => by dsimp only; split <;> exact ⟨by simp, fun w => by simp [w]⟩) (waitingFor s n) (clearWaiting n s, l) (by simp)
  unfold flushAfter
  exact ⟨(presentAll_keeps _ _).1.trans h.1, fun w => by rw [(presentAll_keeps _ _).2]; exact h.2 w⟩

@[simp] theorem flushWaiting_keeps (env : Env) (n : Nat) (s : State) :
    (flushWaiting env n s).still = s.still ∧ (s.cells.wf = true → (flushWaiting env n s).cells.wf = true) := flushAfter_keeps env n [] s

@[simp] theorem endZeroing_keeps (n : Nat) (s : State) :
    (endZeroing n s).still = s.still ∧ (s.cells.wf = true → (endZeroing n s).cells.wf = true) := by
  refine ⟨?_, fun w => ?_⟩ <;> unfold endZeroing <;> (repeat' split) <;> simp [*]

@[simp] theorem completeRound_keeps (n : Nat) (q : Queue) (s : State) :
    (completeRound n q s).still = s.still ∧ (s.cells.wf = true → (completeRound n q s).cells.wf = true) := by
  refine ⟨?_, fun w => ?_⟩ <;> unfold completeRound <;> dsimp only <;> split <;> simp [*]

@[simp] theorem takeOldest_keeps (env : Env) (n : Nat) (x1 : Nat) (s : State) :
    (takeOldest env n x1 s).1.still = s.still ∧ (takeOldest env n x1 s).1.cells = s.cells := by
  fun_induction takeOldest env n x1 s <;> simp_all +zetaDelta

@[simp] theorem deliverHeld_keeps (env : Env) (n : Nat) (q : Queue) (s : State) :
    (deliverHeld env n q s).still = s.still ∧ (deliverHeld env n q s).cells = s.cells := by
  unfold deliverHeld
  constructor <;> (dsimp only; (repeat' split)) <;> simp_all

@[simp] theorem serveReader_keeps (core : Nat) (env : Env) (k : Nat) (s : State) :
    (serveReader core env k s).still = s.still ∧ (serveReader core env k s).cells = s.cells := by
  unfold serveReader
  constructor <;> (dsimp only; (repeat' split)) <;> simp_all

@[simp] theorem putQueue_keeps (n : Nat) (q : Queue) (s : State) :
    (putQueue n q s).still = s.still ∧ (putQueue n q s).cells = s.cells := ⟨rfl, rfl⟩

@[simp] theorem createQueue_keeps (c : Cmd) (q : Queue) (s : State) :
    (createQueue c q s).1.still = s.still ∧ (s.cells.wf = true → (createQueue c q s).1.cells.wf = true) := by
  refine ⟨?_, fun w => ?_⟩ <;> unfold createQueue <;> (repeat' split) <;> simp [*]

@[simp] theorem closeQueue_keeps (n : Nat) (discard : Bool) (free : Bool) (s : State) :
    (closeQueue n discard free s).still = s.still ∧ (closeQueue n discard free s).cells = s.cells := by
  unfold closeQueue
  constructor <;> (dsimp only; (repeat' split)) <;> simp_all

@[simp] theorem closeAct_keeps (c : Cmd) (s : State) :
    (closeAct c s).1.still = s.still ∧ (s.cells.wf = true → (closeAct c s).1.cells.wf = true) := by
  refine ⟨?_, fun w => ?_⟩ <;> unfold closeAct <;> (repeat' split) <;> simp [*]

@[simp] theorem resetAct_keeps (c : Cmd) (s : State) :
    (resetAct c s).1.still = s.still ∧ (s.cells.wf = true → (resetAct c s).1.cells.wf = true) := by
  refine ⟨?_, fun w => ?_⟩ <;> unfold resetAct <;> (repeat' split) <;> simp [*]

/-! Flits.lean -/

@[simp] theorem packetOver_keeps (bid : Nat) (tag : Nat) (s : State) :
    (packetOver bid tag s).still = s.still ∧ (packetOver bid tag s).cells = s.cells := ⟨rfl, rfl⟩

@[simp] theorem packetFailed_keeps (bid : Nat) (tag : Nat) (status : Nat) (u : TagUse) (s : State) :
    (packetFailed bid tag status u s).still = s.still ∧
      (s.cells.wf = true → (packetFailed bid tag status u s).cells.wf = true) := by
  refine ⟨?_, fun w => ?_⟩ <;> unfold packetFailed <;> (try dsimp only) <;> (repeat' split) <;>
    simp (maxDischargeDepth := 8) [*]

@[simp] theorem failTag_keeps (tag : Nat) (status : Nat) (s : State) :
    (failTag tag status s).st.still = s.still ∧ (s.cells.wf = true → (failTag tag status s).st.cells.wf = true) := by
  refine ⟨?_, fun w => ?_⟩ <;> unfold failTag <;> (repeat' split) <;> simp [*]

@[simp] theorem failTags_keeps (l : List Nat) (status : Nat) (s : State) :
    (failTags l status s).still = s.still ∧ (s.cells.wf = true → (failTags l status s).cells.wf = true) := by
  have h : ∀ r : Told, r.st.still = s.still ∧ (s.cells.wf = true → r.st.cells.wf = true) →
      (l.foldl (fun (r : Told) t => { st := (failTag t status r.st).st, beats := r.beats ++ (failTag t status r.st).beats })
        r).st.still = s.still ∧
      (s.cells.wf = true → (l.foldl (fun (r : Told) t =>
        { st := (failTag t status r.st).st, beats := r.beats ++ (failTag t status r.st).beats }) r).st.cells.wf = true) := by
    induction l with
    | nil => exact fun r h => h
    | cons t ts ih =>
      intro r hr
      exact ih _ ⟨by simpa using hr.1, fun w => (failTag_keeps _ _ _).2 (hr.2 w)⟩
  unfold failTags
  simpa using h _ ⟨rfl, id⟩

@[simp] theorem pumpAll_keeps (s : State) :
    (pumpAll s).still = s.still ∧ (pumpAll s).cells = s.cells := by
  unfold pumpAll
  constructor <;> (first | (apply foldl_still; intro t x) | (apply foldl_cells; intro t x)) <;> (repeat' split) <;>
    simp

@[simp] theorem loseLink_keeps (p : Nat) (reason : Nat) (s : State) :
    (loseLink p reason s).still = s.still ∧ (s.cells.wf = true → (loseLink p reason s).cells.wf = true) := by
  have h := portDown_keeps p reason s
  have h1 : ∀ (l : List Packet) (t : State), _ := fun l t => foldl_still t (fun t k => nack p k stUnreachable t) (by simp) l
  have h2 : ∀ (l : List Packet) (t : State), _ := fun l t => foldl_cells t (fun t k => nack p k stUnreachable t) (by simp) l
  unfold loseLink
  refine ⟨?_, fun w => ?_⟩ <;> simp [h1, h2, h.1, h.2, *]

@[simp] theorem stopTraining_keeps (p : Nat) (s : State) :
    (stopTraining p s).still = s.still ∧ (stopTraining p s).cells = s.cells := by
  unfold stopTraining
  constructor <;> (repeat' split) <;> simp

@[simp] theorem chargeReplay_keeps (p : Nat) (s : State) :
    (chargeReplay p s).still = s.still ∧ (chargeReplay p s).cells = s.cells := ⟨rfl, rfl⟩

@[simp] theorem resendFrom_keeps (p : Nat) (seq : Nat) (s : State) :
    (resendFrom p seq s).still = s.still ∧ (resendFrom p seq s).cells = s.cells := by
  unfold resendFrom
  constructor <;> (dsimp only; (repeat' split)) <;> simp_all

@[simp] theorem askRetry_keeps (p : Nat) (s : State) :
    (askRetry p s).still = s.still ∧ (askRetry p s).cells = s.cells := by
  simp [askRetry]

@[simp] theorem emitControl_keeps (p : Nat) (kind : Nat) (arg : Nat) (src : Nat) (dst : Nat) (hops : Nat) (s :
    State) :
    (emitControl p kind arg src dst hops s).still = s.still ∧
      (emitControl p kind arg src dst hops s).cells = s.cells := ⟨rfl, rfl⟩

@[simp] theorem passProbe_keeps (f : BitVec 2048) (s : State) :
    (passProbe f s).still = s.still ∧ (passProbe f s).cells = s.cells := by
  unfold passProbe
  constructor <;> (dsimp only; (repeat' split)) <;> simp_all

@[simp] theorem answerControl_keeps (p : Nat) (f : BitVec 2048) (s : State) :
    (answerControl p f s).still = s.still ∧ (answerControl p f s).cells = s.cells := by
  simp [answerControl]

@[simp] theorem goodControl_keeps (p : Nat) (f : BitVec 2048) (s : State) :
    (goodControl p f s).still = s.still ∧ (goodControl p f s).cells = s.cells := by
  unfold goodControl
  constructor <;> (repeat' split) <;> simp

@[simp] theorem controlArrives_keeps (p : Nat) (f : BitVec 2048) (bad : Bool) (s : State) :
    (controlArrives p f bad s).still = s.still ∧ (controlArrives p f bad s).cells = s.cells := by
  unfold controlArrives
  constructor <;> (repeat' split) <;> simp

@[simp] theorem fecStep_keeps (p : Nat) (bad : Bool) (s : State) :
    (fecStep p bad s).1.still = s.still ∧ (fecStep p bad s).1.cells = s.cells := by
  unfold fecStep
  constructor <;> (dsimp only; (repeat' split)) <;> simp_all

@[simp] theorem bufferStep_keeps (p : Nat) (s : State) :
    (bufferStep p s).1.still = s.still ∧ (bufferStep p s).1.cells = s.cells := by
  unfold bufferStep
  constructor <;> (repeat' split) <;> simp

@[simp] theorem discardFlit_keeps (p : Nat) (s : State) :
    (discardFlit p s).still = s.still ∧ (discardFlit p s).cells = s.cells := by
  unfold discardFlit
  constructor <;> (repeat' split) <;> simp

@[simp] theorem failAuth_keeps (p : Nat) (s : State) :
    (failAuth p s).still = s.still ∧ (s.cells.wf = true → (failAuth p s).cells.wf = true) := by
  refine ⟨?_, fun w => ?_⟩ <;> unfold failAuth <;> dsimp only <;> (repeat' split) <;>
    simp_all (maxDischargeDepth := 8)

@[simp] theorem consumeFlit_keeps (p : Nat) (f : BitVec 2048) (s : State) :
    (consumeFlit p f s).still = s.still ∧ (consumeFlit p f s).cells = s.cells := by
  unfold consumeFlit
  constructor <;> (dsimp only; (repeat' split)) <;> simp_all

@[simp] theorem takeFlit_keeps (p : Nat) (f : BitVec 2048) (s : State) :
    (takeFlit p f s).still = s.still ∧ (takeFlit p f s).cells = s.cells := by
  unfold takeFlit
  constructor <;> (repeat' split) <;> simp

@[simp] theorem dataArrives_keeps (p : Nat) (f : BitVec 2048) (lost : Bool) (s : State) :
    (dataArrives p f lost s).still = s.still ∧ (s.cells.wf = true → (dataArrives p f lost s).cells.wf = true) := by
  refine ⟨?_, fun w => ?_⟩ <;> unfold dataArrives <;> dsimp only <;> (repeat' split) <;>
    simp_all (maxDischargeDepth := 8)

@[simp] theorem flitArrives_keeps (p : Nat) (f : BitVec 2048) (bad : Bool) (s : State) :
    (flitArrives p f bad s).still = s.still ∧ (s.cells.wf = true → (flitArrives p f bad s).cells.wf = true) := by
  refine ⟨?_, fun w => ?_⟩ <;> unfold flitArrives <;> dsimp only <;> (repeat' split) <;>
    simp_all (maxDischargeDepth := 8)

@[simp] theorem sendForward_keeps (p : Nat) (out : Nat) (f : BitVec 2048) (s : State) :
    (sendForward p out f s).still = s.still ∧ (sendForward p out f s).cells = s.cells := by
  simp [sendForward]

@[simp] theorem leaveBuffer_keeps (p : Nat) (f : BitVec 2048) (drop : Bool) (via : Option Nat) (s : State) :
    (leaveBuffer p f drop via s).still = s.still ∧ (leaveBuffer p f drop via s).cells = s.cells :=
  ⟨rfl, rfl⟩

@[simp] theorem discardPacket_keeps (p : Nat) (f : BitVec 2048) (s : State) :
    (discardPacket p f s).still = s.still ∧ (discardPacket p f s).cells = s.cells := by
  unfold discardPacket
  constructor <;> (repeat' split) <;> simp

@[simp] theorem forwardFlit_keeps (p : Nat) (f : BitVec 2048) (s : State) :
    (forwardFlit p f s).still = s.still ∧ (forwardFlit p f s).cells = s.cells := by
  unfold forwardFlit
  constructor <;> (repeat' split) <;> simp

/-! Remote.lean -/

@[simp] theorem updWindow_keeps (w : Nat) (f : Window → Window) (s : State) :
    (updWindow w f s).still = s.still ∧ (updWindow w f s).cells = s.cells := ⟨rfl, rfl⟩

@[simp] theorem openWindow_keeps (c : Cmd) (s : State) :
    (openWindow c s).1.still = s.still ∧ (openWindow c s).1.cells = s.cells := by
  unfold openWindow
  constructor <;> (dsimp only; (repeat' split)) <;> simp_all

@[simp] theorem freeWindow_keeps (w : Nat) (s : State) :
    (freeWindow w s).still = s.still ∧ (freeWindow w s).cells = s.cells := by
  simp [freeWindow]

@[simp] theorem beginClose_keeps (w : Nat) (free : Bool) (s : State) :
    (beginClose w free s).still = s.still ∧ (beginClose w free s).cells = s.cells := ⟨rfl, rfl⟩

@[simp] theorem closeRemote_keeps (c : Cmd) (s : State) :
    (closeRemote c s).1.still = s.still ∧ (closeRemote c s).1.cells = s.cells := by
  unfold closeRemote
  constructor <;> (dsimp only; (repeat' split)) <;> simp_all

@[simp] theorem finishClose_keeps (w : Nat) (x : Window) (s : State) :
    (finishClose w x s).still = s.still ∧ (finishClose w x s).cells = s.cells := by
  unfold finishClose
  constructor <;> (repeat' split) <;> simp

@[simp] theorem countRefusal_keeps (w : Nat) (status : Nat) (s : State) :
    (countRefusal w status s).still = s.still ∧ (countRefusal w status s).cells = s.cells := ⟨rfl, rfl⟩

@[simp] theorem refuseRequest_keeps (p : Nat) (k : Packet) (status : Nat) (s : State) :
    (refuseRequest p k status s).still = s.still ∧ (refuseRequest p k status s).cells = s.cells := by
  simp [refuseRequest]

@[simp] theorem writeWindow_keeps (env : Env) (q : Nat) (x : Window) (l : List Host.Cell) (x1 : List Nat) (s :
    State) :
    (writeWindow env q x l x1 s).1.still = s.still ∧
      (s.cells.wf = true → (writeWindow env q x l x1 s).1.cells.wf = true) := by
  fun_induction writeWindow env q x l x1 s <;> simp_all +zetaDelta (maxDischargeDepth := 8)

@[simp] theorem readWindow_keeps (env : Env) (q : Nat) (x : Window) (x1 : List Nat) (s : State) :
    (readWindow env q x x1 s).1.still = s.still ∧ (readWindow env q x x1 s).1.cells = s.cells := by
  fun_induction readWindow env q x x1 s <;> simp_all +zetaDelta

@[simp] theorem acceptWrite_keeps (p : Nat) (x : Window) (k : Packet) (s : State) :
    (acceptWrite p x k s).still = s.still ∧ (acceptWrite p x k s).cells = s.cells := ⟨rfl, rfl⟩

@[simp] theorem decideWrite_keeps (p : Nat) (k : Packet) (s : State) :
    (decideWrite p k s).still = s.still ∧ (decideWrite p k s).cells = s.cells := by
  unfold decideWrite
  constructor <;> (repeat' split) <;> simp

@[simp] theorem landWrite_keeps (p : Nat) (env : Env) (w : InWrite) (x : Window) (s : State) :
    (landWrite p env w x s).still = s.still ∧ (s.cells.wf = true → (landWrite p env w x s).cells.wf = true) := by
  refine ⟨?_, fun w => ?_⟩ <;> unfold landWrite <;> (repeat' split) <;> simp [*]

@[simp] theorem serveRead_keeps (p : Nat) (env : Env) (x : Window) (k : Packet) (s : State) :
    (serveRead p env x k s).still = s.still ∧ (serveRead p env x k s).cells = s.cells := by
  unfold serveRead
  constructor <;> (dsimp only; (repeat' split)) <;> simp_all

@[simp] theorem decideRead_keeps (p : Nat) (env : Env) (k : Packet) (s : State) :
    (decideRead p env k s).still = s.still ∧ (decideRead p env k s).cells = s.cells := by
  unfold decideRead
  constructor <;> (repeat' split) <;> simp

@[simp] theorem burstAnswered_keeps (bid : Nat) (tag : Nat) (u : TagUse) (k : Packet) (s : State) :
    (burstAnswered bid tag u k s).still = s.still ∧
      (s.cells.wf = true → (burstAnswered bid tag u k s).cells.wf = true) := by
  refine ⟨?_, fun w => ?_⟩ <;> unfold burstAnswered <;> (try dsimp only) <;> (repeat' split) <;>
    simp (maxDischargeDepth := 8) [*]

@[simp] theorem answerTag_keeps (k : Packet) (u : TagUse) (s : State) :
    (answerTag k u s).still = s.still ∧ (s.cells.wf = true → (answerTag k u s).cells.wf = true) := by
  refine ⟨?_, fun w => ?_⟩ <;> unfold answerTag <;> (try dsimp only) <;> (repeat' split) <;>
    simp (maxDischargeDepth := 8) [*]

@[simp] theorem takeResponse_keeps (p : Nat) (k : Packet) (s : State) :
    (takeResponse p k s).still = s.still ∧ (s.cells.wf = true → (takeResponse p k s).cells.wf = true) := by
  refine ⟨?_, fun w => ?_⟩ <;> unfold takeResponse <;> (repeat' split) <;> simp [*]

/-! Release.lean -/

@[simp] theorem disableAll_keeps (j : Nat) (s : State) :
    (disableAll j s).still = s.still ∧ (s.cells.wf = true → (disableAll j s).cells.wf = true) := by
  refine ⟨?_, fun w => ?_⟩ <;> unfold disableAll <;>
    (first | (apply foldl_still; intro t x) | (refine foldl_wf _ (fun t x w => ?_) _ w)) <;> (repeat' split) <;>
    simp_all (maxDischargeDepth := 8)

@[simp] theorem releaseRings_keeps (j : Nat) (s : State) :
    (releaseRings j s).still = s.still ∧ (releaseRings j s).cells = s.cells := ⟨rfl, rfl⟩

@[simp] theorem releaseWindow_keeps (t : State) (w : Nat) :
    (releaseWindow t w).still = t.still ∧ (releaseWindow t w).cells = t.cells := by
  unfold releaseWindow
  constructor <;> (repeat' split) <;> simp

@[simp] theorem releaseWindows_keeps (j : Nat) (s : State) :
    (releaseWindows j s).still = s.still ∧ (releaseWindows j s).cells = s.cells := by
  unfold releaseWindows
  constructor <;> (first | (apply foldl_still; intro t x) | (apply foldl_cells; intro t x)) <;> (repeat' split) <;>
    simp

@[simp] theorem closeQueues_keeps (j : Nat) (s : State) :
    (closeQueues j s).still = s.still ∧ (s.cells.wf = true → (closeQueues j s).cells.wf = true) := by
  refine ⟨?_, fun w => ?_⟩ <;> unfold closeQueues <;>
    (first | (apply foldl_still; intro t x) | (refine foldl_wf _ (fun t x w => ?_) _ w)) <;> (repeat' split) <;>
    simp_all (maxDischargeDepth := 8)

theorem beginRelease_still (j : Nat) (s : State) :
    (beginRelease j s).still = { s.still with jobs := Tbl.upd s.jobs j fun x => { x with releasing := true } } :=
  (closeQueues_keeps _ _).1.trans ((releaseWindows_keeps _ _).1.trans ((releaseRings_keeps _ _).1.trans
    ((disableAll_keeps _ _).1.trans rfl)))

@[simp] theorem beginRelease_keeps (j : Nat) (s : State) :
    (beginRelease j s).still.sansJobs = s.still.sansJobs ∧ (s.cells.wf = true → (beginRelease j s).cells.wf = true) := by
  refine ⟨by rw [beginRelease_still]; rfl, fun w => (closeQueues_keeps j _).2 ?_⟩
  simp [w]

@[simp] theorem withdrawEntry_keeps (j : Nat) (seq : Word32) (go : Nat) (t : State) (n : Nat) :
    (withdrawEntry j seq go t n).still = t.still ∧ (withdrawEntry j seq go t n).cells = t.cells := by
  unfold withdrawEntry
  constructor <;> (repeat' split) <;> simp

@[simp] theorem withdrawAlloc_keeps (j : Nat) (seq : Word32) (go : Nat) (t : State) (p : Nat) :
    (withdrawAlloc j seq go t p).still = t.still ∧ (withdrawAlloc j seq go t p).cells = t.cells := by
  unfold withdrawAlloc
  constructor <;> (repeat' split) <;> simp

@[simp] theorem withdrawRanges_keeps (j : Nat) (seq : Word32) (go : Nat) (s : State) :
    (withdrawRanges j seq go s).still = s.still ∧ (s.cells.wf = true → (withdrawRanges j seq go s).cells.wf = true) := by
  show Keeps s _
  exact Keeps.trans (Keeps.foldl _ (fun t n => .of_eq (withdrawEntry_keeps j seq go t n)) _ _) (settleWds_keeps _)

@[simp] theorem freeObjects_keeps (j : Nat) (seq : Word32) (go : Nat) (s : State) :
    (freeObjects j seq go s).still = s.still ∧ (s.cells.wf = true → (freeObjects j seq go s).cells.wf = true) := by
  show Keeps s _
  unfold freeObjects
  dsimp only
  refine Keeps.trans ?_ (settleWds_keeps _)
  refine Keeps.trans ?_ (Keeps.foldl _ (fun t n => .of_eq (withdrawAlloc_keeps j seq go t n)) _ _)
  refine Keeps.trans ?_ (Keeps.foldl _ (fun t n => .of_eq (freeStream_keeps n t)) _ _)
  refine Keeps.trans ?_ (Keeps.foldl _ (fun t n => .of_eq (unbind_keeps n t)) _ _)
  refine Keeps.trans ?_ (Keeps.foldl _ (fun t n => .of_eq (destroyRing_keeps n t)) _ _)
  exact Keeps.foldl _ (fun t n => .of_eq (by simp)) _ _

theorem freeSlots_still (j : Nat) (s : State) :
    (freeSlots j s).still = { s.still with keys := s.keys.filterV fun _ k => k.job != j } := by
  have h := foldl_still s (fun t k => keepKey k t) (by simp) (keysOf s.keys fun k => k.job == j)
  exact congrArg (fun x : Still => { x with keys := x.keys.filterV fun _ k => k.job != j }) h

@[simp] theorem freeSlots_keeps (j : Nat) (s : State) :
    (freeSlots j s).still.sansJobs = s.still.sansJobs ∧ (freeSlots j s).cells = s.cells := by
  have h := foldl_cells s (fun t k => keepKey k t) (by simp) (keysOf s.keys fun k => k.job == j)
  exact ⟨by rw [freeSlots_still]; rfl, h⟩

theorem endRelease_still (j : Nat) (s : State) :
    (endRelease j s).still =
      { s.still with keys := s.keys.filterV fun _ k => k.job != j, jobs := Tbl.del s.jobs j } :=
  (finishWait_keeps _ _ _ _ _).1.trans ((mirrorSend_keeps _ _).1.trans
    (congrArg (fun x : Still => { x with jobs := Tbl.del x.jobs j }) (freeSlots_still j s)))

@[simp] theorem endRelease_keeps (j : Nat) (s : State) :
    (endRelease j s).still.sansJobs = s.still.sansJobs ∧ (endRelease j s).cells = s.cells :=
  ⟨by rw [endRelease_still]; rfl, (finishWait_keeps _ _ _ _ _).2.trans ((mirrorSend_keeps _ _).2.trans (freeSlots_keeps j s).2)⟩

@[simp] theorem releaseStep_keeps (j : Nat) (seq : Word32) (go : Nat) (s : State) :
    (releaseStep j seq go s).still.sansJobs = s.still.sansJobs ∧
      (s.cells.wf = true → (releaseStep j seq go s).cells.wf = true) := by
  refine ⟨?_, fun w => ?_⟩ <;> unfold releaseStep <;> (dsimp only; (repeat' split)) <;>
    simp (maxDischargeDepth := 8) [*]

@[simp] theorem jobRelease_keeps (c : Cmd) (s : State) :
    (jobRelease c s).1.still.sansJobs = s.still.sansJobs ∧ (s.cells.wf = true → (jobRelease c s).1.cells.wf = true) := by
  refine ⟨?_, fun w => ?_⟩ <;> unfold jobRelease <;> (try dsimp only) <;> (repeat' split) <;>
    simp (maxDischargeDepth := 8) [*]

@[simp] theorem advanceRelease_keeps (m : Nat) (s : State) :
    (advanceRelease m s).still.sansJobs = s.still.sansJobs ∧
      (s.cells.wf = true → (advanceRelease m s).cells.wf = true) := by
  refine ⟨?_, fun w => ?_⟩ <;> unfold advanceRelease <;> (try dsimp only) <;> (repeat' split) <;>
    simp (maxDischargeDepth := 8) [*]

/-! Mirror.lean -/

@[simp] theorem updMirror_keeps (f : Mirror → Mirror) (s : State) :
    (updMirror f s).still = s.still ∧ (updMirror f s).cells = s.cells := ⟨rfl, rfl⟩

@[simp] theorem changePair_keeps (reason : Nat) (f : Mirror → Mirror) (s : State) :
    (changePair reason f s).still = s.still ∧ (changePair reason f s).cells = s.cells := by
  simp [changePair]

@[simp] theorem setWithy_keeps (m : Mirror) (on : Bool) (s : State) :
    (setWithy m on s).still = s.still ∧ (setWithy m on s).cells = s.cells := by
  unfold setWithy
  constructor <;> (first | (apply foldl_still; intro t x) | (apply foldl_cells; intro t x)) <;> (repeat' split) <;>
    simp

@[simp] theorem sendWithy_keeps (kind : Nat) (content : Nat) (s : State) :
    (sendWithy kind content s).still = s.still ∧ (sendWithy kind content s).cells = s.cells := by
  unfold sendWithy
  constructor <;> (first | (apply foldl_still; intro t x) | (apply foldl_cells; intro t x)) <;> (repeat' split) <;>
    simp

@[simp] theorem pairUp_keeps (c : Cmd) (s : State) :
    (pairUp c s).1.still = s.still ∧ (pairUp c s).1.cells = s.cells := by
  unfold pairUp
  constructor <;> (repeat' split) <;> simp

@[simp] theorem goSolo_keeps (reason : Nat) (s : State) :
    (goSolo reason s).still = s.still ∧ (goSolo reason s).cells = s.cells := by
  simp [goSolo]

@[simp] theorem releaseMirrored_keeps (s : State) :
    (releaseMirrored s).still.sansJobs = s.still.sansJobs ∧ (s.cells.wf = true → (releaseMirrored s).cells.wf = true) := by
  unfold releaseMirrored
  exact ⟨foldl_sans _ _ (by simp) _, fun w => foldl_wf _ (fun t x w => by simp [w]) _ w⟩

@[simp] theorem unpairAct_keeps (s : State) :
    (unpairAct s).1.still.sansJobs = s.still.sansJobs ∧ (s.cells.wf = true → (unpairAct s).1.cells.wf = true) := by
  refine ⟨?_, fun w => ?_⟩ <;> unfold unpairAct <;> (try dsimp only) <;> (repeat' split) <;>
    simp (maxDischargeDepth := 8) [*]

@[simp] theorem advanceUnpair_keeps (m : Nat) (s : State) :
    (advanceUnpair m s).still.sansJobs = s.still.sansJobs ∧
      (s.cells.wf = true → (advanceUnpair m s).cells.wf = true) := by
  have h1 : ∀ (l : List Nat) (q : Word32) (g : Nat), _ := fun l q g =>
    foldl_sans s (fun t j => if Tbl.has t.jobs j then releaseStep j q g t else t) (fun t j => by split <;> simp) l
  have h2 : ∀ (l : List Nat) (q : Word32) (g : Nat), s.cells.wf = true → _ := fun l q g w =>
    foldl_wf (fun t j => if Tbl.has t.jobs j then releaseStep j q g t else t) (fun t j v => by split <;> simp [v]) l w
  refine ⟨?_, fun w => ?_⟩ <;> unfold advanceUnpair <;> (repeat' split) <;> simp_all

@[simp] theorem fenceEntry_keeps (n : Nat) (t : State) (e : RingEntry) :
    (fenceEntry n t e).still = t.still ∧ (fenceEntry n t e).cells = t.cells := ⟨rfl, rfl⟩

@[simp] theorem fenceRing_keeps (t : State) (n : Nat) :
    (fenceRing t n).still = t.still ∧ (fenceRing t n).cells = t.cells := by
  unfold fenceRing
  constructor <;> (first | (apply foldl_still; intro t x) | (apply foldl_cells; intro t x)) <;> (repeat' split) <;>
    simp

@[simp] theorem fenceStream_keeps (t : State) (i : Nat) :
    (fenceStream t i).still = t.still ∧ (t.cells.wf = true → (fenceStream t i).cells.wf = true) := by
  refine ⟨?_, fun w => ?_⟩ <;> unfold fenceStream <;> (try dsimp only) <;> (repeat' split) <;>
    simp (maxDischargeDepth := 8) [*]

@[simp] theorem fencePrimary_keeps (reason : Nat) (s : State) :
    (fencePrimary reason s).still = s.still ∧ (s.cells.wf = true → (fencePrimary reason s).cells.wf = true) := by
  show Keeps s _
  unfold fencePrimary
  dsimp only
  refine Keeps.trans ?_ (.of_eq (changePair_keeps _ _ _))
  exact Keeps.trans (Keeps.foldl _ (fun t i => fenceStream_keeps t i) _ _)
    (Keeps.foldl _ (fun t i => .of_eq (fenceRing_keeps t i)) _ _)

@[simp] theorem dropRangeCopies_keeps (n : Nat) (s : State) :
    (dropRangeCopies n s).still = s.still ∧ (dropRangeCopies n s).cells = s.cells := ⟨rfl, rfl⟩

@[simp] theorem dropPagedCopies_keeps (s : State) :
    (dropPagedCopies s).still = s.still ∧ (dropPagedCopies s).cells = s.cells := ⟨rfl, rfl⟩

@[simp] theorem discardCopies_keeps (s : State) :
    (discardCopies s).still = s.still ∧ (s.cells.wf = true → (discardCopies s).cells.wf = true) := by
  show Keeps s _
  unfold discardCopies
  dsimp only
  refine Keeps.trans ?_ (Keeps.foldl _ (fun t p => ⟨by simp, fun w => by simp [w]⟩) _ _)
  refine Keeps.trans ?_ (Keeps.foldl _ (fun t i => .of_eq (by simp)) _ _)
  refine Keeps.trans ?_ (Keeps.foldl _ (fun t r => .of_eq (by simp)) _ _)
  exact Keeps.foldl _ (fun t n => .of_eq (dropRangeCopies_keeps n t)) _ _

@[simp] theorem discardMirrored_keeps (s : State) :
    (discardMirrored s).still.sansJobs = s.still.sansJobs ∧ (s.cells.wf = true → (discardMirrored s).cells.wf = true) :=
  ⟨(congrArg Still.sansJobs (discardCopies_keeps s).1 :), (discardCopies_keeps s).2⟩

@[simp] theorem startCopy_keeps (reason : Nat) (s : State) :
    (startCopy reason s).still = s.still ∧ (startCopy reason s).cells = s.cells := by
  simp [startCopy]

@[simp] theorem startReceive_keeps (reason : Nat) (s : State) :
    (startReceive reason s).still.sansJobs = s.still.sansJobs ∧
      (s.cells.wf = true → (startReceive reason s).cells.wf = true) := by
  refine ⟨?_, fun w => ?_⟩ <;> unfold startReceive <;> (try dsimp only) <;> (repeat' split) <;>
    simp (maxDischargeDepth := 8) [*]

@[simp] theorem joinPair_keeps (hb : Heartbeat) (s : State) :
    (joinPair hb s).still.sansJobs = s.still.sansJobs ∧ (s.cells.wf = true → (joinPair hb s).cells.wf = true) := by
  refine ⟨?_, fun w => ?_⟩ <;> unfold joinPair <;> (repeat' split) <;> simp [*]

@[simp] theorem reunite_keeps (hb : Heartbeat) (s : State) :
    (reunite hb s).still.sansJobs = s.still.sansJobs ∧ (s.cells.wf = true → (reunite hb s).cells.wf = true) := by
  refine ⟨?_, fun w => ?_⟩ <;> unfold reunite <;> (repeat' split) <;> simp (maxDischargeDepth := 8) [*]

@[simp] theorem becomeMirror_keeps (hb : Heartbeat) (s : State) :
    (becomeMirror hb s).still = s.still ∧ (becomeMirror hb s).cells = s.cells := by
  simp [becomeMirror]

@[simp] theorem followEpoch_keeps (hb : Heartbeat) (s : State) :
    (followEpoch hb s).still = s.still ∧ (followEpoch hb s).cells = s.cells := by
  simp [followEpoch]

@[simp] theorem pairStep_keeps (was : Mirror) (hb : Heartbeat) (s : State) :
    (pairStep was hb s).still.sansJobs = s.still.sansJobs ∧
      (s.cells.wf = true → (pairStep was hb s).cells.wf = true) := by
  refine ⟨?_, fun w => ?_⟩ <;> unfold pairStep <;> (repeat' split) <;> simp (maxDischargeDepth := 8) [*]

@[simp] theorem heardBeat_keeps (withy : Bool) (hb : Heartbeat) (s : State) :
    (heardBeat withy hb s).still.sansJobs = s.still.sansJobs ∧
      (s.cells.wf = true → (heardBeat withy hb s).cells.wf = true) := by
  refine ⟨?_, fun w => ?_⟩ <;> unfold heardBeat <;> (repeat' split) <;> simp (maxDischargeDepth := 8) [*]

@[simp] theorem mutePath_keeps (unit : Nat) (left : Nat) (s : State) :
    (mutePath unit left s).1.still = s.still ∧ (mutePath unit left s).1.cells = s.cells := by
  unfold mutePath
  constructor <;> (repeat' split) <;> simp

@[simp] theorem beginPeriod_keeps (s : State) :
    (beginPeriod s).still = s.still ∧ (beginPeriod s).cells = s.cells := by
  simp [beginPeriod]

@[simp] theorem sendFabric_keeps (s : State) :
    (sendFabric s).still = s.still ∧ (sendFabric s).cells = s.cells := by
  unfold sendFabric
  constructor <;> (dsimp only; (repeat' split)) <;> simp_all

@[simp] theorem actOnLoss_keeps (withy : Bool) (s : State) :
    (actOnLoss withy s).still = s.still ∧ (actOnLoss withy s).cells = s.cells := by
  simp [actOnLoss]

@[simp] theorem takeOver_keeps (s : State) :
    (takeOver s).still = s.still ∧ (takeOver s).cells = s.cells := ⟨rfl, rfl⟩

@[simp] theorem promote_keeps (c : Cmd) (s : State) :
    (promote c s).1.still = s.still ∧ (promote c s).1.cells = s.cells := by
  unfold promote
  constructor <;> (repeat' split) <;> simp

@[simp] theorem holdsFor_keeps (k : Nat) (n : Nat) (s : State) :
    (holdsFor k n s).still = s.still ∧ (holdsFor k n s).cells = s.cells := ⟨rfl, rfl⟩

@[simp] theorem letsGo_keeps (k : Nat) (n : Nat) (s : State) :
    (letsGo k n s).still = s.still ∧ (letsGo k n s).cells = s.cells := ⟨rfl, rfl⟩

@[simp] theorem mirrorStream_keeps (i : Nat) (body : Nat) (job : Nat) (s : State) :
    (mirrorStream i body job s).still = s.still ∧ (s.cells.wf = true → (mirrorStream i body job s).cells.wf = true) := by
  refine ⟨?_, fun w => ?_⟩ <;> unfold mirrorStream <;> (try dsimp only) <;> (repeat' split) <;>
    simp (maxDischargeDepth := 8) [*]

@[simp] theorem mirrorWindow_keeps (w : Nat) (body : Nat) (job : Nat) (s : State) :
    (mirrorWindow w body job s).still = s.still ∧ (mirrorWindow w body job s).cells = s.cells := ⟨rfl, rfl⟩

theorem mereRows_wf {α : Type} (s : State) (f : α → Nat × BitVec 512 × BitVec 512) (l : List α) (w : s.cells.wf = true) :
    (State.cells { s with mem := l.foldl (fun m r => putRowMere m (f r).1 (f r).2.1 (f r).2.2) s.mem }).wf = true := by
  have h : ∀ m : MemSys, (zeroForm m.mere = true →
      zeroForm (l.foldl (fun m r => putRowMere m (f r).1 (f r).2.1 (f r).2.2) m).mere = true) ∧
      (l.foldl (fun m r => putRowMere m (f r).1 (f r).2.1 (f r).2.2) m).stack = m.stack ∧
      (l.foldl (fun m r => putRowMere m (f r).1 (f r).2.1 (f r).2.2) m).hostOut = m.hostOut := by
    induction l with
    | nil => exact fun m => ⟨id, rfl, rfl⟩
    | cons x xs ih =>
      intro m
      have p := putRowMere_keeps m (f x).1 (f x).2.1 (f x).2.2
      exact ⟨fun z => (ih _).1 (p.2.2 z), (ih _).2.1.trans p.2.1, (ih _).2.2.trans p.1⟩
  exact wf_putMem s _ w (fun z => by rw [(h _).2.1]; exact z) (fun z => by rw [(h _).2.2]; exact z) (h _).1

@[simp] theorem applyItem_keeps (i : MirrorItem) (s : State) :
    (applyItem i s).still.sansJobs = s.still.sansJobs ∧ (s.cells.wf = true → (applyItem i s).cells.wf = true) := by
  refine ⟨?_, fun w => ?_⟩ <;> unfold applyItem <;> (repeat' split) <;>
    first
    | (simp (maxDischargeDepth := 8) [*]; done)
    | exact mereRows_wf s (fun r => (r, cellsRow _ r)) _ w

end Sys2Proof.Machine
end

