-- ==== Sys2Proof/Laws/Resets.lean ====
section
/-! SUPPORT. What function resets and injection leave still, and that the byte memories stay in canonical form: one lemma for
each operation, in the order of the files of Machine/. -/

namespace Sys2Proof.Machine

/-! FunctionReset.lean -/

theorem markWedged_still (f : Fn) (s : State) : (markWedged f s).still = { s.still with wedged := s.wedged ++ [f] } :=
  (setCause_keeps _ _ _).1.trans rfl

@[simp] theorem markWedged_cells (f : Fn) (s : State) : (markWedged f s).cells = s.cells := (setCause_keeps _ _ _).2.trans rfl

@[simp] theorem clearFn_keeps (f : Fn) (s : State) :
    (clearFn f s).still = s.still ∧ (clearFn f s).cells = s.cells := ⟨rfl, rfl⟩

@[simp] theorem dropStream_keeps (h : Option NrdyHold) (t : State) (i : Nat) :
    (dropStream h t i).still = t.still ∧ (t.cells.wf = true → (dropStream h t i).cells.wf = true) := by
  refine ⟨?_, fun w => ?_⟩ <;> unfold dropStream <;> (try dsimp only) <;> (repeat' split) <;>
    simp (maxDischargeDepth := 8) [*]

@[simp] theorem dropStreams_keeps (f : Fn) (l : List Nat) (s : State) :
    (dropStreams f l s).st.still = s.still ∧ (s.cells.wf = true → (dropStreams f l s).st.cells.wf = true) := by
  refine ⟨?_, fun w => ?_⟩ <;> unfold dropStreams <;>
    (first | (apply foldl_still; intro t x) | (refine foldl_wf _ (fun t x w => ?_) _ w)) <;> (repeat' split) <;>
    simp_all (maxDischargeDepth := 8)

@[simp] theorem failGroup_keeps (q : Nat) (h : Option NrdyHold) (s : State) :
    (failGroup q h s).still = s.still ∧ (failGroup q h s).cells = s.cells := by
  unfold failGroup
  constructor <;> (first | (apply foldl_still; intro t x) | (apply foldl_cells; intro t x)) <;> split <;>
    (first | rfl | (apply foldl_still; intro t x) | (apply foldl_cells; intro t x)) <;> simp

@[simp] theorem clearGroup_keeps (q : Nat) (s : State) :
    (clearGroup q s).still = s.still ∧ (clearGroup q s).cells = s.cells := by
  have h : ((((Tbl.keys s.slots).filter fun n => moverQuarter (slotMover n) == q).foldl
      (fun t n => discardSlot (resetHold (.mover (Fin.ofNat 4 q))) n t) s).still = s.still) ∧
      ((((Tbl.keys s.slots).filter fun n => moverQuarter (slotMover n) == q).foldl
      (fun t n => discardSlot (resetHold (.mover (Fin.ofNat 4 q))) n t) s).cells = s.cells) :=
    ⟨foldl_still _ _ (fun t n => (discardSlot_keeps _ n t).1) _, foldl_cells _ _ (fun t n => (discardSlot_keeps _ n t).2) _⟩
  exact ⟨(failGroup_keeps _ _ _).1.trans h.1, (failGroup_keeps _ _ _).2.trans h.2⟩

@[simp] theorem resetGroup_keeps (q : Nat) (s : State) :
    (resetGroup q s).st.still = s.still ∧ (s.cells.wf = true → (resetGroup q s).st.cells.wf = true) := by
  refine ⟨?_, fun w => ?_⟩ <;> unfold resetGroup <;> (repeat' split) <;> simp (maxDischargeDepth := 8) [*]

@[simp] theorem resetExpanders_keeps (q : Nat) (s : State) :
    (resetExpanders q s).st.still = s.still ∧ (s.cells.wf = true → (resetExpanders q s).st.cells.wf = true) := by
  refine ⟨?_, fun w => ?_⟩ <;> unfold resetExpanders <;> (repeat' split) <;> simp (maxDischargeDepth := 8) [*]

@[simp] theorem resetBinding_keeps (t : State) (k : Nat) :
    (resetBinding t k).still = t.still ∧ (resetBinding t k).cells = t.cells := by
  unfold resetBinding
  constructor <;> (repeat' split) <;> simp

@[simp] theorem resetQuants_keeps (q : Nat) (s : State) :
    (resetQuants q s).st.still = s.still ∧ (s.cells.wf = true → (resetQuants q s).st.cells.wf = true) := by
  show Keeps s _
  unfold resetQuants
  dsimp only
  refine Keeps.trans ?_ (Keeps.foldl _ (fun t k => .of_eq (resetBinding_keeps t k)) _ _)
  exact Keeps.trans (dropStreams_keeps _ _ _) (.of_eq ⟨rfl, rfl⟩)

@[simp] theorem dropInFlight_keeps (q : Nat) (s : State) :
    (dropInFlight q s).still = s.still ∧ (dropInFlight q s).cells = s.cells := ⟨rfl, rfl⟩

@[simp] theorem restartQueue_keeps (t : State) (n : Nat) :
    (restartQueue t n).still = t.still ∧ (t.cells.wf = true → (restartQueue t n).cells.wf = true) := by
  refine ⟨?_, fun w => ?_⟩ <;> unfold restartQueue <;> (try dsimp only) <;> (repeat' split) <;>
    simp (maxDischargeDepth := 8) [*]

@[simp] theorem restartSlice_keeps (q : Nat) (s : State) :
    (restartSlice q s).still = s.still ∧ (s.cells.wf = true → (restartSlice q s).cells.wf = true) := by
  refine ⟨?_, fun w => ?_⟩ <;> unfold restartSlice <;>
    (first | (apply foldl_still; intro t x) | (refine foldl_wf _ (fun t x w => ?_) _ w)) <;> (repeat' split) <;>
    simp_all (maxDischargeDepth := 8)

@[simp] theorem relink_keeps (t : State) (p : Nat) :
    (relink t p).still = t.still ∧ (relink t p).cells = t.cells := by
  simp [relink]

@[simp] theorem resetLinks_keeps (q : Nat) (s : State) :
    (resetLinks q s).still = s.still ∧ (s.cells.wf = true → (resetLinks q s).cells.wf = true) :=
  Keeps.trans (Keeps.foldl _ (fun t p => .of_eq (relink_keeps t p)) (groupPorts q) s) (failTags_keeps _ _ _)

@[simp] theorem resetXlate_keeps (s : State) :
    (resetXlate s).st.still = s.still ∧ (s.cells.wf = true → (resetXlate s).st.cells.wf = true) := by
  refine ⟨?_, fun w => ?_⟩ <;> unfold resetXlate <;> (repeat' split) <;> simp (maxDischargeDepth := 8) [*]

@[simp] theorem spoilRow_keeps (t : State) (r : MemReq) :
    (spoilRow t r).still = t.still ∧ (t.cells.wf = true → (spoilRow t r).cells.wf = true) := by
  refine ⟨?_, fun w => ?_⟩ <;> unfold spoilRow <;> (try dsimp only) <;> (repeat' split) <;>
    simp (maxDischargeDepth := 8) [*]

@[simp] theorem nackCore_keeps (r : State × List (Nat × DlvBeat)) (k : Nat × Nat) :
    (nackCore r k).1.still = r.1.still ∧ (nackCore r k).1.cells = r.1.cells := by
  unfold nackCore
  constructor <;> split <;> simp

@[simp] theorem loseMessage_keeps (t : State) (k : Nat × Nat) :
    (loseMessage t k).still = t.still ∧ (loseMessage t k).cells = t.cells := by
  simp [loseMessage]

@[simp] theorem resetMere_keeps (s : State) :
    (resetMere s).st.still = s.still ∧ (s.cells.wf = true → (resetMere s).st.cells.wf = true) := by
  show Keeps s _
  unfold resetMere
  dsimp only
  refine Keeps.trans ?_ (dropStreams_keeps _ _ _)
  refine Keeps.trans ?_ (.of_eq (presentAll_keeps _ _))
  refine foldl_pair nackCore s (fun r k => Keeps.of_eq (s := r.1) (nackCore_keeps r k)) _ _ ?_
  refine Keeps.trans ?_ (Keeps.foldl _ (fun t (k : Nat × Nat) => .of_eq (loseAdd_keeps k.1 k.2 _ t)) _ _)
  refine Keeps.trans ?_ (Keeps.foldl _ (fun t k => .of_eq (loseMessage_keeps t k)) _ _)
  exact Keeps.trans (Keeps.foldl _ (fun t r => spoilRow_keeps t r) _ _) (.of_eq ⟨rfl, rfl⟩)

@[simp] theorem resetMgmt_keeps (m : Nat) (s : State) :
    (resetMgmt m s).still = s.still ∧ (resetMgmt m s).cells = s.cells := by
  simp [resetMgmt]

@[simp] theorem beginFn_keeps (f : Fn) (m : Nat) (s : State) :
    (beginFn f m s).st.still = s.still ∧ (s.cells.wf = true → (beginFn f m s).st.cells.wf = true) := by
  refine ⟨?_, fun w => ?_⟩ <;> unfold beginFn <;> (repeat' split) <;> simp [*]

@[simp] theorem stopRings_keeps (l : List Nat) (s : State) :
    (stopRings l s).still = s.still ∧ (stopRings l s).cells = s.cells := ⟨rfl, rfl⟩

@[simp] theorem startReset_keeps (f : Fn) (m : Nat) (s : State) :
    (startReset f m s).still = s.still ∧ (s.cells.wf = true → (startReset f m s).cells.wf = true) := by
  refine ⟨?_, fun w => ?_⟩ <;> unfold startReset <;> (try dsimp only) <;> (repeat' split) <;>
    simp (maxDischargeDepth := 8) [*]

@[simp] theorem mergeReset_keeps (f : Fn) (m : Nat) (s : State) :
    (mergeReset f m s).still = s.still ∧ (mergeReset f m s).cells = s.cells := ⟨rfl, rfl⟩

@[simp] theorem functionReset_keeps (f : Nat → Fn) (c : Cmd) (s : State) :
    (functionReset f c s).1.still = s.still ∧ (s.cells.wf = true → (functionReset f c s).1.cells.wf = true) := by
  refine ⟨?_, fun w => ?_⟩ <;> unfold functionReset <;> (repeat' split) <;> simp [*]

@[simp] theorem unqueue_keeps (n : Nat) (s : State) :
    (unqueue n s).still = s.still ∧ (unqueue n s).cells = s.cells := ⟨rfl, rfl⟩

@[simp] theorem noteAbandon_keeps (n : Nat) (s : State) :
    (noteAbandon n s).still = s.still ∧ (noteAbandon n s).cells = s.cells := ⟨rfl, rfl⟩

@[simp] theorem abandonRing_keeps (f : Fn) (others : List ResetRun) (t : State) (k : Nat × Nat) :
    (abandonRing f others t k).still = t.still ∧ (t.cells.wf = true → (abandonRing f others t k).cells.wf = true) := by
  show Keeps t _
  unfold abandonRing
  split
  · exact .refl t
  · dsimp only
    refine Keeps.trans ?_ (.of_eq (sendRingStatus_keeps _ _))
    refine Keeps.trans ?_ (.of_eq (noteAbandon_keeps _ _))
    refine Keeps.trans ?_ (.of_eq (updRing_keeps _ _ _))
    refine Keeps.trans ?_ (Keeps.foldl _ (fun t e => .of_eq (dropRefs_keeps e t)) _ _)
    refine Keeps.trans ?_ (.of_eq (unqueue_keeps _ _))
    exact Keeps.foldl _ (fun t i => dropStream_keeps _ t i) _ _

@[simp] theorem takeBells_keeps (t : State) (n : Nat) :
    (takeBells t n).still = t.still ∧ (takeBells t n).cells = t.cells := by
  unfold takeBells
  constructor <;> (repeat' split) <;> simp [foldl_still, foldl_cells]

theorem unwedge_still (f : Fn) (s : State) :
    (unwedge f s).still = { s.still with wedged := s.wedged.filter fun g => g != f } := by
  unfold unwedge
  rw [still_mk, clearGroup_groups]
  rfl

@[simp] theorem unwedge_cells (f : Fn) (s : State) : (unwedge f s).cells = s.cells := rfl

@[simp] theorem answerEnded_keeps (issuers : List Nat) (s : State) :
    (answerEnded issuers s).still = s.still ∧ (answerEnded issuers s).cells = s.cells := by
  unfold answerEnded
  constructor <;> (first | (apply foldl_still; intro t x) | (apply foldl_cells; intro t x)) <;> (repeat' split) <;>
    simp

@[simp] theorem finishFn_keeps (f : Fn) (r : ResetRun) (s : State) :
    (finishFn f r s).still = s.still ∧ (s.cells.wf = true → (finishFn f r s).cells.wf = true) := by
  refine ⟨?_, fun w => ?_⟩ <;> unfold finishFn <;> (repeat' split) <;> simp (maxDischargeDepth := 8) [*]

@[simp] theorem clearCmds_keeps (before : List Mbox) (s : State) :
    (clearCmds before s).still = s.still ∧ (clearCmds before s).cells = s.cells := by
  simp [clearCmds]

/-- A reset's end before it answers: its rings are abandoned. -/
theorem endAbandon_keeps (r : ResetRun) (l : List ResetRun) (k : NrdyHold → Bool) (s : State) :
    Keeps s (freeNrdy k (r.rings.foldl (abandonRing r.fn l) { s with resets := l })) :=
  Keeps.trans (Keeps.trans (t := { s with resets := l }) (.of_eq ⟨rfl, rfl⟩)
    (Keeps.foldl _ (fun t x => abandonRing_keeps _ _ t x) _ _)) (.of_eq (freeNrdy_keeps _ _))

theorem endReset_still (r : ResetRun) (s : State) :
    (endReset r s).still = { s.still with wedged := s.wedged.filter fun g => g != r.fn } := by
  have h1 := endAbandon_keeps r (s.resets.filter fun x => x.fn != r.fn) (fun h => h == .reset (fnCode r.fn)) s
  unfold endReset
  dsimp only
  rw [(settleWds_keeps _).1, foldl_still _ _ (fun t n => (takeBells_keeps t n).1)]
  simp only [still_ite, checkHeld_keeps, clearCmds_keeps, ite_self, finishWait_keeps, finishFn_keeps, unwedge_still, h1.1]
  rw [show State.wedged _ = _ from congrArg Still.wedged h1.1]
  rfl

theorem endReset_wf (r : ResetRun) (s : State) (w : s.cells.wf = true) : (endReset r s).cells.wf = true := by
  have h1 := endAbandon_keeps r (s.resets.filter fun x => x.fn != r.fn) (fun h => h == .reset (fnCode r.fn)) s
  unfold endReset
  dsimp only
  refine (settleWds_keeps _).2 ?_
  rw [foldl_cells _ _ (fun t n => (takeBells_keeps t n).2)]
  simp only [cells_ite, checkHeld_keeps, clearCmds_keeps, ite_self, finishWait_keeps]
  refine (finishFn_keeps _ _ _).2 ?_
  rw [unwedge_cells]
  exact h1.2 w

/-! Inject.lean -/

@[simp] theorem releaseRecorded_keeps (s : State) :
    (releaseRecorded s).still = s.still ∧ (releaseRecorded s).cells = s.cells := by
  simp [releaseRecorded]

@[simp] theorem loseSignal_keeps (p : Nat) (s : State) :
    (loseSignal p s).still = s.still ∧ (s.cells.wf = true → (loseSignal p s).cells.wf = true) := by
  refine ⟨?_, fun w => ?_⟩ <;> unfold loseSignal <;> (try dsimp only) <;> (repeat' split) <;>
    simp (maxDischargeDepth := 8) [*]

@[simp] theorem fireNow_keeps (x1 : Arming) (needs : Option Nat) (s : State) :
    (fireNow x1 needs s).still = s.still ∧ (s.cells.wf = true → (fireNow x1 needs s).cells.wf = true) := by
  refine ⟨?_, fun w => ?_⟩ <;> unfold fireNow <;> (repeat' split) <;> simp [*]

@[simp] theorem fireOnce_keeps (x1 : Arming) (s : State) :
    (fireOnce x1 s).still = s.still ∧ (s.cells.wf = true → (fireOnce x1 s).cells.wf = true) := by
  refine ⟨?_, fun w => ?_⟩ <;> unfold fireOnce <;> (repeat' split) <;> simp (maxDischargeDepth := 8) [*]

@[simp] theorem arm_keeps (c : Cmd) (s : State) :
    (arm c s).1.still = s.still ∧ (s.cells.wf = true → (arm c s).1.cells.wf = true) := by
  refine ⟨?_, fun w => ?_⟩ <;> unfold arm <;> (try dsimp only) <;> (repeat' split) <;>
    simp (maxDischargeDepth := 8) [*]

@[simp] theorem disarm_keeps (c : Cmd) (s : State) :
    (disarm c s).1.still = s.still ∧ (disarm c s).1.cells = s.cells := ⟨rfl, rfl⟩

/-! Mailbox commands, test access and the resets of the complex -/

/-! Everything that the meaning of a mailbox row can do: wait, refuse, or carry the command out. -/

/-- The state that a row's checks and effect see: Hexob has read its SRAM, unless the mailbox hardware acts. -/
theorem runCmd_cases (k : CmdSpec) (m : Nat) (s : State) :
    runCmd k m s = s ∨
      ∃ b, cmdReady k s m = true ∧ busyBox s m = some b ∧
        ((∃ st f e, runCmd k m s = respond m st f e 0 0 (if k.hw then s else hexobReads s)) ∨
          ∃ body cl, opAccepted (if k.hw then s else hexobReads s) (cmdOp b) = true ∧
            checkAll k (if k.hw then s else hexobReads s) b = .ok (body, cl) ∧
            runCmd k m s = applyReply m (k.act (cmdOf m b body) (if k.hw then s else hexobReads s)).2
              (keepClamps m cl (k.act (cmdOf m b body) (if k.hw then s else hexobReads s)).1)) := by
  unfold runCmd
  split
  · next hr =>
    split
    · next b hb =>
      refine .inr ⟨b, hr, hb, ?_⟩
      unfold carryOut
      generalize (if k.hw = true then s else hexobReads s) = u
      dsimp only
      by_cases ha : opAccepted u (cmdOp b) = true
      · rw [if_pos ha]
        split
        · exact .inl ⟨_, _, _, rfl⟩
        · next hc => exact .inr ⟨_, _, ha, hc, rfl⟩
      · rw [if_neg ha]
        exact .inl ⟨_, _, _, rfl⟩
    · exact .inl rfl
  · exact .inl rfl

theorem carryOut_sans (k : CmdSpec) (m : Nat) (b : Mbox) (s : State)
    (h : ∀ c t, (k.act c t).1.still.sansJobs = t.still.sansJobs) :
    (carryOut k m b s).still.sansJobs = s.still.sansJobs := by
  unfold carryOut
  dsimp only
  generalize ht : (if k.hw = true then s else hexobReads s) = t
  have e : t.still = s.still := by rw [← ht]; simp
  split
  · split <;> simp [h, e]
  · simp [e]

theorem runCmd_sans (k : CmdSpec) (m : Nat) (s : State) (h : ∀ c t, (k.act c t).1.still.sansJobs = t.still.sansJobs) :
    (runCmd k m s).still.sansJobs = s.still.sansJobs := by
  unfold runCmd
  (repeat' split) <;> first | rfl | exact carryOut_sans k m _ s h

theorem tapBypass_keeps (code : BitVec 8) (tdi : List Bool) (s : State) :
    (tapBypass code tdi s).still = { s.still with tap := (tapBypass code tdi s).tap } ∧
      (tapBypass code tdi s).cells = s.cells := ⟨rfl, rfl⟩

theorem tapPrivate_keeps (code : BitVec 8) (tdi : List Bool) (f : Tap → Tap) (s : State) :
    (tapPrivate code tdi f s).still = { s.still with tap := (tapPrivate code tdi f s).tap } ∧
      (tapPrivate code tdi f s).cells = s.cells := by
  unfold tapPrivate
  (repeat' split) <;> exact ⟨rfl, rfl⟩

theorem goWrite_keeps (m : Nat) (go : Bool) (s : State) :
    (goWrite m go s).still = { s.still with cmdSeq := (goWrite m go s).cmdSeq } ∧ (goWrite m go s).cells = s.cells ∧
      ((goWrite m go s).cmdSeq = s.cmdSeq ∨ (goWrite m go s).cmdSeq = nextSeq s.cmdSeq) := by
  unfold goWrite
  split
  · split
    · exact ⟨rfl, rfl, .inl rfl⟩
    · split
      · refine ⟨?_, rfl, .inl rfl⟩
        rw [still_mk, updAt_length]
        rfl
      · have h : ∀ t : State, (refuseUnlisted m t).cmdSeq = t.cmdSeq := fun t =>
          congrArg Still.cmdSeq (refuseUnlisted_keeps m t).1
        refine ⟨?_, (refuseUnlisted_keeps m _).2, .inr (h _)⟩
        rw [(refuseUnlisted_keeps m _).1, h, still_mk, updAt_length]
        rfl
  · exact ⟨rfl, rfl, .inl rfl⟩

/-- A start-up changes only what Hexob fills in. -/
@[simp] theorem fillSystemKey_keeps (s : State) :
    (fillSystemKey s).still.sansJobs = s.still.sansJobs ∧ (fillSystemKey s).cells = s.cells := ⟨rfl, rfl⟩

@[simp] theorem startHexob_keeps (peatOk : Bool) (s : State) :
    (startHexob peatOk s).still.sansJobs = s.still.sansJobs ∧ (startHexob peatOk s).cells = s.cells := by
  unfold startHexob
  dsimp only
  constructor <;> split <;> simp

@[simp] theorem advanceS1_keeps (s : State) :
    (advanceS1 s).still.sansJobs = s.still.sansJobs ∧ (s.cells.wf = true → (advanceS1 s).cells.wf = true) := by
  unfold advanceS1
  dsimp only
  refine ⟨?_, fun w => ?_⟩ <;> (repeat' split) <;> simp [*]

@[simp] theorem endImage_keeps (peatOk : Bool) (c : Cmd) (s : State) :
    (endImage peatOk c s).1.still.sansJobs = s.still.sansJobs ∧
      (s.cells.wf = true → (endImage peatOk c s).1.cells.wf = true) := by
  unfold endImage
  refine ⟨?_, fun w => ?_⟩ <;> split <;> simp [*]

@[simp] theorem loadKey_keeps (c : Cmd) (s : State) :
    (loadKey c s).1.still.sansJobs = s.still.sansJobs ∧ (loadKey c s).1.cells = s.cells := by
  unfold loadKey
  dsimp only
  constructor <;> (repeat' split) <;> simp

@[simp] theorem clearKey_keeps (k : Nat) (s : State) :
    (clearKey k s).still.sansJobs = s.still.sansJobs ∧ (clearKey k s).cells = s.cells := ⟨rfl, rfl⟩

@[simp] theorem admitJob_keeps (j : Nat) (res : List Nat) (s : State) :
    (admitJob j res s).still.sansJobs = s.still.sansJobs ∧ (admitJob j res s).cells = s.cells := ⟨rfl, rfl⟩

/-! The resets. -/

theorem dropAll_restarts (s : State) : Restarts s (dropAll s) ∧ (dropAll s).straps = s.straps ∧ (dropAll s).tap = s.tap := by
  refine ⟨⟨rfl, rfl, rfl, fun w => ?_⟩, rfl, rfl⟩
  rw [cellsWf_iff] at w ⊢
  exact ⟨rfl, w.2.1, rfl, w.2.2.2⟩

theorem coldState_restarts (p : Straps) (s : State) : Restarts { s with straps := p, tap := .reset } (coldState p s) := by
  refine ⟨rfl, rfl, rfl, fun w => ?_⟩
  rw [cellsWf_iff] at w ⊢
  exact ⟨rfl, w.2.1, rfl, rfl⟩

theorem assertReset_cases (s : State) : Keeps s (assertReset s) ∨ Restarts s (assertReset s) := by
  unfold assertReset
  dsimp only
  split
  · exact .inr (dropAll_restarts _).1
  · exact .inl (.of_eq ⟨rfl, rfl⟩)

theorem releaseReset_keeps (cool : BitVec 2) (engines : BitVec 32) (s : State) :
    (releaseReset cool engines s).still = { s.still with straps := { s.straps with cool := cool, engines := engines } } ∧
      (releaseReset cool engines s).cells = s.cells := by
  unfold releaseReset enterS0
  dsimp only
  split <;> exact ⟨rfl, rfl⟩

end Sys2Proof.Machine
end

