-- ==== Sys2Proof/Laws/Commands.lean ====
section
/-! SUPPORT. What each command leaves still, and that the byte memories stay in canonical form: one lemma for each
meaning. -/

namespace Sys2Proof.Machine

theorem execPowerEstimate_keeps (r : PowerReading) (s : State) (t : State) (h : execPowerEstimate r s = .next t) :
    Keeps s t := by
  unfold execPowerEstimate at h
  (repeat' split at h) <;> cases h <;> exact ⟨by simp, fun w => by simp [w]⟩

theorem execMonitorRead_keeps (readings : List MonReading) (s : State) (t : State) (h : execMonitorRead readings s =
    .next t) :
    Keeps s t := by
  unfold execMonitorRead at h
  (repeat' split at h) <;> cases h <;> exact ⟨by simp, fun w => by simp [w]⟩

theorem execOperatingHours_keeps (s : State) (t : State) (h : execOperatingHours s = .next t) :
    Keeps s t := by
  unfold execOperatingHours at h
  (repeat' split at h) <;> cases h <;> exact ⟨by simp, fun w => by simp [w]⟩

theorem execOffsetStep_keeps (i : Fin 225) (s : State) (t : State) (h : execOffsetStep i s = .next t) :
    Keeps s t := by
  unfold execOffsetStep at h
  (repeat' split at h) <;> cases h <;> exact ⟨by simp, fun w => by simp [w]⟩

theorem execCoolConfirm_keeps (m : Fin 8) (s : State) (t : State) (h : execCoolConfirm m s = .next t) :
    Keeps s t := by
  cases h
  exact ⟨runCmd_still specCoolConfirm _ _ (by simp [specCoolConfirm]),
    runCmd_wf specCoolConfirm _ _ (by simp +contextual [specCoolConfirm])⟩

theorem execPowerQuery_keeps (m : Fin 8) (s : State) (t : State) (h : execPowerQuery m s = .next t) :
    Keeps s t := by
  cases h
  exact ⟨runCmd_still specPowerQuery _ _ (by simp [specPowerQuery]),
    runCmd_wf specPowerQuery _ _ (by simp +contextual [specPowerQuery])⟩

theorem execMarginQuery_keeps (m : Fin 8) (s : State) (t : State) (h : execMarginQuery m s = .next t) :
    Keeps s t := by
  cases h
  exact ⟨runCmd_still specMarginQuery _ _ (by simp [specMarginQuery]),
    runCmd_wf specMarginQuery _ _ (by simp +contextual [specMarginQuery])⟩

theorem execMarginReplan_keeps (m : Fin 8) (s : State) (t : State) (h : execMarginReplan m s = .next t) :
    Keeps s t := by
  cases h
  exact ⟨runCmd_still specMarginReplan _ _ (by simp [specMarginReplan]),
    runCmd_wf specMarginReplan _ _ (by simp +contextual [specMarginReplan])⟩

theorem execColdReset_keeps (cool split : BitVec 2) (mods : BitVec 4) (engines : BitVec 32) (s t : State)
    (h : execColdReset cool split mods engines s = .next t) :
    Restarts { s with straps := ⟨cool, split, mods, engines⟩, tap := .reset } t := by
  cases h
  exact coldState_restarts _ s

theorem execPowerDown_keeps (s : State) (t : State) (h : execPowerDown s = .next t) :
    Keeps s t := by
  unfold execPowerDown at h
  (repeat' split at h) <;> cases h <;> exact ⟨by simp, fun w => by simp [w]⟩

theorem execWarmResetAssert_keeps (s t : State) (h : execWarmResetAssert s = .next t) : Keeps s t ∨ Restarts s t := by
  cases h
  split
  · exact assertReset_cases s
  · exact .inl (.refl s)

theorem execWarmResetRelease_keeps (cool : BitVec 2) (engines : BitVec 32) (s t : State)
    (h : execWarmResetRelease cool engines s = .next t) :
    t.still = { s.still with straps := t.straps } ∧ t.cells = s.cells := by
  cases h
  split
  · exact ⟨rfl, rfl⟩
  · have r := releaseReset_keeps cool engines s
    refine ⟨?_, r.2⟩
    rw [r.1]
    exact congrArg (fun x => { s.still with straps := x }) (congrArg Still.straps r.1).symm

theorem cmdReady_hw {k : CmdSpec} {s : State} {m : Nat} (hw : k.hw = true) (h : cmdReady k s m = true) : blockUp s =
    true := by
  unfold cmdReady at h
  split at h
  · simp [hw] at h
    exact h.2
  · cases h

theorem warmReset_restarts (s : State) (h : s.bring.pwrOk = true) : Restarts s (warmReset s) := by
  have a : Restarts s (assertReset s) := by
    unfold assertReset
    rw [if_pos h]
    exact (dropAll_restarts _).1
  unfold warmReset
  have r := releaseReset_keeps s.straps.cool s.straps.engines (assertReset s)
  have m : ∀ c e u, (releaseReset c e u).mbox = u.mbox ∧ (releaseReset c e u).irq = u.irq := fun c e u => by
    unfold releaseReset enterS0
    dsimp only
    split <;> exact ⟨rfl, rfl⟩
  refine ⟨?_, (m _ _ _).1.trans a.2.1, (m _ _ _).2.trans a.2.2.1, fun w => by rw [r.2]; exact a.2.2.2 w⟩
  have e : (assertReset s).straps = s.straps := congrArg Still.straps a.1
  rw [r.1, e, a.1]

theorem keepClamps_idle (m : Nat) (cl : List Clamp) (s : State) (h : s.mbox = State.reset.mbox) : keepClamps m cl s
    = s := by
  have e : updAt s.mbox m (fun b => if b.busy then { b with clamps := cl } else b) = s.mbox := by
    rw [h]
    unfold updAt
    split
    · next v hv =>
      have q : v = Mbox.reset := by
        have := List.mem_of_getElem? hv
        simpa [State.reset] using this
      rw [q]
      rw [q] at hv
      obtain ⟨hl, hx⟩ := List.getElem?_eq_some_iff.1 hv
      show State.reset.mbox.set m Mbox.reset = _
      rw [← hx]
      exact List.set_getElem_self hl
    · rfl
  unfold keepClamps
  rw [e]

theorem runWarm_cases (m : Nat) (s : State) :
    Keeps s (runCmd specWarmReset m s) ∨ Restarts s (runCmd specWarmReset m s) := by
  rcases runCmd_cases specWarmReset m s with e | ⟨b, hr, -, ⟨st, f, e, q⟩ | ⟨body, cl, -, -, q⟩⟩
  · rw [e]
    exact .inl (.refl s)
  · rw [q]
    exact .inl (.of_eq (by simp))
  · have pw : s.bring.pwrOk = true := by
      have up := cmdReady_hw rfl hr
      simp [blockUp] at up
      exact up.1.1
    have w := warmReset_restarts s pw
    rw [q]
    refine .inr ?_
    show Restarts s (keepClamps _ _ (warmReset s))
    rw [keepClamps_idle _ _ _ w.2.1]
    exact w

theorem execWarmReset_keeps (m : Fin 8) (s t : State) (h : execWarmReset m s = .next t) : Keeps s t ∨ Restarts s t := by
  cases h
  exact runWarm_cases m.val s

theorem execBypass_keeps (code : BitVec 8) (tdi : List Bool) (s : State) (t : State) (h : execBypass code tdi s =
    .next t) :
    t.still = { s.still with tap := t.tap } ∧ t.cells = s.cells := by
  unfold execBypass at h
  cases h
  (try split) <;> exact ⟨rfl, rfl⟩

theorem execTapReset_keeps (s : State) (t : State) (h : execTapReset s = .next t) :
    t.still = { s.still with tap := t.tap } ∧ t.cells = s.cells := by
  unfold execTapReset at h
  cases h
  (try split) <;> exact ⟨rfl, rfl⟩

theorem execIdcode_keeps (s : State) (t : State) (h : execIdcode s = .next t) :
    t.still = { s.still with tap := t.tap } ∧ t.cells = s.cells := by
  unfold execIdcode at h
  cases h
  (try split) <;> exact ⟨rfl, rfl⟩

theorem execSamplePreload_keeps (captured preload : List Bool) (s : State) (t : State) (h : execSamplePreload
    captured preload s = .next t) :
    t.still = { s.still with tap := t.tap } ∧ t.cells = s.cells := by
  unfold execSamplePreload at h
  cases h
  (try split) <;> exact ⟨rfl, rfl⟩

theorem execExtest_keeps (scan : ExtestScan) (s : State) (t : State) (h : execExtest scan s =
    .next t) :
    t.still = { s.still with tap := t.tap } ∧ t.cells = s.cells := by
  unfold execExtest at h
  cases h
  (repeat' split) <;> exact ⟨rfl, rfl⟩

theorem execWrapSel_keeps (unit : BitVec 16) (s : State) (t : State) (h : execWrapSel unit s = .next t) :
    t.still = { s.still with tap := t.tap } ∧ t.cells = s.cells := by
  unfold execWrapSel at h
  cases h
  exact tapPrivate_keeps _ _ _ s

theorem execWrapWir_keeps (tdi : List Bool) (s : State) (t : State) (h : execWrapWir tdi s = .next t) :
    t.still = { s.still with tap := t.tap } ∧ t.cells = s.cells := by
  unfold execWrapWir at h
  cases h
  exact tapPrivate_keeps _ _ _ s

theorem execWrapWdr_keeps (tdi : List Bool) (s : State) (t : State) (h : execWrapWdr tdi s = .next t) :
    t.still = { s.still with tap := t.tap } ∧ t.cells = s.cells := by
  unfold execWrapWdr at h
  cases h
  exact tapPrivate_keeps _ _ _ s

theorem execMbistRun_keeps (failing : List Nat) (s : State) (t : State) (h : execMbistRun failing s = .next t) :
    t.still = { s.still with tap := t.tap } ∧ t.cells = s.cells := by
  unfold execMbistRun at h
  cases h
  exact tapPrivate_keeps _ _ _ s

theorem execMbistResult_keeps (s : State) (t : State) (h : execMbistResult s = .next t) :
    t.still = { s.still with tap := t.tap } ∧ t.cells = s.cells := by
  unfold execMbistResult at h
  cases h
  exact tapPrivate_keeps _ _ _ s

theorem execStatusRead_keeps (s : State) (t : State) (h : execStatusRead s = .next t) :
    t.still = { s.still with tap := t.tap } ∧ t.cells = s.cells := by
  unfold execStatusRead at h
  cases h
  (try split) <;> exact ⟨rfl, rfl⟩

theorem execPllLock_keeps (s : State) (t : State) (h : execPllLock s = .next t) :
    Keeps s t := by
  unfold execPllLock at h
  (repeat' split at h) <;> cases h <;> exact ⟨by simp, fun w => by simp [w]⟩

theorem execPllLockTimeout_keeps (s : State) (t : State) (h : execPllLockTimeout s = .next t) :
    Keeps s t := by
  unfold execPllLockTimeout at h
  (repeat' split at h) <;> cases h <;> exact ⟨by simp, fun w => by simp [w]⟩

theorem execMgmtSramTestDone_keeps (pass peatOk : Bool) (s : State) (t : State) (h : execMgmtSramTestDone pass
    peatOk s = .next t) :
    t.still.sansJobs = s.still.sansJobs ∧ (s.cells.wf = true → t.cells.wf = true) := by
  unfold execMgmtSramTestDone at h
  cases h
  refine ⟨?_, fun w => ?_⟩ <;> (repeat' split) <;> simp [*]

theorem execUcieTrainDone_keeps (u : Fin 6) (s : State) (t : State) (h : execUcieTrainDone u s = .next t) :
    t.still.sansJobs = s.still.sansJobs ∧ (s.cells.wf = true → t.cells.wf = true) := by
  unfold execUcieTrainDone at h
  cases h
  refine ⟨?_, fun w => ?_⟩ <;> (repeat' split) <;> simp [*]

theorem execUcieTrainTimeout_keeps (u : Fin 6) (s : State) (t : State) (h : execUcieTrainTimeout u s = .next t) :
    Keeps s t := by
  unfold execUcieTrainTimeout at h
  (repeat' split at h) <;> cases h <;> exact ⟨by simp, fun w => by simp [w]⟩

theorem execImageBegin_keeps (m : Fin 8) (s : State) (t : State) (h : execImageBegin m s = .next t) :
    Keeps s t := by
  cases h
  exact ⟨runCmd_still specImageBegin _ _ (by simp [specImageBegin]),
    runCmd_wf specImageBegin _ _ (by simp +contextual [specImageBegin])⟩

theorem execImageChunk_keeps (m : Fin 8) (s : State) (t : State) (h : execImageChunk m s = .next t) :
    Keeps s t := by
  cases h
  exact ⟨runCmd_still specImageChunk _ _ (by simp [specImageChunk]),
    runCmd_wf specImageChunk _ _ (by simp +contextual [specImageChunk])⟩

theorem execImageEnd_keeps (m : Fin 8) (peatOk : Bool) (s : State) (t : State) (h : execImageEnd m peatOk s = .next
    t) :
    t.still.sansJobs = s.still.sansJobs ∧ (s.cells.wf = true → t.cells.wf = true) := by
  cases h
  exact ⟨runCmd_sans (specImageEnd peatOk) _ _ (by simp [specImageEnd]),
    runCmd_wf (specImageEnd peatOk) _ _ (by simp +contextual [specImageEnd])⟩

theorem execMereSelfTestDone_keeps (failing : List (Nat × Nat)) (s : State) (t : State) (h : execMereSelfTestDone
    failing s = .next t) :
    Keeps s t := by
  unfold execMereSelfTestDone at h
  (repeat' split at h) <;> cases h <;> exact ⟨by simp, fun w => by simp [w]⟩

theorem execStackTrainAttemptDone_keeps (k : Fin 24) (ok : Bool) (found : StackFound) (s : State)
    (t : State) (h : execStackTrainAttemptDone k ok found s = .next t) :
    Keeps s t := by
  unfold execStackTrainAttemptDone at h
  (repeat' split at h) <;> cases h <;> exact ⟨by simp, fun w => by simp [w]⟩

theorem execStackTrainTimeout_keeps (k : Fin 24) (s : State) (t : State) (h : execStackTrainTimeout k s = .next t) :
    Keeps s t := by
  unfold execStackTrainTimeout at h
  (repeat' split at h) <;> cases h <;> exact ⟨by simp, fun w => by simp [w]⟩

theorem execJoinRetryStack_keeps (m : Fin 8) (s : State) (t : State) (h : execJoinRetryStack m s = .next t) :
    Keeps s t := by
  cases h
  exact ⟨runCmd_still specJoinRetryStack _ _ (by simp [specJoinRetryStack]),
    runCmd_wf specJoinRetryStack _ _ (by simp +contextual [specJoinRetryStack])⟩

theorem execS5Entry_keeps (s : State) (t : State) (h : execS5Entry s = .next t) :
    Keeps s t := by
  unfold execS5Entry at h
  (repeat' split at h) <;> cases h <;> exact ⟨by simp, fun w => by simp [w]⟩

theorem execProfileConfirmTimeout_keeps (s : State) (t : State) (h : execProfileConfirmTimeout s = .next t) :
    Keeps s t := by
  unfold execProfileConfirmTimeout at h
  (repeat' split at h) <;> cases h <;> exact ⟨by simp, fun w => by simp [w]⟩

theorem execStackPinRateSwitch_keeps (k : Fin 24) (pause : Nat) (s : State) (t : State) (h : execStackPinRateSwitch
    k pause s = .next t) :
    Keeps s t := by
  unfold execStackPinRateSwitch at h
  (repeat' split at h) <;> cases h <;> exact ⟨by simp, fun w => by simp [w]⟩

theorem execMoverRelock_keeps (mv : Fin 96) (pause : Nat) (s : State) (t : State) (h : execMoverRelock mv pause s =
    .next t) :
    Keeps s t := by
  unfold execMoverRelock at h
  (repeat' split at h) <;> cases h <;> exact ⟨by simp, fun w => by simp [w]⟩

theorem shutDown_restarts (s : State) : Restarts s (shutDown s) := by
  unfold shutDown
  dsimp only
  have k : Keeps s (peatFlush islMgmt 8 (thermal 3 s.power.hot s.power.hotTemp shutdownTemp s)) := .of_eq (by simp)
  generalize peatFlush islMgmt 8 (thermal 3 s.power.hot s.power.hotTemp shutdownTemp s) = u at k
  exact k.restarts ((Keeps.of_eq (t := { u with bring := { u.bring with shutdown := true } }) ⟨rfl, rfl⟩).restarts
    (dropAll_restarts _).1)

theorem thermalAct_cases (s : State) : Keeps s (thermalAct s) ∨ Restarts s (thermalAct s) := by
  unfold thermalAct
  dsimp only
  generalize hu : reached 2 _ _ = u
  have k : Keeps s u := by
    rw [← hu]
    exact Keeps.trans (t := { s with power := { s.power with tT := thermalDemand s.power } }) (.of_eq ⟨rfl, rfl⟩)
      (.of_eq (by simp))
  split
  · exact .inr (k.restarts (shutDown_restarts u))
  · split
    · exact .inl (k.trans (.of_eq (thermal_keeps ..)))
    · exact .inl k

theorem execThermalSensorRead_keeps (temps : List TempReading) (s t : State) (h : execThermalSensorRead temps s =
    .next t) :
    Keeps s t ∨ Restarts s t := by
  cases h
  split
  · have k : Keeps s (noteTemps (sensorReads s temps) s) := .of_eq (by simp)
    dsimp only
    split
    · exact (thermalAct_cases _).imp k.trans k.restarts
    · exact .inl k
  · exact .inl (.refl s)

theorem execHrpNotPresent_keeps (tag : BitVec 5) (_write : Bool) (s : State) (t : State) (h : execHrpNotPresent tag
    _write s = .next t) :
    Keeps s t := by
  unfold execHrpNotPresent at h
  split at h <;> cases h
  · exact .refl s
  · exact .of_eq (hrpRequest_keeps _ tag id s fun _ => ⟨rfl, rfl⟩)

/-- What a write of GO can do: nothing to the still part, an accepted GO, or a warm reset at its acceptance. -/
def Submits (s t : State) : Prop :=
  Keeps s t ∨ (t.still = { s.still with cmdSeq := nextSeq s.cmdSeq } ∧ (s.cells.wf = true → t.cells.wf = true)) ∨ Restarts s t

theorem Keeps.submits {s t u : State} (h : Keeps s t) (k : Submits t u) : Submits s u := by
  have e : t.cmdSeq = s.cmdSeq := congrArg Still.cmdSeq h.1
  refine k.imp h.trans fun k => k.imp (fun g => ⟨?_, fun w => g.2 (h.2 w)⟩) h.restarts
  rw [g.1, h.1, e]

theorem submit_cases (m : Nat) (go : Bool) (s : State) : Submits s (submit m go s) := by
  obtain ⟨a, b, e⟩ := goWrite_keeps m go s
  have k : Keeps (goWrite m go s) (runCmd specResetManagement m (goWrite m go s)) :=
    ⟨runCmd_still specResetManagement _ _ (by simp [specResetManagement, specReset]),
      runCmd_wf specResetManagement _ _ (by simp +contextual [specResetManagement, specReset])⟩
  have w : s.cells.wf = true → (runCmd specResetManagement m (goWrite m go s)).cells.wf = true := fun w =>
    k.2 (by rw [b]; exact w)
  unfold submit
  rcases runWarm_cases m (runCmd specResetManagement m (goWrite m go s)) with r | r
  · rcases e with e | e
    · refine .inl ⟨r.1.trans (k.1.trans ?_), fun h => r.2 (w h)⟩
      rw [a, e]
      rfl
    · refine .inr (.inl ⟨r.1.trans (k.1.trans ?_), fun h => r.2 (w h)⟩)
      rw [a, e]
  · refine .inr (.inr ⟨r.1.trans ?_, r.2.1, r.2.2.1, fun h => r.2.2.2 (w h)⟩)
    exact congrArg (fun x : Still => { State.reset.still with
      pending := x.pending, straps := x.straps, fuses := x.fuses, tap := x.tap }) (k.1.trans a)

theorem writeWord_cases (tag : BitVec 5) (addr : BitVec 21) (be : BitVec 8) (data : Word64) (s : State) :
    Submits s (writeWord tag addr be data s) := by
  unfold writeWord
  split
  case h_3 =>
    rename_i m _
    unfold regWrite
    split
    · exact (Keeps.of_eq (answer_keeps tag hrpOk 0 s)).submits (submit_cases _ _ _)
    · exact .inl (.of_eq (by simp))
  all_goals first
    | exact .inl (.of_eq (regWrite_keeps tag be _ s (by simp)))
    | exact .inl (.of_eq (by simp))

theorem execRegisterWrite_cases (tag : BitVec 5) (addr : BitVec 21) (be : BitVec 8) (data : Word64) (s t : State)
    (h : execRegisterWrite tag addr be data s = .next t) : Submits s t := by
  cases h
  unfold hrpRequest
  (repeat' split) <;> first
    | exact writeWord_cases tag addr be data s
    | exact .inl (.of_eq (by simp))

theorem execMboxCmdAreaWrite_keeps (tag : BitVec 5) (m : Fin 8) (w : Fin 32) (be : BitVec 8) (data : Word64) (s t :
    State)
    (h : execMboxCmdAreaWrite tag m w be data s = .next t) : Keeps s t := by
  cases h
  exact .of_eq (hrpRequest_keeps _ tag _ s (by simp))

theorem execMboxDoneAck_keeps (tag : BitVec 5) (m : Fin 8) (be : BitVec 8) (data : Word64) (s t : State)
    (h : execMboxDoneAck tag m be data s = .next t) : Keeps s t := by
  cases h
  exact .of_eq (hrpRequest_keeps _ tag _ s fun u => regWrite_keeps tag be _ u (by simp))

theorem execCauseClear_keeps (tag : BitVec 5) (addr : BitVec 21) (be : BitVec 8) (data : Word64) (s t : State)
    (h : execCauseClear tag addr be data s = .next t) : Keeps s t := by
  cases h
  split
  · exact .of_eq (hrpRequest_keeps _ tag _ s fun u => regWrite_keeps tag be _ u (by simp))
  · exact .refl s

theorem execRingStatusRead_keeps (tag : BitVec 5) (r : Fin 4096) (word : Bool) (s t : State)
    (h : execRingStatusRead tag r word s = .next t) : Keeps s t := by
  cases h
  exact .of_eq (hrpRequest_keeps _ tag _ s (by simp))

theorem execDoorbell_keeps (tag : BitVec 5) (r : Fin 4096) (be : BitVec 8) (data : Word64) (s t : State)
    (h : execDoorbell tag r be data s = .next t) : Keeps s t := by
  cases h
  exact .of_eq (hrpRequest_keeps _ tag _ s (by simp))

theorem execPeatWindowRead_keeps (tag : BitVec 5) (w : Fin 131072) (env : Env) (s t : State)
    (h : execPeatWindowRead tag w env s = .next t) : Keeps s t := by
  cases h
  exact .of_eq (hrpRequest_keeps _ tag _ s (by simp))

theorem execKeyLoad_keeps (m : Fin 8) (s : State) (t : State) (h : execKeyLoad m s = .next t) :
    t.still.sansJobs = s.still.sansJobs ∧ (s.cells.wf = true → t.cells.wf = true) := by
  cases h
  exact ⟨runCmd_sans specKeyLoad _ _ (by simp [specKeyLoad]),
    runCmd_wf specKeyLoad _ _ (by simp +contextual [specKeyLoad])⟩

theorem execKeyClear_keeps (m : Fin 8) (s : State) (t : State) (h : execKeyClear m s = .next t) :
    t.still.sansJobs = s.still.sansJobs ∧ (s.cells.wf = true → t.cells.wf = true) := by
  cases h
  exact ⟨runCmd_sans specKeyClear _ _ (by simp [specKeyClear]),
    runCmd_wf specKeyClear _ _ (by simp +contextual [specKeyClear])⟩

theorem execTableLoadNew_keeps (m : Fin 8) (s : State) (t : State) (h : execTableLoadNew m s = .next t) :
    Keeps s t := by
  cases h
  exact ⟨runCmd_still specTableNew _ _ (by simp [specTableNew]),
    runCmd_wf specTableNew _ _ (by simp +contextual [specTableNew])⟩

theorem execTableLoadReplace_keeps (m : Fin 8) (s : State) (t : State) (h : execTableLoadReplace m s = .next t) :
    Keeps s t := by
  cases h
  exact ⟨runCmd_still specTableReplace _ _ (by simp [specTableReplace]),
    runCmd_wf specTableReplace _ _ (by simp +contextual [specTableReplace])⟩

theorem execTableLoadFree_keeps (m : Fin 8) (s : State) (t : State) (h : execTableLoadFree m s = .next t) :
    Keeps s t := by
  cases h
  exact ⟨runCmd_still specTableFree _ _ (by simp [specTableFree]),
    runCmd_wf specTableFree _ _ (by simp +contextual [specTableFree])⟩

theorem execTableQuery_keeps (m : Fin 8) (s : State) (t : State) (h : execTableQuery m s = .next t) :
    Keeps s t := by
  cases h
  exact ⟨runCmd_still specTableQuery _ _ (by simp [specTableQuery]),
    runCmd_wf specTableQuery _ _ (by simp +contextual [specTableQuery])⟩

theorem execBaseRegister_keeps (m : Fin 8) (s : State) (t : State) (h : execBaseRegister m s = .next t) :
    Keeps s t := by
  cases h
  exact ⟨runCmd_still specBaseRegister _ _ (by simp [specBaseRegister]),
    runCmd_wf specBaseRegister _ _ (by simp +contextual [specBaseRegister])⟩

theorem execBaseRelease_keeps (m : Fin 8) (s : State) (t : State) (h : execBaseRelease m s = .next t) :
    Keeps s t := by
  cases h
  exact ⟨runCmd_still specBaseRelease _ _ (by simp [specBaseRelease]),
    runCmd_wf specBaseRelease _ _ (by simp +contextual [specBaseRelease])⟩

theorem execNop_keeps (m : Fin 8) (s : State) (t : State) (h : execNop m s = .next t) :
    Keeps s t := by
  cases h
  exact ⟨runCmd_still specNop _ _ (by simp [specNop]), runCmd_wf specNop _ _ (by simp +contextual [specNop])⟩

theorem execIdentify_keeps (m : Fin 8) (s : State) (t : State) (h : execIdentify m s = .next t) :
    Keeps s t := by
  cases h
  exact ⟨runCmd_still specIdentify _ _ (by simp [specIdentify]),
    runCmd_wf specIdentify _ _ (by simp +contextual [specIdentify])⟩

theorem commitSvn_fuses (s : State) :
    s.fuses.svnMin.toNat ≤ (commitSvn s).fuses.svnMin.toNat ∧
      (commitSvn s).fuses = { s.fuses with svnMin := (commitSvn s).fuses.svnMin } := by
  refine ⟨?_, rfl⟩
  unfold commitSvn
  dsimp only
  split <;> omega

theorem SvnRises.of_eq {s t : State} (h : t.still = s.still ∧ t.cells = s.cells) : SvnRises s t := by
  have e : t.fuses = s.fuses := congrArg Still.fuses h.1
  exact ⟨by rw [h.1, e]; rfl, h.2, Nat.le_of_eq (by rw [e]), by rw [e]⟩

theorem SvnRises.after {s t u : State} (h : SvnRises s t) (k : u.still = t.still ∧ u.cells = t.cells) : SvnRises s u
    := by
  have e : u.fuses = t.fuses := congrArg Still.fuses k.1
  exact ⟨by rw [k.1, e]; exact h.1, k.2.trans h.2.1, by rw [e]; exact h.2.2.1, by rw [e]; exact h.2.2.2⟩

theorem commitSvn_rises {s t : State} (h : t.still = s.still ∧ t.cells = s.cells) : SvnRises s (commitSvn t) := by
  have e : t.fuses = s.fuses := congrArg Still.fuses h.1
  have c := commitSvn_fuses t
  rw [e] at c
  refine ⟨?_, h.2, c.1, c.2⟩
  have k : (commitSvn t).still = { t.still with fuses := (commitSvn t).fuses } := rfl
  rw [k, h.1]

theorem execSvnCommit_keeps (m : Fin 8) (s t : State) (h : execSvnCommit m s = .next t) : SvnRises s t := by
  cases h
  rcases runCmd_cases specSvnCommit m.val s with e | ⟨b, -, -, ⟨st, f, e, q⟩ | ⟨body, cl, -, -, q⟩⟩
  · rw [e]
    exact .of_eq ⟨rfl, rfl⟩
  · rw [q]
    exact .of_eq (by simp)
  · rw [q]
    exact ((commitSvn_rises (hexobReads_keeps s)).after (keepClamps_keeps _ _ _)).after (applyReply_keeps _ _ _)

theorem execCorePortMap_keeps (m : Fin 8) (s : State) (t : State) (h : execCorePortMap m s = .next t) :
    Keeps s t := by
  cases h
  exact ⟨runCmd_still specCorePortMap _ _ (by simp [specCorePortMap]),
    runCmd_wf specCorePortMap _ _ (by simp +contextual [specCorePortMap])⟩

theorem admitCmd_keeps (c : Cmd) (s : State) :
    (admitCmd c s).1.still.sansJobs = s.still.sansJobs ∧ (s.cells.wf = true → (admitCmd c s).1.cells.wf = true) := by
  unfold admitCmd
  refine ⟨?_, fun w => ?_⟩ <;> (repeat' split) <;> simp [*]

theorem execJobAdmit_keeps (m : Fin 8) (s : State) (t : State) (h : execJobAdmit m s = .next t) :
    t.still.sansJobs = s.still.sansJobs ∧ (s.cells.wf = true → t.cells.wf = true) := by
  cases h
  exact ⟨runCmd_sans specJobAdmit _ _ fun c t => (admitCmd_keeps c t).1,
    runCmd_wf specJobAdmit _ _ fun c t => (admitCmd_keeps c t).2⟩

theorem execJobQuery_keeps (m : Fin 8) (s : State) (t : State) (h : execJobQuery m s = .next t) :
    Keeps s t := by
  cases h
  exact ⟨runCmd_still specJobQuery _ _ (by simp [specJobQuery]),
    runCmd_wf specJobQuery _ _ (by simp +contextual [specJobQuery])⟩

theorem execStreamAlloc_keeps (m : Fin 8) (s : State) (t : State) (h : execStreamAlloc m s = .next t) :
    Keeps s t := by
  cases h
  exact ⟨runCmd_still specStreamAlloc _ _ (by simp [specStreamAlloc]),
    runCmd_wf specStreamAlloc _ _ (by simp +contextual [specStreamAlloc])⟩

theorem execStreamFree_keeps (m : Fin 8) (s : State) (t : State) (h : execStreamFree m s = .next t) :
    Keeps s t := by
  cases h
  exact ⟨runCmd_still specStreamFree _ _ (by simp [specStreamFree]),
    runCmd_wf specStreamFree _ _ (by simp +contextual [specStreamFree])⟩

theorem execStreamResume_keeps (m : Fin 8) (s : State) (t : State) (h : execStreamResume m s = .next t) :
    Keeps s t := by
  cases h
  exact ⟨runCmd_still specStreamResume _ _ (by simp [specStreamResume]),
    runCmd_wf specStreamResume _ _ (by simp +contextual [specStreamResume])⟩

theorem execStreamAbort_keeps (m : Fin 8) (s : State) (t : State) (h : execStreamAbort m s = .next t) :
    Keeps s t := by
  cases h
  exact ⟨runCmd_still specStreamAbort _ _ (by simp [specStreamAbort]),
    runCmd_wf specStreamAbort _ _ (by simp +contextual [specStreamAbort])⟩

theorem execStreamDisableSet_keeps (m : Fin 8) (s : State) (t : State) (h : execStreamDisableSet m s = .next t) :
    Keeps s t := by
  cases h
  exact ⟨runCmd_still specStreamDisableSet _ _ (by simp [specStreamDisableSet]),
    runCmd_wf specStreamDisableSet _ _ (by simp +contextual [specStreamDisableSet])⟩

theorem execStreamDisableClear_keeps (m : Fin 8) (s : State) (t : State) (h : execStreamDisableClear m s = .next t) :
    Keeps s t := by
  cases h
  exact ⟨runCmd_still specStreamDisableClear _ _ (by simp [specStreamDisableClear]),
    runCmd_wf specStreamDisableClear _ _ (by simp +contextual [specStreamDisableClear])⟩

theorem execRingCreate_keeps (m : Fin 8) (s : State) (t : State) (h : execRingCreate m s = .next t) :
    Keeps s t := by
  cases h
  exact ⟨runCmd_still specRingCreate _ _ (by simp [specRingCreate]),
    runCmd_wf specRingCreate _ _ (by simp +contextual [specRingCreate])⟩

theorem execRingDestroy_keeps (m : Fin 8) (s : State) (t : State) (h : execRingDestroy m s = .next t) :
    Keeps s t := by
  cases h
  exact ⟨runCmd_still specRingDestroy _ _ (by simp [specRingDestroy]),
    runCmd_wf specRingDestroy _ _ (by simp +contextual [specRingDestroy])⟩

theorem execRingQuery_keeps (m : Fin 8) (s : State) (t : State) (h : execRingQuery m s = .next t) :
    Keeps s t := by
  cases h
  exact ⟨runCmd_still specRingQuery _ _ (by simp [specRingQuery]),
    runCmd_wf specRingQuery _ _ (by simp +contextual [specRingQuery])⟩

theorem execRingFetch_keeps (r : Fin 4096) (env : Env) (s : State) (t : State) (h : execRingFetch r env s = .next t) :
    Keeps s t := by
  unfold execRingFetch at h
  (repeat' split at h) <;> cases h <;> exact ⟨by simp, fun w => by simp [w]⟩

theorem execTileTranslate_keeps (slot : Fin 3072) (env : Env) (s : State) (t : State) (h : execTileTranslate slot
    env s = .next t) :
    Keeps s t := by
  unfold execTileTranslate at h
  (repeat' split at h) <;> cases h <;> exact ⟨by simp, fun w => by simp [w]⟩

theorem execSecondLevelLookup_keeps (slot : Fin 3072) (s : State) (t : State) (h : execSecondLevelLookup slot s =
    .next t) :
    Keeps s t := by
  unfold execSecondLevelLookup at h
  (repeat' split at h) <;> cases h <;> exact ⟨by simp, fun w => by simp [w]⟩

theorem execPageWalkStart_keeps (q : Fin 4) (s : State) (t : State) (h : execPageWalkStart q s = .next t) :
    Keeps s t := by
  unfold execPageWalkStart at h
  (repeat' split at h) <;> cases h <;> exact ⟨by simp, fun w => by simp [w]⟩

theorem execWalkTableRead_keeps (q : Fin 4) (env : Env) (evict : Option Nat) (s : State) (t : State) (h :
    execWalkTableRead q env evict s = .next t) :
    Keeps s t := by
  unfold execWalkTableRead at h
  (repeat' split at h) <;> cases h <;> exact ⟨by simp, fun w => by simp [w]⟩

theorem execMoverDrainAck_keeps (mv : Fin 96) (s : State) (t : State) (h : execMoverDrainAck mv s = .next t) :
    Keeps s t := by
  unfold execMoverDrainAck at h
  (repeat' split at h) <;> cases h <;> exact ⟨by simp, fun w => by simp [w]⟩

theorem execRangeMap_keeps (m : Fin 8) (s : State) (t : State) (h : execRangeMap m s = .next t) :
    Keeps s t := by
  cases h
  exact ⟨runCmd_still specRangeMap _ _ (by simp [specRangeMap]),
    runCmd_wf specRangeMap _ _ (by simp +contextual [specRangeMap])⟩

theorem execRangeUnmap_keeps (m : Fin 8) (s : State) (t : State) (h : execRangeUnmap m s = .next t) :
    Keeps s t := by
  cases h
  exact ⟨runCmd_still specRangeUnmap _ _ (by simp [specRangeUnmap]),
    runCmd_wf specRangeUnmap _ _ (by simp +contextual [specRangeUnmap])⟩

theorem execPageRootSet_keeps (m : Fin 8) (s : State) (t : State) (h : execPageRootSet m s = .next t) :
    Keeps s t := by
  cases h
  exact ⟨runCmd_still specPageRootSet _ _ (by simp [specPageRootSet]),
    runCmd_wf specPageRootSet _ _ (by simp +contextual [specPageRootSet])⟩

theorem execWithdraw_keeps (m : Fin 8) (s : State) (t : State) (h : execWithdraw m s = .next t) :
    Keeps s t := by
  cases h
  exact ⟨runCmd_still specWithdraw _ _ (by simp [specWithdraw]),
    runCmd_wf specWithdraw _ _ (by simp +contextual [specWithdraw])⟩

theorem execXlateQuery_keeps (m : Fin 8) (env : Env) (s : State) (t : State) (h : execXlateQuery m env s = .next t) :
    Keeps s t := by
  cases h
  exact ⟨runCmd_still (specXlateQuery env) _ _ (by simp [specXlateQuery]),
    runCmd_wf (specXlateQuery env) _ _ (by simp +contextual [specXlateQuery])⟩

theorem execPortTrainDone_keeps (p : Fin 32) (res : PortTrain) (s : State) (t : State) (h : execPortTrainDone p res
    s = .next t) :
    Keeps s t := by
  unfold execPortTrainDone at h
  (repeat' split at h) <;> cases h <;> exact ⟨by simp, fun w => by simp [w]⟩

theorem execPortTrainTimeout_keeps (p : Fin 32) (s : State) (t : State) (h : execPortTrainTimeout p s = .next t) :
    Keeps s t := by
  unfold execPortTrainTimeout at h
  (repeat' split at h) <;> cases h <;> exact ⟨by simp, fun w => by simp [w]⟩

theorem execLaserEnable_keeps (p : Fin 32) (s : State) (t : State) (h : execLaserEnable p s = .next t) :
    Keeps s t := by
  unfold execLaserEnable at h
  (repeat' split at h) <;> cases h <;> exact ⟨by simp, fun w => by simp [w]⟩

theorem execJoinRetryPort_keeps (m : Fin 8) (s : State) (t : State) (h : execJoinRetryPort m s = .next t) :
    Keeps s t := by
  cases h
  exact ⟨runCmd_still specJoinRetryPort _ _ (by simp [specJoinRetryPort]),
    runCmd_wf specJoinRetryPort _ _ (by simp +contextual [specJoinRetryPort])⟩

theorem execLightWatchExpiry_keeps (p : Fin 32) (s : State) (t : State) (h : execLightWatchExpiry p s = .next t) :
    Keeps s t := by
  unfold execLightWatchExpiry at h
  (repeat' split at h) <;> cases h <;> exact ⟨by simp, fun w => by simp [w]⟩

theorem execCwLosChange_keeps (p : Fin 32) (los : BitVec 8) (s : State) (t : State) (h : execCwLosChange p los s =
    .next t) :
    Keeps s t := by
  unfold execCwLosChange at h
  (repeat' split at h) <;> cases h <;> exact ⟨by simp, fun w => by simp [w]⟩

theorem execTlinkMeasure_keeps (p : Fin 32) (tlink : Word32) (s : State) (t : State) (h : execTlinkMeasure p tlink s
    = .next t) :
    Keeps s t := by
  unfold execTlinkMeasure at h
  (repeat' split at h) <;> cases h <;> exact ⟨by simp, fun w => by simp [w]⟩

theorem execAckTimer_keeps (p : Fin 32) (s : State) (t : State) (h : execAckTimer p s = .next t) :
    Keeps s t := by
  unfold execAckTimer at h
  (repeat' split at h) <;> cases h <;> exact ⟨by simp, fun w => by simp [w]⟩

theorem execUcieRetrain_keeps (u : Fin 6) (ended : Option Bool) (s : State) (t : State) (h : execUcieRetrain u ended s =
    .next t) :
    Keeps s t := by
  unfold execUcieRetrain at h
  (repeat' split at h) <;> cases h <;> exact ⟨by simp, fun w => by simp [w]⟩

theorem execDeviceIdSet_keeps (m : Fin 8) (s : State) (t : State) (h : execDeviceIdSet m s = .next t) :
    Keeps s t := by
  cases h
  exact ⟨runCmd_still specDeviceIdSet _ _ (by simp [specDeviceIdSet]),
    runCmd_wf specDeviceIdSet _ _ (by simp +contextual [specDeviceIdSet])⟩

theorem execRouteSetDevice_keeps (m : Fin 8) (s : State) (t : State) (h : execRouteSetDevice m s = .next t) :
    Keeps s t := by
  cases h
  exact ⟨runCmd_still specRouteDevice _ _ (by simp [specRouteDevice]),
    runCmd_wf specRouteDevice _ _ (by simp +contextual [specRouteDevice])⟩

theorem execRouteSetPort_keeps (m : Fin 8) (s t : State) (h : execRouteSetPort m s = .next t) : Keeps s t := by
  cases h
  exact ⟨runCmd_still specRoutePort _ _ fun c u => foldl_still u _ (by simp) _,
    runCmd_wf specRoutePort _ _ fun c u w => foldl_wf _ (fun t x w => by simp [w]) _ w⟩

theorem execLinkQuery_keeps (m : Fin 8) (s : State) (t : State) (h : execLinkQuery m s = .next t) :
    Keeps s t := by
  cases h
  exact ⟨runCmd_still specLinkQuery _ _ (by simp [specLinkQuery]),
    runCmd_wf specLinkQuery _ _ (by simp +contextual [specLinkQuery])⟩

theorem execLinkProbeAnswer_keeps (m : Fin 8) (cycles : Word32) (s : State) (t : State) (h : execLinkProbeAnswer m
    cycles s = .next t) :
    Keeps s t := by
  unfold execLinkProbeAnswer at h
  (repeat' split at h) <;> cases h <;> exact ⟨by simp, fun w => by simp [w]⟩

theorem execProbeTimeout_keeps (m : Fin 8) (s : State) (t : State) (h : execProbeTimeout m s = .next t) :
    Keeps s t := by
  unfold execProbeTimeout at h
  (repeat' split at h) <;> cases h <;> exact ⟨by simp, fun w => by simp [w]⟩

theorem execBurstBoundary_keeps (mv : Fin 96) (s : State) (t : State) (h : execBurstBoundary mv s = .next t) :
    Keeps s t := by
  unfold execBurstBoundary at h
  (repeat' split at h) <;> cases h <;> exact ⟨by simp, fun w => by simp [w]⟩

theorem execStackRequest_keeps (k : Fin 24) (env : Env) (s : State) (t : State) (h : execStackRequest k env s =
    .next t) :
    Keeps s t := by
  unfold execStackRequest at h
  (repeat' split at h) <;> cases h <;> exact ⟨by simp, fun w => by simp [w]⟩

theorem execStackRefresh_keeps (k : Fin 24) (s : State) (t : State) (h : execStackRefresh k s = .next t) :
    Keeps s t := by
  unfold execStackRefresh at h
  (repeat' split at h) <;> cases h <;> exact ⟨by simp, fun w => by simp [w]⟩

theorem execDfiPhyupdReq_keeps (req : PhyupdReq) (s : State) (t : State) (h : execDfiPhyupdReq req s =
    .next t) :
    Keeps s t := by
  unfold execDfiPhyupdReq at h
  (repeat' split at h) <;> cases h <;> exact ⟨by simp, fun w => by simp [w]⟩

theorem execStkCattrip_keeps (k : Fin 24) (level : Bool) (s : State) (t : State) (h : execStkCattrip k level s =
    .next t) :
    Keeps s t := by
  unfold execStkCattrip at h
  (repeat' split at h) <;> cases h <;> exact ⟨by simp, fun w => by simp [w]⟩

theorem execMereBankAccess_keeps (b : Fin 2048) (env : Env) (s : State) (t : State) (h : execMereBankAccess b env s
    = .next t) :
    Keeps s t := by
  unfold execMereBankAccess at h
  (repeat' split at h) <;> cases h <;> exact ⟨by simp, fun w => by simp [w]⟩

theorem execPatrolScrub_keeps (b : Fin 2048) (env : Env) (s : State) (t : State) (h : execPatrolScrub b env s =
    .next t) :
    Keeps s t := by
  unfold execPatrolScrub at h
  (repeat' split at h) <;> cases h <;> exact ⟨by simp, fun w => by simp [w]⟩

theorem execReadResponse_keeps (req : Nat) (env : Env) (s : State) (t : State) (h : execReadResponse req env s =
    .next t) :
    Keeps s t := by
  unfold execReadResponse at h
  (repeat' split at h) <;> cases h <;> exact ⟨by simp, fun w => by simp [w]⟩

theorem execWriteResponse_keeps (req : Nat) (env : Env) (s : State) (t : State) (h : execWriteResponse req env s =
    .next t) :
    Keeps s t := by
  unfold execWriteResponse at h
  (repeat' split at h) <;> cases h <;> exact ⟨by simp, fun w => by simp [w]⟩

theorem execQntConfigBind_keeps (m : Fin 8) (s : State) (t : State) (h : execQntConfigBind m s = .next t) :
    Keeps s t := by
  cases h
  exact ⟨runCmd_still specQntBind _ _ (by simp [specQntBind]),
    runCmd_wf specQntBind _ _ (by simp +contextual [specQntBind])⟩

theorem execQntConfigUnbind_keeps (m : Fin 8) (s : State) (t : State) (h : execQntConfigUnbind m s = .next t) :
    Keeps s t := by
  cases h
  exact ⟨runCmd_still specQntUnbind _ _ (by simp [specQntUnbind]),
    runCmd_wf specQntUnbind _ _ (by simp +contextual [specQntUnbind])⟩

theorem execScaleLoadLoad_keeps (m : Fin 8) (env : Env) (s : State) (t : State) (h : execScaleLoadLoad m env s =
    .next t) :
    Keeps s t := by
  cases h
  exact ⟨runCmd_still (specScaleLoad env) _ _ (by simp [specScaleLoad]),
    runCmd_wf (specScaleLoad env) _ _ (by simp +contextual [specScaleLoad])⟩

theorem execScaleLoadRelease_keeps (m : Fin 8) (s : State) (t : State) (h : execScaleLoadRelease m s = .next t) :
    Keeps s t := by
  cases h
  exact ⟨runCmd_still specScaleRelease _ _ (by simp [specScaleRelease]),
    runCmd_wf specScaleRelease _ _ (by simp +contextual [specScaleRelease])⟩

theorem execQntStats_keeps (m : Fin 8) (s : State) (t : State) (h : execQntStats m s = .next t) :
    Keeps s t := by
  cases h
  exact ⟨runCmd_still specQntStats _ _ (by simp [specQntStats]),
    runCmd_wf specQntStats _ _ (by simp +contextual [specQntStats])⟩

theorem execQntThreshold_keeps (m : Fin 8) (s : State) (t : State) (h : execQntThreshold m s = .next t) :
    Keeps s t := by
  cases h
  exact ⟨runCmd_still specQntThreshold _ _ (by simp [specQntThreshold]),
    runCmd_wf specQntThreshold _ _ (by simp +contextual [specQntThreshold])⟩

theorem execQntTile_keeps (slot : Fin 3072) (env : Env) (s : State) (t : State) (h : execQntTile slot env s = .next
    t) :
    Keeps s t := by
  unfold execQntTile at h
  (repeat' split at h) <;> cases h <;> exact ⟨by simp, fun w => by simp [w]⟩

theorem execEntryStart_keeps (r : Fin 4096) (s : State) (t : State) (h : execEntryStart r s = .next t) :
    Keeps s t := by
  unfold execEntryStart at h
  (repeat' split at h) <;> cases h <;> exact ⟨by simp, fun w => by simp [w]⟩

theorem execStreamAdmission_keeps (idx : BitVec 20) (s : State) (t : State) (h : execStreamAdmission idx s = .next
    t) :
    Keeps s t := by
  unfold execStreamAdmission at h
  dsimp only at h
  (repeat' split at h) <;> cases h <;> (try split) <;> (try split) <;> (try split) <;> exact ⟨by simp, fun w => by
      simp (maxDischargeDepth := 8) [w]⟩

theorem execContextReadDone_keeps (idx : BitVec 20) (env : Env) (s : State) (t : State) (h : execContextReadDone idx
    env s = .next t) :
    Keeps s t := by
  unfold execContextReadDone at h
  dsimp only at h
  (repeat' split at h) <;> cases h <;> (try split) <;> (try split) <;> (try split) <;> exact ⟨by simp, fun w => by
      simp (maxDischargeDepth := 8) [w]⟩

theorem execSlotGrant_keeps (q : Fin 4) (s : State) (t : State) (h : execSlotGrant q s = .next t) :
    Keeps s t := by
  unfold execSlotGrant at h
  (repeat' split at h) <;> cases h <;> exact ⟨by simp, fun w => by simp [w]⟩

theorem execEntryComplete_keeps (r : Fin 4096) (pos : Nat) (env : Env) (s : State) (t : State) (h :
    execEntryComplete r pos env s = .next t) :
    Keeps s t := by
  unfold execEntryComplete at h
  (repeat' split at h) <;> cases h <;> exact ⟨by simp, fun w => by simp [w]⟩

theorem execGrantRequest_keeps (slot : Fin 3072) (s : State) (t : State) (h : execGrantRequest slot s = .next t) :
    Keeps s t := by
  unfold execGrantRequest at h
  (repeat' split at h) <;> cases h <;> exact ⟨by simp, fun w => by simp [w]⟩

theorem execFillNotice_keeps (mv : Fin 96) (s : State) (t : State) (h : execFillNotice mv s = .next t) :
    Keeps s t := by
  unfold execFillNotice at h
  (repeat' split at h) <;> cases h <;> exact ⟨by simp, fun w => by simp [w]⟩

theorem execGrantAnswer_keeps (p : Fin 64) (buf : Fin 64) (s : State) (t : State) (h : execGrantAnswer p buf s =
    .next t) :
    Keeps s t := by
  unfold execGrantAnswer at h
  (repeat' split at h) <;> cases h <;> exact ⟨by simp, fun w => by simp [w]⟩

theorem execPortDelivery_keeps (p : Fin 64) (buf : Fin 64) (s : State) (t : State) (h : execPortDelivery p buf s =
    .next t) :
    Keeps s t := by
  unfold execPortDelivery at h
  (repeat' split at h) <;> cases h <;> exact ⟨by simp, fun w => by simp [w]⟩

theorem execDueTimeCheck_keeps (p : Fin 64) (s : State) (t : State) (h : execDueTimeCheck p s = .next t) :
    Keeps s t := by
  unfold execDueTimeCheck at h
  (repeat' split at h) <;> cases h <;> exact ⟨by simp, fun w => by simp [w]⟩

theorem execCreditReturn_keeps (p : Fin 64) (core : BitVec 4) (sel : BitVec 3) (cnt : BitVec 4) (s : State) (t :
    State) (h : execCreditReturn p core sel cnt s = .next t) :
    Keeps s t := by
  unfold execCreditReturn at h
  (repeat' split at h) <;> cases h <;> exact ⟨by simp, fun w => by simp [w]⟩

theorem execReturnBeatArrive_keeps (p : Fin 64) (lane : Fin 2) (beat : RtnBeat) (s : State) (t : State) (h :
    execReturnBeatArrive p lane beat s = .next t) :
    Keeps s t := by
  unfold execReturnBeatArrive at h
  (repeat' split at h) <;> cases h <;> exact ⟨by simp, fun w => by simp [w]⟩

theorem execActivation_keeps (p : Fin 64) (lane : Fin 2) (s : State) (t : State) (h : execActivation p lane s =
    .next t) :
    Keeps s t := by
  unfold execActivation at h
  (repeat' split at h) <;> cases h <;> exact ⟨by simp, fun w => by simp [w]⟩

theorem execExpanderCreditRequest_keeps (slot : Fin 3072) (s : State) (t : State) (h : execExpanderCreditRequest
    slot s = .next t) :
    Keeps s t := by
  unfold execExpanderCreditRequest at h
  (repeat' split at h) <;> cases h <;> exact ⟨by simp, fun w => by simp [w]⟩

theorem execExpanderBlock_keeps (x : Fin 32) (env : Env) (s : State) (t : State) (h : execExpanderBlock x env s =
    .next t) :
    Keeps s t := by
  unfold execExpanderBlock at h
  (repeat' split at h) <;> cases h <;> exact ⟨by simp, fun w => by simp [w]⟩

theorem execMereRead_keeps (p : Fin 64) (lane : Fin 2) (s : State) (t : State) (h : execMereRead p lane s = .next t) :
    Keeps s t := by
  unfold execMereRead at h
  (repeat' split at h) <;> cases h <;> exact ⟨by simp, fun w => by simp [w]⟩

theorem execMereWrite_keeps (p : Fin 64) (lane : Fin 2) (s : State) (t : State) (h : execMereWrite p lane s = .next
    t) :
    Keeps s t := by
  unfold execMereWrite at h
  (repeat' split at h) <;> cases h <;> exact ⟨by simp, fun w => by simp [w]⟩

theorem execMereReadData_keeps (p : Fin 64) (idx : Nat) (s : State) (t : State) (h : execMereReadData p idx s =
    .next t) :
    Keeps s t := by
  unfold execMereReadData at h
  (repeat' split at h) <;> cases h <;> exact ⟨by simp, fun w => by simp [w]⟩

theorem execMereAlloc_keeps (m : Fin 8) (s : State) (t : State) (h : execMereAlloc m s = .next t) :
    Keeps s t := by
  cases h
  exact ⟨runCmd_still specMereAlloc _ _ (by simp [specMereAlloc]),
    runCmd_wf specMereAlloc _ _ (by simp +contextual [specMereAlloc])⟩

theorem execMereFree_keeps (m : Fin 8) (s : State) (t : State) (h : execMereFree m s = .next t) :
    Keeps s t := by
  cases h
  exact ⟨runCmd_still specMereFree _ _ (by simp [specMereFree]),
    runCmd_wf specMereFree _ _ (by simp +contextual [specMereFree])⟩

theorem execMessage_keeps (p : Fin 64) (lane : Fin 2) (env : Env) (s : State) (t : State) (h : execMessage p lane
    env s = .next t) :
    Keeps s t := by
  unfold execMessage at h
  (repeat' split at h) <;> cases h <;> exact ⟨by simp, fun w => by simp [w]⟩

theorem execContribute_keeps (p : Fin 64) (lane : Fin 2) (env : Env) (s : State) (t : State) (h : execContribute p
    lane env s = .next t) :
    Keeps s t := by
  unfold execContribute at h
  (repeat' split at h) <;> cases h <;> exact ⟨by simp, fun w => by simp [w]⟩

theorem execRearm_keeps (p : Fin 64) (lane : Fin 2) (s : State) (t : State) (h : execRearm p lane s = .next t) :
    Keeps s t := by
  unfold execRearm at h
  (repeat' split at h) <;> cases h <;> exact ⟨by simp, fun w => by simp [w]⟩

theorem execRemoteMessage_keeps (p : Fin 32) (env : Env) (s : State) (t : State) (h : execRemoteMessage p env s =
    .next t) :
    Keeps s t := by
  unfold execRemoteMessage at h
  (repeat' split at h) <;> cases h <;> exact ⟨by simp, fun w => by simp [w]⟩

theorem execAreaZeroingDone_keeps (queue : BitVec 16) (s : State) (t : State) (h : execAreaZeroingDone queue s =
    .next t) :
    Keeps s t := by
  unfold execAreaZeroingDone at h
  (repeat' split at h) <;> cases h <;> exact ⟨by simp, fun w => by simp [w]⟩

theorem execCombineComplete_keeps (queue : BitVec 16) (s : State) (t : State) (h : execCombineComplete queue s =
    .next t) :
    Keeps s t := by
  unfold execCombineComplete at h
  dsimp only at h
  (repeat' split at h) <;> cases h <;> (try split) <;> (try split) <;> (try split) <;> exact ⟨by simp, fun w => by
      simp (maxDischargeDepth := 8) [w]⟩

theorem execMessageDelivery_keeps (core : Fin 1024) (env : Env) (s : State) (t : State) (h : execMessageDelivery
    core env s = .next t) :
    Keeps s t := by
  unfold execMessageDelivery at h
  (repeat' split at h) <;> cases h <;> exact ⟨by simp, fun w => by simp [w]⟩

theorem execQueueCreate_keeps (m : Fin 8) (s : State) (t : State) (h : execQueueCreate m s = .next t) :
    Keeps s t := by
  cases h
  exact ⟨runCmd_still specQueueCreate _ _ (by simp [specQueueCreate]),
    runCmd_wf specQueueCreate _ _ (by simp +contextual [specQueueCreate])⟩

theorem execCombineCreate_keeps (m : Fin 8) (s : State) (t : State) (h : execCombineCreate m s = .next t) :
    Keeps s t := by
  cases h
  exact ⟨runCmd_still specCombineCreate _ _ (by simp [specCombineCreate]),
    runCmd_wf specCombineCreate _ _ (by simp +contextual [specCombineCreate])⟩

theorem execQueueClose_keeps (m : Fin 8) (s : State) (t : State) (h : execQueueClose m s = .next t) :
    Keeps s t := by
  cases h
  exact ⟨runCmd_still specQueueClose _ _ (by simp [specQueueClose]),
    runCmd_wf specQueueClose _ _ (by simp +contextual [specQueueClose])⟩

theorem execQueueResetReader_keeps (m : Fin 8) (s : State) (t : State) (h : execQueueResetReader m s = .next t) :
    Keeps s t := by
  cases h
  exact ⟨runCmd_still specQueueResetReader _ _ (by simp [specQueueResetReader]),
    runCmd_wf specQueueResetReader _ _ (by simp +contextual [specQueueResetReader])⟩

theorem execQueueQuery_keeps (m : Fin 8) (s : State) (t : State) (h : execQueueQuery m s = .next t) :
    Keeps s t := by
  cases h
  exact ⟨runCmd_still specQueueQuery _ _ (by simp [specQueueQuery]),
    runCmd_wf specQueueQuery _ _ (by simp +contextual [specQueueQuery])⟩

theorem execCwOeFault_keeps (p : Fin 32) (faultN : Bool) (s : State) (t : State) (h : execCwOeFault p faultN s =
    .next t) :
    Keeps s t := by
  unfold execCwOeFault at h
  (repeat' split at h) <;> cases h <;> exact ⟨by simp, fun w => by simp [w]⟩

theorem execLossOfSignal_keeps (p : Fin 32) (s : State) (t : State) (h : execLossOfSignal p s = .next t) :
    Keeps s t := by
  unfold execLossOfSignal at h
  (repeat' split at h) <;> cases h <;> exact ⟨by simp, fun w => by simp [w]⟩

theorem execReplayExhausted_keeps (p : Fin 32) (s : State) (t : State) (h : execReplayExhausted p s = .next t) :
    Keeps s t := by
  unfold execReplayExhausted at h
  (repeat' split at h) <;> cases h <;> exact ⟨by simp, fun w => by simp [w]⟩

theorem execRetry_keeps (p : Fin 32) (seq : BitVec 12) (s : State) (t : State) (h : execRetry p seq s = .next t) :
    Keeps s t := by
  unfold execRetry at h
  (repeat' split at h) <;> cases h <;> exact ⟨by simp, fun w => by simp [w]⟩

theorem execRetryResendTimer_keeps (p : Fin 32) (s : State) (t : State) (h : execRetryResendTimer p s = .next t) :
    Keeps s t := by
  unfold execRetryResendTimer at h
  (repeat' split at h) <;> cases h <;> exact ⟨by simp, fun w => by simp [w]⟩

theorem execControlFlit_keeps (p : Fin 32) (flit : BitVec 2048) (bad : Bool) (s : State) (t : State) (h :
    execControlFlit p flit bad s = .next t) :
    Keeps s t := by
  unfold execControlFlit at h
  (repeat' split at h) <;> cases h <;> exact ⟨by simp, fun w => by simp [w]⟩

theorem execFlitReceive_keeps (p : Fin 32) (flit : BitVec 2048) (codewordBad : Bool) (s : State) (t : State) (h :
    execFlitReceive p flit codewordBad s = .next t) :
    Keeps s t := by
  unfold execFlitReceive at h
  (repeat' split at h) <;> cases h <;> exact ⟨by simp, fun w => by simp [w]⟩

theorem execFlitForward_keeps (p : Fin 32) (s : State) (t : State) (h : execFlitForward p s = .next t) :
    Keeps s t := by
  unfold execFlitForward at h
  (repeat' split at h) <;> cases h <;> exact ⟨by simp, fun w => by simp [w]⟩

theorem execWindowOpen_keeps (m : Fin 8) (s : State) (t : State) (h : execWindowOpen m s = .next t) :
    Keeps s t := by
  cases h
  exact ⟨runCmd_still specWindowOpen _ _ (by simp [specWindowOpen]),
    runCmd_wf specWindowOpen _ _ (by simp +contextual [specWindowOpen])⟩

theorem execWindowClose_keeps (m : Fin 8) (s : State) (t : State) (h : execWindowClose m s = .next t) :
    Keeps s t := by
  cases h
  exact ⟨runCmd_still specWindowClose _ _ (by simp [specWindowClose]),
    runCmd_wf specWindowClose _ _ (by simp +contextual [specWindowClose])⟩

theorem execWindowCloseDrained_keeps (w : Fin 4096) (s : State) (t : State) (h : execWindowCloseDrained w s = .next
    t) :
    Keeps s t := by
  unfold execWindowCloseDrained at h
  (repeat' split at h) <;> cases h <;> exact ⟨by simp, fun w => by simp [w]⟩

theorem execWindowQuery_keeps (m : Fin 8) (s : State) (t : State) (h : execWindowQuery m s = .next t) :
    Keeps s t := by
  cases h
  exact ⟨runCmd_still specWindowQuery _ _ (by simp [specWindowQuery]),
    runCmd_wf specWindowQuery _ _ (by simp +contextual [specWindowQuery])⟩

theorem execRemoteWrite_keeps (p : Fin 32) (s : State) (t : State) (h : execRemoteWrite p s = .next t) :
    Keeps s t := by
  unfold execRemoteWrite at h
  (repeat' split at h) <;> cases h <;> exact ⟨by simp, fun w => by simp [w]⟩

theorem execRemoteWriteLanded_keeps (p : Fin 32) (env : Env) (s : State) (t : State) (h : execRemoteWriteLanded p
    env s = .next t) :
    Keeps s t := by
  unfold execRemoteWriteLanded at h
  (repeat' split at h) <;> cases h <;> exact ⟨by simp, fun w => by simp [w]⟩

theorem execRemoteRead_keeps (p : Fin 32) (env : Env) (s : State) (t : State) (h : execRemoteRead p env s = .next t) :
    Keeps s t := by
  unfold execRemoteRead at h
  (repeat' split at h) <;> cases h <;> exact ⟨by simp, fun w => by simp [w]⟩

theorem execRemoteResponse_keeps (p : Fin 32) (s : State) (t : State) (h : execRemoteResponse p s = .next t) :
    Keeps s t := by
  unfold execRemoteResponse at h
  (repeat' split at h) <;> cases h <;> exact ⟨by simp, fun w => by simp [w]⟩

theorem execRemoteTimeout_keeps (p : Fin 32) (reqTag : BitVec 16) (s : State) (t : State) (h : execRemoteTimeout p
    reqTag s = .next t) :
    Keeps s t := by
  unfold execRemoteTimeout at h
  (repeat' split at h) <;> cases h <;> exact ⟨by simp, fun w => by simp [w]⟩

theorem execJobRelease_keeps (m : Fin 8) (s : State) (t : State) (h : execJobRelease m s = .next t) :
    t.still.sansJobs = s.still.sansJobs ∧ (s.cells.wf = true → t.cells.wf = true) := by
  cases h
  have k := runCmd_sans specJobRelease m.val s (by simp [specJobRelease])
  exact ⟨(advanceRelease_keeps _ _).1.trans k, fun w => (advanceRelease_keeps _ _).2 (runCmd_wf specJobRelease _ _
      (by simp +contextual [specJobRelease]) w)⟩

theorem execMirrorPair_keeps (m : Fin 8) (s : State) (t : State) (h : execMirrorPair m s = .next t) :
    Keeps s t := by
  cases h
  exact ⟨runCmd_still specMirrorPair _ _ (by simp [specMirrorPair]),
    runCmd_wf specMirrorPair _ _ (by simp +contextual [specMirrorPair])⟩

theorem execMirrorUnpair_keeps (m : Fin 8) (s : State) (t : State) (h : execMirrorUnpair m s = .next t) :
    t.still.sansJobs = s.still.sansJobs ∧ (s.cells.wf = true → t.cells.wf = true) := by
  cases h
  have k := runCmd_sans specMirrorUnpair m.val s fun c u => (unpairAct_keeps u).1
  have w := runCmd_wf specMirrorUnpair m.val s fun c u => (unpairAct_keeps u).2
  split
  · exact ⟨(advanceUnpair_keeps _ _).1.trans k, fun h => (advanceUnpair_keeps _ _).2 (w h)⟩
  · exact ⟨k, w⟩

theorem execPairEnd_keeps (s : State) (t : State) (h : execPairEnd s = .next t) :
    Keeps s t := by
  unfold execPairEnd at h
  (repeat' split at h) <;> cases h <;> exact ⟨by simp, fun w => by simp [w]⟩

theorem execHeartbeatReceive_keeps (withy : Bool) (hb : Heartbeat) (s : State) (t : State) (h : execHeartbeatReceive
    withy hb s = .next t) :
    t.still.sansJobs = s.still.sansJobs ∧ (s.cells.wf = true → t.cells.wf = true) := by
  unfold execHeartbeatReceive at h
  (repeat' split at h) <;> cases h <;> exact ⟨by simp, fun w => by simp [w]⟩

theorem execHeartbeatSend_keeps (s : State) (t : State) (h : execHeartbeatSend s = .next t) :
    Keeps s t := by
  unfold execHeartbeatSend at h
  (repeat' split at h) <;> cases h <;> exact ⟨by simp, fun w => by simp [w]⟩

theorem execPathLoss_keeps (withy : Bool) (s : State) (t : State) (h : execPathLoss withy s = .next t) :
    Keeps s t := by
  unfold execPathLoss at h
  (repeat' split at h) <;> cases h <;> exact ⟨by simp, fun w => by simp [w]⟩

theorem execMirrorPromote_keeps (m : Fin 8) (s : State) (t : State) (h : execMirrorPromote m s = .next t) :
    Keeps s t := by
  cases h
  exact ⟨runCmd_still specMirrorPromote _ _ (by simp [specMirrorPromote]),
    runCmd_wf specMirrorPromote _ _ (by simp +contextual [specMirrorPromote])⟩

theorem execMirrorQuery_keeps (m : Fin 8) (s : State) (t : State) (h : execMirrorQuery m s = .next t) :
    Keeps s t := by
  cases h
  exact ⟨runCmd_still specMirrorQuery _ _ (by simp [specMirrorQuery]),
    runCmd_wf specMirrorQuery _ _ (by simp +contextual [specMirrorQuery])⟩

theorem execMirrorItemApply_keeps (item : MirrorItem) (s : State) (t : State) (h : execMirrorItemApply item s =
    .next t) :
    t.still.sansJobs = s.still.sansJobs ∧ (s.cells.wf = true → t.cells.wf = true) := by
  unfold execMirrorItemApply at h
  (repeat' split at h) <;> cases h <;> exact ⟨by simp, fun w => by simp [w]⟩

theorem execMirrorAck_keeps (s : State) (t : State) (h : execMirrorAck s = .next t) :
    Keeps s t := by
  unfold execMirrorAck at h
  (repeat' split at h) <;> cases h <;> exact ⟨by simp, fun w => by simp [w]⟩

theorem execUnitWedged_keeps (f : Fn) (s t : State) (h : execUnitWedged f s = .next t) :
    t.still = { s.still with wedged := t.wedged } ∧ t.cells = s.cells := by
  cases h
  split
  · have e := markWedged_still f (injEvent [0x28] (fnCode f) (fnLevel f) (fnIsland f) s)
    have w := congrArg Still.wedged e
    have i := injEvent_keeps [0x28] (fnCode f) (fnLevel f) (fnIsland f) s
    refine ⟨?_, by simp⟩
    rw [e, i.1]
    exact congrArg (fun x => { s.still with wedged := x }) w.symm
  · exact ⟨rfl, rfl⟩

theorem execFunctionResetMover_keeps (m : Fin 8) (s : State) (t : State) (h : execFunctionResetMover m s = .next t) :
    Keeps s t := by
  cases h
  exact ⟨runCmd_still specResetMover _ _ (by simp [specResetMover]),
    runCmd_wf specResetMover _ _ (by simp +contextual [specResetMover])⟩

theorem execFunctionResetExpander_keeps (m : Fin 8) (s : State) (t : State) (h : execFunctionResetExpander m s =
    .next t) :
    Keeps s t := by
  cases h
  exact ⟨runCmd_still specResetExpander _ _ (by simp [specResetExpander, specReset]),
    runCmd_wf specResetExpander _ _ (by simp +contextual [specResetExpander, specReset])⟩

theorem execFunctionResetQuantiser_keeps (m : Fin 8) (s : State) (t : State) (h : execFunctionResetQuantiser m s =
    .next t) :
    Keeps s t := by
  cases h
  exact ⟨runCmd_still specResetQuantiser _ _ (by simp [specResetQuantiser, specReset]),
    runCmd_wf specResetQuantiser _ _ (by simp +contextual [specResetQuantiser, specReset])⟩

theorem execFunctionResetQueueSlice_keeps (m : Fin 8) (s : State) (t : State) (h : execFunctionResetQueueSlice m s =
    .next t) :
    Keeps s t := by
  cases h
  exact ⟨runCmd_still specResetSlice _ _ (by simp [specResetSlice, specReset]),
    runCmd_wf specResetSlice _ _ (by simp +contextual [specResetSlice, specReset])⟩

theorem execFunctionResetCauseway_keeps (m : Fin 8) (s : State) (t : State) (h : execFunctionResetCauseway m s =
    .next t) :
    Keeps s t := by
  cases h
  exact ⟨runCmd_still specResetCauseway _ _ (by simp [specResetCauseway, specReset]),
    runCmd_wf specResetCauseway _ _ (by simp +contextual [specResetCauseway, specReset])⟩

theorem execFunctionResetTranslation_keeps (m : Fin 8) (s : State) (t : State) (h : execFunctionResetTranslation m s
    = .next t) :
    Keeps s t := by
  cases h
  exact ⟨runCmd_still specResetTranslation _ _ (by simp [specResetTranslation, specReset]),
    runCmd_wf specResetTranslation _ _ (by simp +contextual [specResetTranslation, specReset])⟩

theorem execFunctionResetMere_keeps (m : Fin 8) (s : State) (t : State) (h : execFunctionResetMere m s = .next t) :
    Keeps s t := by
  cases h
  exact ⟨runCmd_still specResetMere _ _ (by simp [specResetMere, specReset]),
    runCmd_wf specResetMere _ _ (by simp +contextual [specResetMere, specReset])⟩

theorem execFunctionResetManagement_keeps (m : Fin 8) (s : State) (t : State) (h : execFunctionResetManagement m s =
    .next t) :
    Keeps s t := by
  cases h
  exact ⟨runCmd_still specResetManagement _ _ (by simp [specResetManagement, specReset]),
    runCmd_wf specResetManagement _ _ (by simp +contextual [specResetManagement, specReset])⟩

theorem execFunctionResetDone_keeps (f : Fn) (s t : State) (h : execFunctionResetDone f s = .next t) :
    t.still = { s.still with wedged := t.wedged } ∧ (s.cells.wf = true → t.cells.wf = true) := by
  cases h
  split
  · next r _ =>
    split
    · have e := endReset_still r s
      refine ⟨?_, endReset_wf r s⟩
      rw [e]
      exact congrArg (fun x => { s.still with wedged := x }) (congrArg Still.wedged e).symm
    · exact ⟨rfl, id⟩
  · exact ⟨rfl, id⟩

theorem execPeatWriterTake_keeps (s : State) (t : State) (h : execPeatWriterTake s = .next t) :
    Keeps s t := by
  unfold execPeatWriterTake at h
  (repeat' split at h) <;> cases h <;> exact ⟨by simp, fun w => by simp [w]⟩

theorem execPeatStatus_keeps (m : Fin 8) (s : State) (t : State) (h : execPeatStatus m s = .next t) :
    Keeps s t := by
  cases h
  exact ⟨runCmd_still specPeatStatus _ _ (by simp [specPeatStatus]),
    runCmd_wf specPeatStatus _ _ (by simp +contextual [specPeatStatus])⟩

theorem execCounterRead_keeps (m : Fin 8) (s : State) (t : State) (h : execCounterRead m s = .next t) :
    Keeps s t := by
  cases h
  exact ⟨runCmd_still specCounterRead _ _ (by simp [specCounterRead]),
    runCmd_wf specCounterRead _ _ (by simp +contextual [specCounterRead])⟩

theorem execInjectArm_keeps (m : Fin 8) (s : State) (t : State) (h : execInjectArm m s = .next t) :
    Keeps s t := by
  cases h
  exact ⟨runCmd_still specInjectArm _ _ (by simp [specInjectArm]),
    runCmd_wf specInjectArm _ _ (by simp +contextual [specInjectArm])⟩

theorem execInjectDisarm_keeps (m : Fin 8) (s : State) (t : State) (h : execInjectDisarm m s = .next t) :
    Keeps s t := by
  cases h
  exact ⟨runCmd_still specInjectDisarm _ _ (by simp [specInjectDisarm]),
    runCmd_wf specInjectDisarm _ _ (by simp +contextual [specInjectDisarm])⟩

theorem execInjectQuery_keeps (m : Fin 8) (s : State) (t : State) (h : execInjectQuery m s = .next t) :
    Keeps s t := by
  cases h
  exact ⟨runCmd_still specInjectQuery _ _ (by simp [specInjectQuery]),
    runCmd_wf specInjectQuery _ _ (by simp +contextual [specInjectQuery])⟩

theorem execStreamQuery_keeps (m : Fin 8) (s : State) (t : State) (h : execStreamQuery m s = .next t) :
    Keeps s t := by
  cases h
  exact ⟨runCmd_still specStreamQuery _ _ (by simp [specStreamQuery]),
    runCmd_wf specStreamQuery _ _ (by simp +contextual [specStreamQuery])⟩

end Sys2Proof.Machine
end

