-- ==== Sys2Proof/Laws/Step.lean ====
section
/-! SUPPORT. Once for all commands: what any one of them does to what hardly any writes. -/

namespace Sys2Proof.Machine

open Sys2Proof

/-- The rows of test access that shift (R75). -/
def Instr.shifts : Instr → Prop := fun c =>
  c ∈ [.tapReset, .idcode, .mbistResult, .statusRead] ∨ (∃ code tdi, c = .bypass code tdi) ∨
    (∃ a b, c = .samplePreload a b) ∨ (∃ a, c = .extest a) ∨ (∃ u, c = .wrapSel u) ∨ (∃ a, c = .wrapWir a) ∨
    (∃ a, c = .wrapWdr a) ∨ ∃ a, c = .mbistRun a

/-- What a command does to the still part of the state and to byte memory. -/
inductive Moves (c : Instr) (s t : State) : Prop where
  | keeps (h : t.still.sansJobs = s.still.sansJobs) (w : s.cells.wf = true → t.cells.wf = true)
  | restarts (h : Restarts s t)
  | cold (cool split : BitVec 2) (mods : BitVec 4) (engines : BitVec 32) (e : c = .coldReset cool split mods engines)
      (h : Restarts { s with straps := ⟨cool, split, mods, engines⟩, tap := .reset } t)
  | release (cool : BitVec 2) (engines : BitVec 32) (e : c = .warmResetRelease cool engines) (l : s.bring.rstN = false)
      (h : t.still = { s.still with straps := { s.straps with cool := cool, engines := engines } }) (w : t.cells = s.cells)
  | shifts (e : Instr.shifts c) (h : t.still = { s.still with tap := t.tap }) (w : t.cells = s.cells)
  | go (tag : BitVec 5) (addr : BitVec 21) (be : BitVec 8) (data : Word64) (e : c = .registerWrite tag addr be data)
      (h : t.still = { s.still with cmdSeq := nextSeq s.cmdSeq }) (w : s.cells.wf = true → t.cells.wf = true)
  | svn (m : Fin 8) (e : c = .svnCommit m) (h : SvnRises s t)
  | wedges (f : Fn) (e : c = .unitWedged f) (h : t.still = { s.still with wedged := s.wedged ++ [f] }) (w : t.cells = s.cells)
  | unwedges (f : Fn) (e : c = .functionResetDone f)
      (h : t.still = { s.still with wedged := s.wedged.filter (· != f) }) (w : s.cells.wf = true → t.cells.wf = true)

theorem Keeps.moves {c : Instr} {s t : State} (h : Keeps s t) : Moves c s t :=
  .keeps (congrArg Still.sansJobs h.1) h.2

theorem moves_of {c : Instr} {s t : State} (h : Keeps s t ∨ Restarts s t) : Moves c s t :=
  h.elim Keeps.moves .restarts

theorem execWarmResetRelease_moves (cool : BitVec 2) (engines : BitVec 32) (s t : State)
    (h : execWarmResetRelease cool engines s = .next t) : Moves (.warmResetRelease cool engines) s t := by
  cases h
  split
  · exact (Keeps.refl s).moves
  · next l =>
    have r := releaseReset_keeps cool engines s
    exact .release cool engines rfl (by simpa using l) r.1 r.2

theorem execRegisterWrite_moves (tag : BitVec 5) (addr : BitVec 21) (be : BitVec 8) (data : Word64) (s t : State)
    (h : execRegisterWrite tag addr be data s = .next t) : Moves (.registerWrite tag addr be data) s t := by
  obtain k | k | k := execRegisterWrite_cases tag addr be data s t h
  · exact k.moves
  · exact .go tag addr be data rfl k.1 k.2
  · exact .restarts k

theorem execUnitWedged_moves (f : Fn) (s t : State) (h : execUnitWedged f s = .next t) : Moves (.unitWedged f) s t := by
  have b := (execUnitWedged_keeps f s t h).2
  cases h
  split at b
  · next l =>
    rw [if_pos l]
    refine .wedges f rfl ?_ b
    have i := (injEvent_keeps [0x28] (fnCode f) (fnLevel f) (fnIsland f) s).1
    rw [markWedged_still, i]
    exact congrArg (fun x : Still => { s.still with wedged := x.wedged ++ [f] }) i
  · next l =>
    rw [if_neg l]
    exact (Keeps.refl s).moves

theorem execFunctionResetDone_moves (f : Fn) (s t : State) (h : execFunctionResetDone f s = .next t) :
    Moves (.functionResetDone f) s t := by
  have b := (execFunctionResetDone_keeps f s t h).2
  cases h
  split
  · next r q =>
    have e : r.fn = f := by simpa using List.find?_some q
    split
    · next l =>
      simp only [q, if_pos l] at b
      refine .unwedges f rfl ?_ b
      rw [endReset_still, e]
    · exact (Keeps.refl s).moves
  · exact (Keeps.refl s).moves

theorem exec_moves (c : Instr) (s t : State) (h : exec c s = .next t) : Moves c s t := by
  cases c with
  | coldReset _ _ _ _ => exact .cold _ _ _ _ rfl (execColdReset_keeps _ _ _ _ _ _ h)
  | powerDown => exact (execPowerDown_keeps _ _ h).moves
  | warmResetAssert => exact moves_of (execWarmResetAssert_keeps _ _ h)
  | warmResetRelease _ _ => exact (execWarmResetRelease_moves _ _ s t h)
  | tapReset => exact .shifts (by simp [Instr.shifts]) (execTapReset_keeps _ _ h).1 (execTapReset_keeps _ _ h).2
  | bypass _ _ => exact .shifts (by simp [Instr.shifts]) (execBypass_keeps _ _ _ _ h).1 (execBypass_keeps _ _ _ _ h).2
  | idcode => exact .shifts (by simp [Instr.shifts]) (execIdcode_keeps _ _ h).1 (execIdcode_keeps _ _ h).2
  | samplePreload _ _ => exact .shifts (by simp [Instr.shifts]) (execSamplePreload_keeps _ _ _ _ h).1 (execSamplePreload_keeps _ _ _ _ h).2
  | extest _ => exact .shifts (by simp [Instr.shifts]) (execExtest_keeps _ _ _ h).1 (execExtest_keeps _ _ _ h).2
  | wrapSel _ => exact .shifts (by simp [Instr.shifts]) (execWrapSel_keeps _ _ _ h).1 (execWrapSel_keeps _ _ _ h).2
  | wrapWir _ => exact .shifts (by simp [Instr.shifts]) (execWrapWir_keeps _ _ _ h).1 (execWrapWir_keeps _ _ _ h).2
  | wrapWdr _ => exact .shifts (by simp [Instr.shifts]) (execWrapWdr_keeps _ _ _ h).1 (execWrapWdr_keeps _ _ _ h).2
  | mbistRun _ => exact .shifts (by simp [Instr.shifts]) (execMbistRun_keeps _ _ _ h).1 (execMbistRun_keeps _ _ _ h).2
  | mbistResult => exact .shifts (by simp [Instr.shifts]) (execMbistResult_keeps _ _ h).1 (execMbistResult_keeps _ _ h).2
  | statusRead => exact .shifts (by simp [Instr.shifts]) (execStatusRead_keeps _ _ h).1 (execStatusRead_keeps _ _ h).2
  | pllLock => exact (execPllLock_keeps _ _ h).moves
  | pllLockTimeout => exact (execPllLockTimeout_keeps _ _ h).moves
  | mgmtSramTestDone _ _ => exact .keeps (execMgmtSramTestDone_keeps _ _ _ _ h).1 (execMgmtSramTestDone_keeps _ _ _ _ h).2
  | ucieTrainDone _ => exact .keeps (execUcieTrainDone_keeps _ _ _ h).1 (execUcieTrainDone_keeps _ _ _ h).2
  | ucieTrainTimeout _ => exact (execUcieTrainTimeout_keeps _ _ _ h).moves
  | imageBegin _ => exact (execImageBegin_keeps _ _ _ h).moves
  | imageChunk _ => exact (execImageChunk_keeps _ _ _ h).moves
  | imageEnd _ _ => exact .keeps (execImageEnd_keeps _ _ _ _ h).1 (execImageEnd_keeps _ _ _ _ h).2
  | mereSelfTestDone _ => exact (execMereSelfTestDone_keeps _ _ _ h).moves
  | stackTrainAttemptDone _ _ _ => exact (execStackTrainAttemptDone_keeps _ _ _ _ _ h).moves
  | stackTrainTimeout _ => exact (execStackTrainTimeout_keeps _ _ _ h).moves
  | portTrainDone _ _ => exact (execPortTrainDone_keeps _ _ _ _ h).moves
  | portTrainTimeout _ => exact (execPortTrainTimeout_keeps _ _ _ h).moves
  | laserEnable _ => exact (execLaserEnable_keeps _ _ _ h).moves
  | s5Entry => exact (execS5Entry_keeps _ _ h).moves
  | profileConfirmTimeout => exact (execProfileConfirmTimeout_keeps _ _ h).moves
  | stackPinRateSwitch _ _ => exact (execStackPinRateSwitch_keeps _ _ _ _ h).moves
  | moverRelock _ _ => exact (execMoverRelock_keeps _ _ _ _ h).moves
  | hrpNotPresent _ _ => exact (execHrpNotPresent_keeps _ _ _ _ h).moves
  | registerWrite _ _ _ _ => exact execRegisterWrite_moves _ _ _ _ s t h
  | mboxCmdAreaWrite _ _ _ _ _ => exact (execMboxCmdAreaWrite_keeps _ _ _ _ _ _ _ h).moves
  | mboxDoneAck _ _ _ _ => exact (execMboxDoneAck_keeps _ _ _ _ _ _ h).moves
  | causeClear _ _ _ _ => exact (execCauseClear_keeps _ _ _ _ _ _ h).moves
  | ringStatusRead _ _ _ => exact (execRingStatusRead_keeps _ _ _ _ _ h).moves
  | peatWindowRead _ _ _ => exact (execPeatWindowRead_keeps _ _ _ _ _ h).moves
  | nop _ => exact (execNop_keeps _ _ _ h).moves
  | identify _ => exact (execIdentify_keeps _ _ _ h).moves
  | jobAdmit _ => exact .keeps (execJobAdmit_keeps _ _ _ h).1 (execJobAdmit_keeps _ _ _ h).2
  | jobRelease _ => exact .keeps (execJobRelease_keeps _ _ _ h).1 (execJobRelease_keeps _ _ _ h).2
  | jobQuery _ => exact (execJobQuery_keeps _ _ _ h).moves
  | corePortMap _ => exact (execCorePortMap_keeps _ _ _ h).moves
  | svnCommit _ => exact .svn _ rfl (execSvnCommit_keeps _ _ _ h)
  | functionResetMover _ => exact (execFunctionResetMover_keeps _ _ _ h).moves
  | functionResetExpander _ => exact (execFunctionResetExpander_keeps _ _ _ h).moves
  | functionResetQuantiser _ => exact (execFunctionResetQuantiser_keeps _ _ _ h).moves
  | functionResetQueueSlice _ => exact (execFunctionResetQueueSlice_keeps _ _ _ h).moves
  | functionResetCauseway _ => exact (execFunctionResetCauseway_keeps _ _ _ h).moves
  | functionResetTranslation _ => exact (execFunctionResetTranslation_keeps _ _ _ h).moves
  | functionResetMere _ => exact (execFunctionResetMere_keeps _ _ _ h).moves
  | functionResetManagement _ => exact (execFunctionResetManagement_keeps _ _ _ h).moves
  | functionResetDone _ => exact execFunctionResetDone_moves _ s t h
  | warmReset _ => exact moves_of (execWarmReset_keeps _ _ _ h)
  | joinRetryStack _ => exact (execJoinRetryStack_keeps _ _ _ h).moves
  | joinRetryPort _ => exact (execJoinRetryPort_keeps _ _ _ h).moves
  | ringCreate _ => exact (execRingCreate_keeps _ _ _ h).moves
  | ringDestroy _ => exact (execRingDestroy_keeps _ _ _ h).moves
  | ringQuery _ => exact (execRingQuery_keeps _ _ _ h).moves
  | streamAlloc _ => exact (execStreamAlloc_keeps _ _ _ h).moves
  | streamFree _ => exact (execStreamFree_keeps _ _ _ h).moves
  | streamResume _ => exact (execStreamResume_keeps _ _ _ h).moves
  | streamAbort _ => exact (execStreamAbort_keeps _ _ _ h).moves
  | streamDisableSet _ => exact (execStreamDisableSet_keeps _ _ _ h).moves
  | streamDisableClear _ => exact (execStreamDisableClear_keeps _ _ _ h).moves
  | streamQuery _ => exact (execStreamQuery_keeps _ _ _ h).moves
  | rangeMap _ => exact (execRangeMap_keeps _ _ _ h).moves
  | rangeUnmap _ => exact (execRangeUnmap_keeps _ _ _ h).moves
  | pageRootSet _ => exact (execPageRootSet_keeps _ _ _ h).moves
  | withdraw _ => exact (execWithdraw_keeps _ _ _ h).moves
  | xlateQuery _ _ => exact (execXlateQuery_keeps _ _ _ _ h).moves
  | baseRegister _ => exact (execBaseRegister_keeps _ _ _ h).moves
  | baseRelease _ => exact (execBaseRelease_keeps _ _ _ h).moves
  | tableLoadNew _ => exact (execTableLoadNew_keeps _ _ _ h).moves
  | tableLoadReplace _ => exact (execTableLoadReplace_keeps _ _ _ h).moves
  | tableLoadFree _ => exact (execTableLoadFree_keeps _ _ _ h).moves
  | tableQuery _ => exact (execTableQuery_keeps _ _ _ h).moves
  | keyLoad _ => exact .keeps (execKeyLoad_keeps _ _ _ h).1 (execKeyLoad_keeps _ _ _ h).2
  | keyClear _ => exact .keeps (execKeyClear_keeps _ _ _ h).1 (execKeyClear_keeps _ _ _ h).2
  | qntConfigBind _ => exact (execQntConfigBind_keeps _ _ _ h).moves
  | qntConfigUnbind _ => exact (execQntConfigUnbind_keeps _ _ _ h).moves
  | scaleLoadLoad _ _ => exact (execScaleLoadLoad_keeps _ _ _ _ h).moves
  | scaleLoadRelease _ => exact (execScaleLoadRelease_keeps _ _ _ h).moves
  | qntStats _ => exact (execQntStats_keeps _ _ _ h).moves
  | qntThreshold _ => exact (execQntThreshold_keeps _ _ _ h).moves
  | mereAlloc _ => exact (execMereAlloc_keeps _ _ _ h).moves
  | mereFree _ => exact (execMereFree_keeps _ _ _ h).moves
  | queueCreate _ => exact (execQueueCreate_keeps _ _ _ h).moves
  | queueClose _ => exact (execQueueClose_keeps _ _ _ h).moves
  | queueResetReader _ => exact (execQueueResetReader_keeps _ _ _ h).moves
  | combineCreate _ => exact (execCombineCreate_keeps _ _ _ h).moves
  | queueQuery _ => exact (execQueueQuery_keeps _ _ _ h).moves
  | deviceIdSet _ => exact (execDeviceIdSet_keeps _ _ _ h).moves
  | routeSetDevice _ => exact (execRouteSetDevice_keeps _ _ _ h).moves
  | routeSetPort _ => exact (execRouteSetPort_keeps _ _ _ h).moves
  | windowOpen _ => exact (execWindowOpen_keeps _ _ _ h).moves
  | windowClose _ => exact (execWindowClose_keeps _ _ _ h).moves
  | windowQuery _ => exact (execWindowQuery_keeps _ _ _ h).moves
  | linkQuery _ => exact (execLinkQuery_keeps _ _ _ h).moves
  | mirrorPair _ => exact (execMirrorPair_keeps _ _ _ h).moves
  | mirrorUnpair _ => exact .keeps (execMirrorUnpair_keeps _ _ _ h).1 (execMirrorUnpair_keeps _ _ _ h).2
  | mirrorPromote _ => exact (execMirrorPromote_keeps _ _ _ h).moves
  | mirrorQuery _ => exact (execMirrorQuery_keeps _ _ _ h).moves
  | coolConfirm _ => exact (execCoolConfirm_keeps _ _ _ h).moves
  | powerQuery _ => exact (execPowerQuery_keeps _ _ _ h).moves
  | marginQuery _ => exact (execMarginQuery_keeps _ _ _ h).moves
  | marginReplan _ => exact (execMarginReplan_keeps _ _ _ h).moves
  | injectArm _ => exact (execInjectArm_keeps _ _ _ h).moves
  | injectDisarm _ => exact (execInjectDisarm_keeps _ _ _ h).moves
  | injectQuery _ => exact (execInjectQuery_keeps _ _ _ h).moves
  | counterRead _ => exact (execCounterRead_keeps _ _ _ h).moves
  | peatStatus _ => exact (execPeatStatus_keeps _ _ _ h).moves
  | doorbell _ _ _ _ => exact (execDoorbell_keeps _ _ _ _ _ _ h).moves
  | ringFetch _ _ => exact (execRingFetch_keeps _ _ _ _ h).moves
  | entryStart _ => exact (execEntryStart_keeps _ _ _ h).moves
  | streamAdmission _ => exact (execStreamAdmission_keeps _ _ _ h).moves
  | contextReadDone _ _ => exact (execContextReadDone_keeps _ _ _ _ h).moves
  | slotGrant _ => exact (execSlotGrant_keeps _ _ _ h).moves
  | burstBoundary _ => exact (execBurstBoundary_keeps _ _ _ h).moves
  | tileTranslate _ _ => exact (execTileTranslate_keeps _ _ _ _ h).moves
  | secondLevelLookup _ => exact (execSecondLevelLookup_keeps _ _ _ h).moves
  | pageWalkStart _ => exact (execPageWalkStart_keeps _ _ _ h).moves
  | walkTableRead _ _ _ => exact (execWalkTableRead_keeps _ _ _ _ _ h).moves
  | moverDrainAck _ => exact (execMoverDrainAck_keeps _ _ _ h).moves
  | grantRequest _ => exact (execGrantRequest_keeps _ _ _ h).moves
  | grantAnswer _ _ => exact (execGrantAnswer_keeps _ _ _ _ h).moves
  | fillNotice _ => exact (execFillNotice_keeps _ _ _ h).moves
  | expanderCreditRequest _ => exact (execExpanderCreditRequest_keeps _ _ _ h).moves
  | readResponse _ _ => exact (execReadResponse_keeps _ _ _ _ h).moves
  | writeResponse _ _ => exact (execWriteResponse_keeps _ _ _ _ h).moves
  | stackRequest _ _ => exact (execStackRequest_keeps _ _ _ _ h).moves
  | stackRefresh _ => exact (execStackRefresh_keeps _ _ _ h).moves
  | dfiPhyupdReq _ => exact (execDfiPhyupdReq_keeps _ _ _ h).moves
  | stkCattrip _ _ => exact (execStkCattrip_keeps _ _ _ _ h).moves
  | mereBankAccess _ _ => exact (execMereBankAccess_keeps _ _ _ _ h).moves
  | patrolScrub _ _ => exact (execPatrolScrub_keeps _ _ _ _ h).moves
  | expanderBlock _ _ => exact (execExpanderBlock_keeps _ _ _ _ h).moves
  | portDelivery _ _ => exact (execPortDelivery_keeps _ _ _ _ h).moves
  | dueTimeCheck _ => exact (execDueTimeCheck_keeps _ _ _ h).moves
  | entryComplete _ _ _ => exact (execEntryComplete_keeps _ _ _ _ _ h).moves
  | creditReturn _ _ _ _ => exact (execCreditReturn_keeps _ _ _ _ _ _ h).moves
  | returnBeatArrive _ _ _ => exact (execReturnBeatArrive_keeps _ _ _ _ _ h).moves
  | activation _ _ => exact (execActivation_keeps _ _ _ _ h).moves
  | mereRead _ _ => exact (execMereRead_keeps _ _ _ _ h).moves
  | mereWrite _ _ => exact (execMereWrite_keeps _ _ _ _ h).moves
  | mereReadData _ _ => exact (execMereReadData_keeps _ _ _ _ h).moves
  | qntTile _ _ => exact (execQntTile_keeps _ _ _ _ h).moves
  | message _ _ _ => exact (execMessage_keeps _ _ _ _ _ h).moves
  | contribute _ _ _ => exact (execContribute_keeps _ _ _ _ _ h).moves
  | rearm _ _ => exact (execRearm_keeps _ _ _ _ h).moves
  | combineComplete _ => exact (execCombineComplete_keeps _ _ _ h).moves
  | areaZeroingDone _ => exact (execAreaZeroingDone_keeps _ _ _ h).moves
  | messageDelivery _ _ => exact (execMessageDelivery_keeps _ _ _ _ h).moves
  | remoteMessage _ _ => exact (execRemoteMessage_keeps _ _ _ _ h).moves
  | cwOeFault _ _ => exact (execCwOeFault_keeps _ _ _ _ h).moves
  | lossOfSignal _ => exact (execLossOfSignal_keeps _ _ _ h).moves
  | lightWatchExpiry _ => exact (execLightWatchExpiry_keeps _ _ _ h).moves
  | flitReceive _ _ _ => exact (execFlitReceive_keeps _ _ _ _ _ h).moves
  | retry _ _ => exact (execRetry_keeps _ _ _ _ h).moves
  | retryResendTimer _ => exact (execRetryResendTimer_keeps _ _ _ h).moves
  | ackTimer _ => exact (execAckTimer_keeps _ _ _ h).moves
  | replayExhausted _ => exact (execReplayExhausted_keeps _ _ _ h).moves
  | tlinkMeasure _ _ => exact (execTlinkMeasure_keeps _ _ _ _ h).moves
  | flitForward _ => exact (execFlitForward_keeps _ _ _ h).moves
  | ucieRetrain _ _ => exact (execUcieRetrain_keeps _ _ _ _ h).moves
  | remoteWrite _ => exact (execRemoteWrite_keeps _ _ _ h).moves
  | remoteWriteLanded _ _ => exact (execRemoteWriteLanded_keeps _ _ _ _ h).moves
  | remoteRead _ _ => exact (execRemoteRead_keeps _ _ _ _ h).moves
  | remoteResponse _ => exact (execRemoteResponse_keeps _ _ _ h).moves
  | remoteTimeout _ _ => exact (execRemoteTimeout_keeps _ _ _ _ h).moves
  | windowCloseDrained _ => exact (execWindowCloseDrained_keeps _ _ _ h).moves
  | linkProbeAnswer _ _ => exact (execLinkProbeAnswer_keeps _ _ _ _ h).moves
  | heartbeatSend => exact (execHeartbeatSend_keeps _ _ h).moves
  | heartbeatReceive _ _ => exact .keeps (execHeartbeatReceive_keeps _ _ _ _ h).1 (execHeartbeatReceive_keeps _ _ _ _ h).2
  | pathLoss _ => exact (execPathLoss_keeps _ _ _ h).moves
  | pairEnd => exact (execPairEnd_keeps _ _ h).moves
  | mirrorItemApply _ => exact .keeps (execMirrorItemApply_keeps _ _ _ h).1 (execMirrorItemApply_keeps _ _ _ h).2
  | mirrorAck => exact (execMirrorAck_keeps _ _ h).moves
  | powerEstimate _ => exact (execPowerEstimate_keeps _ _ _ h).moves
  | thermalSensorRead _ => exact moves_of (execThermalSensorRead_keeps _ _ _ h)
  | monitorRead _ => exact (execMonitorRead_keeps _ _ _ h).moves
  | operatingHours => exact (execOperatingHours_keeps _ _ h).moves
  | offsetStep _ => exact (execOffsetStep_keeps _ _ _ h).moves
  | unitWedged _ => exact execUnitWedged_moves _ s t h
  | peatWriterTake => exact (execPeatWriterTake_keeps _ _ h).moves
  | controlFlit _ _ _ => exact (execControlFlit_keeps _ _ _ _ _ h).moves
  | cwLosChange _ _ => exact (execCwLosChange_keeps _ _ _ _ h).moves
  | probeTimeout _ => exact (execProbeTimeout_keeps _ _ _ h).moves

end Sys2Proof.Machine
end

