-- ==== Sys2Proof/WellFormed.lean ====
section
/-! DEFINITION. Which commands are well formed: the numbers in operands that their types do not bound. A command that
is not well formed names something that the complex does not have; `exec` passes over the part that does not exist. -/

namespace Sys2Proof

/-- A flipped bit lies in one of the 39 bits of a word (R491, R503). -/
def Flip.wf (f : Flip) : Bool := decide (f.bit < 39)

/-- The host's answers lie at the host addresses that the aperture reaches: offsets from 0x200_0000_0000 (R272). -/
def Env.wf (e : Env) : Bool :=
  (e.host.all fun c => decide (c.1 < 2 ^ 41)) && (e.hostErr.all fun a => decide (a < 2 ^ 41)) && e.flips.all Flip.wf

/-- An island of R516, R482. -/
def islandOk (i : Nat) : Bool := decide (i < 225)

def MonReading.wf : MonReading → Bool
  | .monitor m _ => decide (m < 256)
  | .oscillator i _ => islandOk i

/-- Numbers of jobs, rings, streams, ranges, windows, pages and cores in an item of mirror traffic (R36, R146, R460). -/
def MirrorItem.wf : MirrorItem → Bool
  | .job j _ => decide (1 ≤ j ∧ j ≤ 15)
  | .ring r _ j => decide (r < 4096 ∧ j < 16)
  | .ringStatus r _ _ => decide (r < 4096)
  | .stream i _ j => decide (i < 1048576 ∧ j < 16)
  | .context i _ => decide (i < 1048576)
  | .range n _ => decide (n < 1024)
  | .paged _ _ _ => true
  | .window w _ j => decide (w < 4096 ∧ j < 16)
  | .mereAlloc p n j _ _ _ => decide (p + n ≤ 65536 ∧ j < 16)
  | .mereFree p => decide (p < 65536)
  | .binding c e _ => decide (c < 1024 ∧ e < 4)
  | .history c e _ _ => decide (c < 1024 ∧ e < 4)
  | .stackWrite _ _ d => decide (d.length ≤ 64)
  | .mereWrite a d => decide (a + d.length ≤ 268435456)

/-- The operands of a command name only what exists. -/
def WellFormed : Instr → Bool
  | .mbistRun failing => failing.all fun a => decide (a < 2 ^ 48)
  | .mereSelfTestDone failing => failing.all fun b => decide (b.1 < 2048 ∧ 0 < b.2)
  | .stackTrainAttemptDone _ ok found => !ok || (decide (0 < found.capGiB) && found.results.length == 3)
  | .peatWindowRead _ _ env | .xlateQuery _ env | .scaleLoadLoad _ env | .ringFetch _ env | .contextReadDone _ env
  | .tileTranslate _ env | .readResponse _ env | .writeResponse _ env | .stackRequest _ env | .mereBankAccess _ env
  | .patrolScrub _ env | .expanderBlock _ env | .qntTile _ env | .message _ _ env | .contribute _ _ env
  | .messageDelivery _ env | .remoteMessage _ env | .remoteWriteLanded _ env | .remoteRead _ env => env.wf
  | .walkTableRead _ env evict => env.wf && decide (evict.getD 0 < 16384)
  | .entryComplete _ pos env => env.wf && decide (pos < 131072)
  | .returnBeatArrive _ _ b => decide (b.len.toNat ≤ 512)
  | .mirrorItemApply i => i.wf
  | .powerEstimate r => decide (r.classes.length = 8)
  | .thermalSensorRead l => l.all fun t => islandOk t.island
  | .monitorRead l => l.all MonReading.wf
  | _ => true

end Sys2Proof
end

