-- ==== Sys2Proof/Tests/Slice0.lean ====
section
/-! SUPPORT. Tests of single steps on small states, written from the spec's rules; a witness `wit_…` for the hypotheses of each statement
of Certificates/Slice0/Obligations.lean; and the terms that each check of WellFormed refuses. -/

namespace Sys2Proof.Tests

open Sys2Proof.Machine

set_option Elab.async false

/-! The states of the tests. -/

/-- A complex in bring-up stage `n`, its earlier stages passed. -/
def inStg (n : Nat) : State :=
  { State.reset with bring := { Bringup.reset with
    stage := n, sramDone := decide (2 ≤ n), pageOpen := decide (2 ≤ n), hexob := decide (2 ≤ n), blockReady := decide (3 ≤ n)
    boardwalk := n == 3 || n == 4, s4Exited := n == 5 } }

/-- Full service, nothing created. -/
def svc : State := inStg 5

/-- Fields placed in a body: place and value. -/
def bits (l : List (Nat × Nat)) : Nat := l.foldl (fun n f => n + (f.2 <<< f.1)) 0

/-- `s` with a command in mailbox 0, not yet BUSY. -/
def laid (s : State) (op job : Nat) (l : List (Nat × Nat)) : State :=
  { s with mbox := updAt s.mbox 0 fun b =>
      { b with cmd := BitVec.ofNat 2048 (op + (224 <<< 32) + (job <<< 64) + (bits l <<< 256)) } }

/-- `s` with a command in mailbox 0, taken. -/
def ask (s : State) (op job : Nat) (l : List (Nat × Nat)) : State :=
  { laid s op job l with mbox := updAt (laid s op job l).mbox 0 fun b => { b with busy := true, cmdSeq := 1 }, cmdSeq := 2 }

/-- Row `k` accepts the command in mailbox 0 of `s`, and `p` holds of what it meets. -/
def takes (k : CmdSpec) (s : State) (p : State → Cmd → Bool) : Bool :=
  match accepts k 0 s with
  | some (b, body, _) => p (seen k s) (cmdOf 0 b body)
  | none => false

/-- Row `k` refuses the command in mailbox 0 of `s`, naming field `f`. -/
def names (k : CmdSpec) (s : State) (f : Nat) : Bool := ((refuses k 0 s).map fun r => r.2.1) == some f

/-- What holds of the next state of a command. -/
def after (c : Instr) (s : State) (p : State → Bool) : Bool :=
  match exec c s with
  | .next t => p t
  | _ => false

/-- The command in mailbox 0 has ended, and `p` holds. -/
def ends (c : Instr) (s : State) (p : State → Bool) : Bool :=
  after c s fun t => ((t.mbox[0]?).map fun b => b.done && !b.busy) == some true && p t

/-- A command whose answer holds no free value: the row meets the command and `p` holds of the next state. -/
def any (_ : State) (_ : Cmd) : Bool := true

/-- Job 1 with room for everything, a core at port 0 of quarter 0, memory behind a range and an allocation, and one object of
each kind. -/
def full : State :=
  { svc with
    jobs := [(1, { res := [64, 8, 8, 8, 64, 8, 4, 4, 4], releasing := false })]
    cores := [(0, { present := true, port := 0, slot := 0, opbuf := 16, inbox := 4 })]
    stackTbl := [(0, { Stack.reset with state := 1, capGiB := 32 })]
    xlate := { Xlate.reset with ranges := [(0, {
      domain := 1, key := 0, read := true, write := true, length := 16, pa := 0, va := 0, withdrawing := false, mbody := 0 })] }
    allocs := [(0, { pages := 16, job := 1, firstCore := 0, coreCount := 4, perm := 2, withdrawing := false })]
    rings := [(0, newRing (cmdFor (bits [(104, 4), (96, 1), (80, 2), (74, 8), (0, 0x1000)]) 1))]
    streams := [(5, newStream (cmdFor (bits [(48, 1), (24, 1)]) 1) 0)]
    keys := [(0, .system), (2, { state := 2, job := 0, lo := 7, hi := 0 }), (3, { state := 1, job := 1, lo := 1, hi := 2 })]
    tables := [(0, { job := 1, gen := 0, table := 0, refs := 0, retiring := none })], tableGen := [(0, 0)]
    bases := [(1, { job := 1, va := 0, blocks := 16, typ := 0, refs := 0, released := false })]
    queues := [(0, blankQueue (cmdFor (bits [(100, 0x2000), (84, 4), (68, 16)]) 1)),
      (1, combiningQueue (cmdFor (bits [(164, 0x3000), (147, 64), (128, 2), (112, 16), (96, 1)]) 1))]
    cw := { Causeway.reset with windows := [(3, newWindow (cmdFor (bits [(232, 1), (230, 3), (197, 4), (164, 1), (0, 0x4000)]) 1) 3)] } }

/-! Well-formedness: a term that each check refuses, and the last value that it lets stand. -/

theorem test_wf_flip : WellFormed (.messageDelivery 0 { Env.quiet with flips := [⟨1, 0, 0, 0, 39, false⟩] }) = false ∧
    WellFormed (.messageDelivery 0 { Env.quiet with flips := [⟨1, 0, 0, 0, 38, false⟩] }) = true := by decide +kernel
theorem test_wf_host : WellFormed (.ringFetch 0 { Env.quiet with host := [(2 ^ 41, 1)] }) = false ∧
    WellFormed (.ringFetch 0 { Env.quiet with host := [(2 ^ 41 - 1, 1)] }) = true := by decide +kernel
theorem test_wf_hostErr : WellFormed (.readResponse 0 { Env.quiet with hostErr := [2 ^ 41] }) = false := by decide +kernel
theorem test_wf_every_env :
    let e := { Env.quiet with hostErr := [2 ^ 41] }
    ([.peatWindowRead 0 0 e, .xlateQuery 0 e, .scaleLoadLoad 0 e, .contextReadDone 0 e, .tileTranslate 0 e, .writeResponse 0 e,
      .stackRequest 0 e, .mereBankAccess 0 e, .patrolScrub 0 e, .expanderBlock 0 e, .qntTile 0 e, .message 0 0 e, .contribute 0 0 e,
      .remoteMessage 0 e, .remoteWriteLanded 0 e, .remoteRead 0 e, .walkTableRead 0 e none, .entryComplete 0 0 e] : List Instr).all
      (fun i => !WellFormed i) = true := by decide +kernel
theorem test_wf_temp : WellFormed (.thermalSensorRead [⟨225, 40⟩]) = false ∧ WellFormed (.thermalSensorRead [⟨224, 40⟩]) = true := by
  decide +kernel
theorem test_wf_monitor : WellFormed (.monitorRead [.monitor 256 1]) = false ∧ WellFormed (.monitorRead [.oscillator 225 1]) = false ∧
    WellFormed (.monitorRead [.monitor 255 1, .oscillator 224 1]) = true := by decide +kernel
theorem test_wf_mbist : WellFormed (.mbistRun [2 ^ 48]) = false ∧ WellFormed (.mbistRun [2 ^ 48 - 1]) = true := by decide +kernel
theorem test_wf_mere_banks : WellFormed (.mereSelfTestDone [(2048, 1)]) = false ∧ WellFormed (.mereSelfTestDone [(0, 0)]) = false ∧
    WellFormed (.mereSelfTestDone [(2047, 9)]) = true := by decide +kernel
theorem test_wf_stack_capacity : WellFormed (.stackTrainAttemptDone 0 true ⟨0, [1, 2, 3]⟩) = false ∧
    WellFormed (.stackTrainAttemptDone 0 true ⟨16, [1, 2]⟩) = false ∧ WellFormed (.stackTrainAttemptDone 0 false ⟨0, []⟩) = true := by decide +kernel
theorem test_wf_entry : WellFormed (.entryComplete 0 131072 .quiet) = false ∧ WellFormed (.entryComplete 0 131071 .quiet) = true := by
  decide +kernel
theorem test_wf_evict : WellFormed (.walkTableRead 0 .quiet (some 16384)) = false ∧
    WellFormed (.walkTableRead 0 .quiet (some 16383)) = true := by decide +kernel
theorem test_wf_beat : WellFormed (.returnBeatArrive 0 0 ⟨0, 0, 0, 0, 513, 0, 0⟩) = false ∧
    WellFormed (.returnBeatArrive 0 0 ⟨0, 0, 0, 0, 512, 0, 0⟩) = true := by decide +kernel
theorem test_wf_power : WellFormed (.powerEstimate ⟨100, 100, [1, 2, 3, 4, 5, 6, 7]⟩) = false ∧
    WellFormed (.powerEstimate ⟨100, 100, [1, 2, 3, 4, 5, 6, 7, 8]⟩) = true := by decide +kernel
theorem test_wf_items_refused :
    ([.job 0 none, .job 16 none, .ring 4096 none 0, .ring 0 none 16, .ringStatus 4096 0 0, .stream 1048576 none 0, .stream 0 none 16,
      .context 1048576 0, .range 1024 none, .window 4096 none 0, .window 0 none 16, .mereAlloc 65536 1 0 0 0 0, .mereAlloc 0 1 16 0 0 0,
      .mereFree 65536, .binding 1024 0 none, .binding 0 4 none, .history 1024 0 0 [], .history 0 4 0 [],
      .stackWrite 0 0 (List.replicate 65 0), .mereWrite 268435456 [0]] : List MirrorItem).all
      (fun i => !WellFormed (.mirrorItemApply i)) = true := by decide +kernel
theorem test_wf_items_taken :
    ([.job 15 none, .ring 4095 none 15, .ringStatus 4095 0 0, .stream 1048575 none 15, .context 1048575 0, .range 1023 none,
      .paged 0 true 0, .window 4095 none 15, .mereAlloc 65535 1 15 0 0 0, .mereFree 65535, .binding 1023 3 none, .history 1023 3 0 [],
      .stackWrite 0 0 (List.replicate 64 0), .mereWrite 268435455 [0]] : List MirrorItem).all
      (fun i => WellFormed (.mirrorItemApply i)) = true := by decide +kernel

/-! The whole machine. -/

theorem test_idle_tick : (match step { svc with hrp := { rsp := [⟨1, 5, 0⟩, ⟨2, 6, 0⟩], waiting := [] } } with
    | .next t => t.hrp.rsp == [⟨2, 6, 0⟩] && cyclesOf t 0 == 1 && t.pending == []
    | _ => false) = true := by decide +kernel
theorem test_front_command : (match step { State.reset with pending := [.pllLock, .pllLock] } with
    | .next t => t.bring.stage == 1 && t.pending == [.pllLock]
    | _ => false) = true := by decide +kernel
theorem wit_EmptyQueueTicks : State.reset.pending = [] ∧ State.reset.bring.stage = 0 := by decide +kernel
theorem wit_Formed : Memory.wf State.reset = true ∧ State.reset.cmdSeq ≠ 0 ∧ State.reset.mbox.length = 8 ∧
    State.reset.irq.groups.length = 10 ∧ State.reset.clk.acc.length = 225 := by decide +kernel
theorem wit_WedgedMarks : after (.unitWedged .mere) svc (fun t => t.wedged == [.mere]) = true ∧
    after (.functionResetDone .mere) { svc with wedged := [.mere], resets := [{ fn := .mere, mboxes := [], rings := [] }] }
      (fun t => t.wedged == []) = true := by decide +kernel
theorem wit_FusesOnlyRise : after (.svnCommit 0) { ask full 0x113 0 [] with bring := { full.bring with svn := 3 } }
    (fun t => t.fuses.svnMin == 3) = true := by decide +kernel
theorem wit_StrapsSampledAtReset : after (.warmResetRelease 2 5) { svc with bring := { svc.bring with rstN := false } }
    (fun t => t.straps == ⟨2, 0, 0, 5⟩) = true ∧ after (.coldReset 1 2 3 4) svc (fun t => t.straps == ⟨1, 2, 3, 4⟩) = true := by decide +kernel
theorem wit_CmdSeqRises : after (.registerWrite 0 32 0xFF 1) { svc with cmdSeq := 0xFFFFFFFF } (fun t => t.cmdSeq == 1) = true ∧
    after (.registerWrite 0 32 0xFF 1) svc (fun t => t.cmdSeq == 2) = true := by decide +kernel
theorem wit_TapStandsApart : after .idcode svc (fun t => t.tap.tdo == natBits 32 0x1E02456F) = true ∧ svc.tap.tdo = [] := by decide +kernel
theorem wit_MemoryReadsBack : zeroForm [(3, 9), (7, 1)] = true ∧ zeroPut [(3, 9), (7, 1)] 3 0 = [(7, 1)] := by decide +kernel

/-! The host register port and the mailboxes. -/

theorem wit_ShellAnswersNotPresent : hrpOpen State.reset = false ∧ State.reset.hrp.rsp.length < 32 ∧
    (∃ r ∈ ({ svc with hrp := { rsp := [⟨7, 0, 0⟩], waiting := [] } } : State).hrp.rsp, r.tag = 7) ∧
    32 ≤ ({ svc with hrp := { rsp := List.replicate 32 ⟨1, 0, 0⟩, waiting := [] } } : State).hrp.rsp.length := by decide +kernel
theorem test_not_present : after (.hrpNotPresent 3 false) State.reset (fun t => t.hrp.rsp == [⟨3, 0, 1⟩]) = true := by decide +kernel
/-- Tags that the port takes while its page is open, and a mailbox there, as the statements about the port ask. -/
theorem wit_port_open : hrpTakes svc 31 = true ∧ hrpOpen svc = true ∧ (svc.mbox[7]?).isSome = true := by decide +kernel
theorem test_vector_keeps_host_vectors : after (.registerWrite 0 (0x282 + 27) 0xFF 7) svc
      (fun t => (t.irq.groups[9]?).map CauseGroup.vector == some 54) = true ∧
    after (.registerWrite 0 (0x282 + 27) 0xFF 8) svc (fun t => (t.irq.groups[9]?).map CauseGroup.vector == some 8) = true := by decide +kernel
theorem wit_PortWrites_outside : ([5, 6, 7, 10, 31, 48, 0x1FF, 0xA000, 0x1FFFF, 0x40000, 0x1FFFFF] : List (BitVec 21)).all (fun a =>
    after (.registerWrite 1 a 0xFF 0) svc fun t => t.hrp.rsp == [⟨1, 0, 2⟩] && counterOf t 0 0 4 == 1) = true := by decide +kernel
theorem wit_PortWrites_partial : ([0, 4, 8, 9, 32, 39] : List (BitVec 21)).all (fun a =>
    after (.registerWrite 1 a 0x7F 0) svc fun t => t.hrp.rsp == [⟨1, 0, 2⟩] && t.cmdSeq == 1) = true := by decide +kernel
theorem test_command_area : after (.mboxCmdAreaWrite 0 7 31 0x80 0xAB00000000000000) svc
      (fun t => ((t.mbox[7]?).map fun b => b.cmd.toNat) == some (0xAB <<< 2040)) = true ∧
    after (.mboxCmdAreaWrite 0 0 0 0xFF 5) (ask svc 0x100 0 []) (fun t => ((t.mbox[0]?).map Mbox.locked) == some 1) = true := by decide +kernel
theorem wit_GoTakesCommand : (laid svc 0x100 0 []).mbox.all (fun b => !b.busy) = true ∧
    ((laid svc 0x100 0 []).mbox[0]?).any (fun b => !(mgmtRuns svc && !held svc && !opAccepted svc (cmdOp b))) = true ∧
    ((ask svc 0x100 0 []).mbox[0]?).any (fun b => b.busy && decide (b.ignored ≤ 15)) = true := by decide +kernel
theorem test_go_takes : after (.registerWrite 0 32 0xFF 1) (laid svc 0x100 0 []) (fun t =>
    ((t.mbox[0]?).map fun b => (b.busy, b.done, b.cmdSeq)) == some (true, false, 1)) = true := by decide +kernel
theorem test_go_ignored : after (.registerWrite 0 32 0xFF 1) (ask svc 0x100 0 []) (fun t =>
    ((t.mbox[0]?).map Mbox.ignored) == some 1 && t.cmdSeq == 2) = true := by decide +kernel
theorem wit_UnlistedOpcodeRefused : mgmtRuns svc = true ∧ held svc = false ∧
    ((laid svc 0x105 0 []).mbox[0]?).any (fun b => !b.busy && !opAccepted svc (cmdOp b)) = true ∧
    after (.registerWrite 0 32 0xFF 1) (laid svc 0x105 0 []) (fun t =>
      ((t.mbox[0]?).map fun b => (b.busy, b.done)) == some (false, true)) = true := by decide +kernel
theorem wit_AcknowledgementsClear : after (.mboxDoneAck 0 0 0xFF 1) { svc with mbox := [{ Mbox.reset with done := true, cause := true }] }
      (fun t => t.mbox == [Mbox.reset]) = true ∧
    after (.causeClear 0 0x23F 0xFF 2) { svc with irq := { svc.irq with ringDone := [(63, 3)] } } (fun t => t.irq.ringDone == [(63, 1)]) = true ∧
    after (.causeClear 0 0x27F 0xFF 1) { svc with irq := { svc.irq with ringErr := [(63, 3)] } } (fun t => t.irq.ringErr == [(63, 2)]) = true ∧
    after (.causeClear 0 0x29B 0xFF 6) { svc with irq := svc.irq.setGroup 9 1 }
      (fun t => (t.irq.groups[9]?).map CauseGroup.cause == some 0) = true := by decide +kernel
theorem wit_StatusAndPeatReads : (Tbl.get? full.rings 0).isSome = true ∧ Tbl.get? full.rings 4095 = none ∧ full.inject = [] ∧
    Env.quiet.flips = [] ∧ full.peat.online = false ∧ ({ full with peat := { full.peat with online := true } } : State).peat.online = true := by
  decide +kernel
theorem test_status_word : after (.ringStatusRead 2 0 true) full (fun t =>
    t.hrp.rsp == [⟨2, BitVec.ofNat 64 (bits [(6, 1), (7, 4), (12, 1), (16, 2)]), 0⟩]) = true := by decide +kernel
theorem wit_Doorbells : full.bring.blockReady = true ∧ (Tbl.get? full.rings 0).map Ring.state = some 1 ∧
    jobReleasing full 1 = false ∧ (standsBy full && isMirrored full 1 0) = false ∧ State.reset.bring.blockReady = false := by decide +kernel
theorem test_doorbell_full_ring : after (.doorbell 0 0 0x0F 0x10000) full (fun t => (Tbl.get? t.rings 0).map Ring.tail == some 16) = true ∧
    after (.doorbell 0 0 0x0F 0x10001) full (fun t => (Tbl.get? t.rings 0).map Ring.badBells == some 1) = true := by decide +kernel
theorem test_doorbell_orphan : after (.doorbell 0 9 0x0F 0) full (fun t => counterOf t 0 0 0 == 1) = true := by decide +kernel
theorem test_doorbell_in_reset : after (.doorbell 0 0 0x0F 5) { full with rings := full.rings.mapV fun _ r => { r with state := 2 } }
    (fun t => (Tbl.get? t.rings 0).map Ring.bells == some [5]) = true := by decide +kernel
theorem test_doorbell_releasing : after (.doorbell 0 0 0x0F 1) { full with rings := full.rings.mapV fun _ r => { r with state := 4 } }
    (fun t => (Tbl.get? t.rings 0).map (fun r => (r.badBells, r.tail)) == some (1, 0)) = true := by decide +kernel
theorem wit_RefusedCommandsChangeNothing : names specMarginQuery (ask full 0x903 1 [(0, 225)]) 2 = true ∧
    names specRingQuery (ask full 0x203 2 []) 0xF4 = true := by decide +kernel
theorem wit_CommandsWaitTheirTurn :
    held (ask { inStg 2 with bring := { (inStg 2).bring with sramDone := true } } 0x100 0 []) = true ∧
    (let s := { ask full 0x202 1 [] with mbox := updAt (ask full 0x202 1 []).mbox 1 fun b =>
        { b with busy := true, cmdSeq := 0xFFFFFFFF, cmd := BitVec.ofNat 2048 (0x202 + (224 <<< 32) + (1 <<< 64)) } }
     (busyBox s 0).any (fun b => blocked s 0 b) = true) := by decide +kernel

/-! Power, resets and test access. -/

theorem wit_ResetsAndPower : svc.bring.pwrOk = true ∧ svc.bring.rstN = true ∧
    ({ svc with bring := { svc.bring with pwrOk := false } } : State).bring.rstN = true ∧
    ({ svc with bring := { svc.bring with rstN := false } } : State).bring.rstN = false := by decide +kernel
theorem test_cold_reset_waits : after (.coldReset 0 3 0 0) svc (fun t => t.bring.stage == 0 && t.bring.stopCause == 1 && !t.bring.pageOpen) = true := by
  decide +kernel
theorem test_power_down : after .powerDown { svc with hrp := { rsp := [⟨4, 9, 0⟩], waiting := [] } }
    (fun t => !t.bring.pwrOk && t.hrp.rsp == [⟨4, 0, 1⟩]) = true := by decide +kernel
theorem test_warm_assert_keeps : after .warmResetAssert { full with fuses := { full.fuses with svnMin := 4 }, bring := { full.bring with image := [(0, 1)] } }
    (fun t => t.fuses.svnMin == 4 && t.bring.image == [(0, 1)] && t.rings == [] && t.jobs == [] && t.bring.warm) = true := by decide +kernel
theorem wit_WarmResetRelease :
    let low := { svc with bring := { svc.bring with rstN := false } }
    low.bring.rstN = false ∧ low.bring.pwrOk = true ∧ low.bring.shutdown = false ∧
      (let hot := { low with bring := { low.bring with shutdown := true }, power := { low.power with temps := [(0, 125)] } }
       hot.bring.shutdown = true ∧ allCool hot = false) ∧ svc.bring.rstN = true ∧
      takes specWarmReset (ask svc 0x121 0 [(0, 0x5741)]) any = true := by decide +kernel
theorem test_warm_reset_unconfirmed : names specWarmReset (ask svc 0x121 0 [(0, 0x5742)]) 1 = true := by decide +kernel
theorem test_warm_reset_no_answer : after (.warmReset 0) (ask svc 0x121 0 [(0, 0x5741)])
    (fun t => t.mbox == State.reset.mbox && t.bring.stage == 0 && t.bring.warm) = true := by decide +kernel
theorem test_release_hot_waits : after (.warmResetRelease 0 0) { svc with
    bring := { svc.bring with rstN := false, shutdown := true, stage := 0 }, power := { svc.power with temps := [(0, 125)] } }
    (fun t => t.bring.shutdown && t.bring.rstN) = true := by decide +kernel
theorem wit_TestAccess : svc.bring.pwrOk = true ∧ (0x55 : BitVec 8).toNat ∉ listedCodes ∧ (0x20 : BitVec 8).toNat ∈ privateCodes ∧
    privateOff svc = true ∧ inService (inStg 1) = false ∧ inService svc = true ∧ privateOff (inStg 1) = false ∧
    ({ inStg 1 with tap := { Tap.reset with wrapper := some 3, mbist := some ⟨true, 0⟩ } } : State).tap.wrapper = some 3 := by decide +kernel
theorem test_bypass : after (.bypass 0xFF [true, false, true]) svc (fun t => t.tap.tdo == [false, true, false]) = true := by decide +kernel
theorem test_mbist_first_failure : after (.mbistRun [9, 4, 7]) { inStg 1 with tap := { Tap.reset with wrapper := some 3 } }
    (fun t => t.tap.mbist == some ⟨false, 4⟩) = true := by decide +kernel
theorem test_mbist_result : after .mbistResult { inStg 1 with tap := { Tap.reset with wrapper := some 3, mbist := some ⟨true, 0⟩ } }
    (fun t => t.tap.tdo == true :: natBits 48 0) = true := by decide +kernel
theorem test_wrap_registers : after (.wrapWir [true]) { inStg 1 with tap := { Tap.reset with wrapper := some 3, wirs := [(3, [false]), (4, [true])] } }
      (fun t => t.tap.tdo == [false] && t.tap.wirs == [(3, [true]), (4, [true])]) = true ∧
    after (.wrapWdr [true, true]) { inStg 1 with tap := { Tap.reset with wrapper := some 3 } } (fun t => t.tap.wdrs == [(3, [true, true])]) = true := by
  decide +kernel
theorem test_wrap_sel : after (.wrapSel 0x0102) (inStg 1) (fun t => t.tap.wrapper == some 0x0102) = true ∧
    after (.wrapSel 0x0102) svc (fun t => t.tap.wrapper == none) = true := by decide +kernel
theorem test_status_read : after .statusRead State.reset (fun t => t.tap.tdo == natBits 64 0) = true := by decide +kernel
theorem test_preload : after (.samplePreload [true] [false, true]) svc (fun t => t.tap.tdo == [true] && t.tap.boundary == [false, true]) = true := by
  decide +kernel
theorem test_extest_in_service : after (.extest ⟨[true], [false]⟩) svc (fun t => t.bring.extestDirty && t.tap.driving && t.tap.boundary == [false]) = true := by decide +kernel
theorem test_tap_reset : after .tapReset { svc with tap := { Tap.reset with ir := 0x31 } } (fun t => t.tap == .reset) = true := by decide +kernel

/-! Bring-up. -/

/-- S1 with SPLIT 0b01 and every interface but 4 trained. -/
def s1 : State := { inStg 1 with straps := ⟨0, 1, 0, 0⟩, bring := { (inStg 1).bring with ucieTrained := [1, 2, 3] } }

/-- A Hexob image of which all fields but the signature's are good: no key revoked, SVN 2. -/
def image : State :=
  let hdr := zeroPutAll [] 0 (natToBytes 24 (bits [(0, 0x42584548), (32, 1), (64, 64), (128, 2)]))
  let s := { inStg 1 with bring := { (inStg 1).bring with image := hdr, imageTotal := some 320, pageOpen := true, sramDone := true } }
  { s with fuses := { s.fuses with keyHash := [Config.sha384 (imgBytes s 32 96), 0, 0, 0] } }

theorem wit_EarlyBringUp : inStage State.reset 0 = true ∧ inStage s1 1 = true ∧ s1.bring.sramDone = false ∧
    (∃ v ∈ ucieNeeded s1.straps.split, v ∉ s1.bring.ucieTrained) ∧ (∀ v ∈ ucieNeeded image.straps.split, v ∈ image.bring.ucieTrained) ∧
    s1.bring.warm = false ∧ 4 ∈ ucieNeeded s1.straps.split ∧ 4 ∉ s1.bring.ucieTrained ∧ imageFault State.reset ≠ none := by decide +kernel
/-- No image can be shown whose signature the uninterpreted verification accepts; one whose every other check passes. -/
theorem wit_image_but_for_its_signature : (imageChecks image).map Prod.fst = [1, 2, 3, 4, 5, 6, 7, 8, 9, 10, 12] ∧
    ((imageChecks image).filter fun c => c.1 != 9 && c.1 != 10).all (fun c => c.2) = true := by decide +kernel
theorem wit_image_key_row : (imageChecks image)[8]? = some (9, true) := by
  show some (9, (Config.sha384 (imgBytes image 32 96) == Config.sha384 (imgBytes image 32 96))) = some (9, true)
  simp
theorem test_pll : after .pllLock State.reset (fun t => t.bring.stage == 1) = true ∧
    after .pllLockTimeout State.reset (fun t => t.bring.stopCause == 2) = true := by decide +kernel
theorem test_sram_opens_page : after (.mgmtSramTestDone true true) (inStg 1) (fun t => t.bring.pageOpen && t.bring.sramDone) = true ∧
    after (.mgmtSramTestDone false true) (inStg 1) (fun t => t.bring.stopCause == 3) = true := by decide +kernel
theorem test_last_interface_opens_page : after (.ucieTrainDone 4) { s1 with bring := { s1.bring with sramDone := true } }
      (fun t => t.bring.pageOpen) = true ∧
    after (.ucieTrainTimeout 4) s1 (fun t => t.bring.stopCause == 4) = true := by decide +kernel
theorem wit_ImagesLoadAndStart : takes specImageBegin (ask image 0x110 0 [(0, 1573120)]) any = true ∧
    takes specImageChunk (ask image 0x111 0 [(32, 192), (0, 128)]) any = true ∧
    takes (specImageEnd true) (ask { image with bring := { image.bring with image := [] } } 0x112 0 [])
      (fun s _ => imageFault s == some 1) = true ∧ image.bring.stopCause = 0 := by decide +kernel
theorem test_image_begin : after (.imageBegin 0) (ask image 0x110 0 [(0, 320)])
      (fun t => t.bring.image == [] && t.bring.imageTotal == some 320) = true ∧
    names specImageBegin (ask image 0x110 0 [(0, 319)]) 1 = true := by decide +kernel
theorem test_image_chunk : after (.imageChunk 0) (ask image 0x111 0 [(32, 2), (0, 318), (64, 0x1234)])
      (fun t => zeroBytes t.bring.image 318 2 == [0x34, 0x12]) = true ∧
    names specImageChunk (ask image 0x111 0 [(32, 3), (0, 318)]) 3 = true := by decide +kernel
theorem test_image_end_bad_magic : ends (.imageEnd 0 true) (ask { image with bring := { image.bring with image := [(0, 1)] } } 0x112 0 [])
    (fun t => t.bring.image == [] && t.bring.stage == 1) = true := by decide +kernel
theorem wit_SvnCommits : takes specSvnCommit (ask { full with bring := { full.bring with svn := 9 } } 0x113 0 []) any = true := by decide +kernel
theorem wit_MereSelfTest : let s := inStg 2
    inStage s 2 = true ∧ s.bring.hexob = true ∧ s.bring.blockReady = false ∧ (∀ b ∈ [(0, 8)], b.1 < 2048 → b.2 ≤ 8) ∧
      (∃ b ∈ [(2047, 9)], b.1 < 2048 ∧ 8 < b.2) := by decide +kernel
theorem test_mere_self_test : after (.mereSelfTestDone [(0, 8)]) (inStg 2) (fun t => t.bring.stage == 3 && t.bring.blockReady && t.bring.boardwalk) = true ∧
    after (.mereSelfTestDone [(2047, 9)]) (inStg 2) (fun t => t.bring.stage == 2 && t.bring.stopCause == 6) = true := by decide +kernel
/-- S3 with stack `n` of the order of R96 at its turn. -/
def s3 (n attempts : Nat) : State := { inStg 3 with bring := { (inStg 3).bring with trainIdx := n, trainAttempts := attempts } }
theorem wit_StacksTrain : inStage (s3 0 0) 3 = true ∧ (s3 1 1).bring.trainIdx % 4 * 6 + (s3 1 1).bring.trainIdx / 4 = 6 ∧
    (s3 22 0).bring.trainIdx < 23 ∧ (stackAt (s3 0 0) 0).cattrip = false ∧ (s3 1 1).bring.trainAttempts = 1 ∧
    (let h := { s3 0 0 with stackTbl := [(0, { Stack.reset with cattrip := true })] }
     inStage h 3 = true ∧ (stackAt h 0).cattrip = true) ∧ (s3 23 0).bring.trainIdx = 23 := by decide +kernel
theorem test_stack_order : after (.stackTrainAttemptDone 6 true ⟨32, [1, 2, 3]⟩) (s3 1 0) (fun t => (stackAt t 6).state == 1 && (stackAt t 6).training == [1, 2, 3] && t.bring.trainIdx == 2) = true ∧
    after (.stackTrainAttemptDone 1 true ⟨32, [1, 2, 3]⟩) (s3 1 0) (fun t => t == s3 1 0) = true := by decide +kernel
theorem test_stack_fails_twice : after (.stackTrainTimeout 6) (s3 1 1) (fun t => (stackAt t 6).state == 3 && t.bring.trainIdx == 2) = true ∧
    after (.stackTrainTimeout 6) (s3 1 0) (fun t => t.bring.trainAttempts == 1) = true := by decide +kernel
theorem test_last_stack_enters_s4 : after (.stackTrainAttemptDone 23 true ⟨32, [1, 2, 3]⟩) (s3 23 0) (fun t => t.bring.stage == 4) = true := by decide +kernel

/-- S4 over, the profile confirmed or not. -/
def s4 (confirmed : Bool) : State :=
  { inStg 4 with bring := { (inStg 4).bring with s4Exited := true }, power := { Power.reset with confirmed := confirmed }
                 stackTbl := [(0, { Stack.reset with state := 1, capGiB := 32 })] }
theorem wit_FullServiceEntered : inStage (s4 true) 4 = true ∧ (s4 true).bring.s4Exited = true ∧ (s4 true).power.confirmed = true ∧
    (s4 false).power.confirmed = false ∧
    (let s := { full with stackTbl := [(0, { Stack.reset with state := 1, switching := some 0 })], movers := [(24, { Mover.reset with relocking := true })] }
     blockUp s = true ∧ (stackAt s 0).switching = some 0 ∧ stackIdle s 0 0 = true ∧ (Tbl.getD s.movers 24 .reset).relocking = true) := by
  decide +kernel
theorem test_s5_entry : after .s5Entry (s4 true) (fun t => t.bring.stage == 5 && !t.bring.boardwalk && (stackAt t 0).switching.isSome) = true ∧
    after .s5Entry (s4 false) (fun t => t.bring.stage == 4) = true := by decide +kernel
theorem test_confirm_timeout : after .profileConfirmTimeout (s4 false) (fun t => t.bring.stage == 5 && t.power.pinRate == 1) = true := by decide +kernel
theorem test_pin_rate : after (.stackPinRateSwitch 0 7) { full with stackTbl := [(0, { Stack.reset with state := 1, switching := some 0 })] }
    (fun t => (stackAt t 0).switching == none && (stackAt t 0).rate == 1) = true := by decide +kernel
theorem test_relock : after (.moverRelock 24 7) { full with movers := [(24, { Mover.reset with relocking := true })] }
    (fun t => !(Tbl.getD t.movers 24 .reset).relocking) = true := by decide +kernel

/-! Causeway. -/

/-- Ports 0 and 9 UP with engines; this device is 1, device 2 is reached by port 9. -/
def linked : State :=
  { full with
    straps := { full.straps with engines := 0x201 }
    cw := { full.cw with
      idValid := true, deviceId := 1, routes := [(2, { valid := true, hops := 4, timeout := 10, ports := 0x200 })]
      ports := [(0, { CPort.reset with state := 4, oeEn := true, laserEn := true, los := 0, farId := some 3 }),
        (9, { CPort.reset with state := 4, oeEn := true, laserEn := true, los := 0, farId := some 2 })] } }

/-- `linked` with port 0 as `f` makes it. -/
def port0 (f : CPort → CPort) : State := setCport 0 f linked

/-- The far end of an attempt that trains. -/
def far (id : BitVec 10) (valid enc : Bool) : PortTrain := { ok := true, farPort := 8, farId := id, farValid := valid, farEnc := enc, tlink := 50 }

theorem wit_PortsTrainAndSignal : let s := port0 fun x => { x with state := 2, attempts := 1 }
    blockUp s = true ∧ (cport s 0).state = 2 ∧ retryAttempts s false 0 = none ∧ (far 2 true false).ok = true ∧
      ((pentry s 0).enc ≠ (far 2 true true).farEnc ∧ (pentry s 0).enc = (far 2 true false).farEnc) ∧ s.cw.idValid = true ∧
      (let s4 := { s with bring := { s.bring with stage := 4, s4Exited := false } }
       s4.bring.stage = 4 ∧ s4.bring.s4Exited = false ∧ (cport s4 0).attempts = 1) ∧ s.bring.s4Exited = true := by decide +kernel
theorem test_port_up : after (.portTrainDone 0 (far 2 true false)) (port0 fun x => { x with state := 2 })
      (fun t => (cport t 0).state == 4 && (cport t 0).tlink == 50) = true ∧
    after (.portTrainDone 0 (far 2 true true)) (port0 fun x => { x with state := 2 }) (fun t => (cport t 0).state == 6) = true := by decide +kernel
theorem test_port_without_id : after (.portTrainDone 0 (far 2 false false)) (port0 fun x => { x with state := 2 })
    (fun t => (cport t 0).state == 3) = true := by decide +kernel
theorem test_port_timeout : after (.portTrainTimeout 0) (port0 fun x => { x with state := 2, attempts := 2 })
    (fun t => (cport t 0).state == 1) = true := by decide +kernel
theorem wit_port_signals : let s := port0 fun x => { x with state := 1, armed := true }
    (cport s 0).faultN = true ∧ carriesFlits s 0 = false ∧ carriesFlits linked 0 = true ∧ (cport s 0).oeEn = true ∧ cwTakes s 0 = true ∧
      inService s = true ∧ hasEngine s 0 = true ∧ (cport s 0).los = 0 ∧ (cport s 0).armed = true ∧
      (cport (port0 fun x => { x with armed := false }) 0).armed = false ∧ (cport linked 0).state = 4 := by decide +kernel
theorem test_light_watch : after (.lightWatchExpiry 0) (port0 fun x => { x with state := 1, armed := true })
    (fun t => (cport t 0).state == 2 && (cport t 0).attempts == 1) = true := by decide +kernel
theorem test_laser : after (.laserEnable 0) (port0 fun x => { x with laserEn := false }) (fun t => (cport t 0).laserEn) = true := by decide +kernel
theorem test_los : after (.cwLosChange 31 3) linked (fun t => (cport t 31).los == 3 && (cport t 31).armed) = true := by decide +kernel
theorem test_tlink : after (.tlinkMeasure 0 77) linked (fun t => (cport t 0).tlink == 77) = true := by decide +kernel
theorem wit_JoinRetries :
    let stk := fun (s : State) => ask s 0x130 0 []
    let prt := fun (s : State) (p : Nat) => ask s 0x130 0 [(0, 1), (8, p)]
    takes specJoinRetryStack (stk full) (fun s _ => s.bring.stage ≠ 3 ∧ (stackAt s 0).state = 1) = true ∧
    takes specJoinRetryStack (stk { full with stackTbl := [(0, { Stack.reset with state := 2, cattrip := true })] })
      (fun s _ => (stackAt s 0).state ≠ 1 ∧ (stackAt s 0).cattrip = true) = true ∧
    takes specJoinRetryStack (stk { full with stackTbl := [] }) (fun s _ => (stackAt s 0).cattrip = false) = true ∧
    takes specJoinRetryStack (stk (s3 0 0)) (fun s _ => s.bring.stage = 3) = true ∧
    takes specJoinRetryPort (prt linked 31) (fun s _ => hasEngine s 31 = false) = true ∧
    takes specJoinRetryPort (prt linked 0) (fun s _ => 3 ≤ (cport s 0).state) = true ∧
    takes specJoinRetryPort (prt (port0 fun x => { x with state := 1, faultN := false }) 0) (fun s _ => (cport s 0).faultN = false) = true ∧
    takes specJoinRetryPort (prt (port0 fun x => { x with state := 1 }) 0) (fun s _ => (cport s 0).state < 3 ∧ (cport s 0).faultN = true) = true := by
  decide +kernel
theorem test_join_waits : after (.joinRetryStack 0) (ask { full with stackTbl := [] } 0x130 0 [])
      (fun t => ((t.mbox[0]?).map Mbox.wait) == some (.joinStack 0 0)) = true ∧
    after (.joinRetryPort 0) (ask (port0 fun x => { x with state := 1 }) 0x130 0 [(0, 1)])
      (fun t => ((t.mbox[0]?).map Mbox.wait) == some (.joinPort 0 0) && (cport t 0).state == 2) = true := by decide +kernel
/-- A stack whose training a waiting JOIN_RETRY has begun. -/
def joining (n : Nat) : State :=
  let s := ask { full with stackTbl := [] } 0x130 0 []
  { s with mbox := updAt s.mbox 0 fun b => { b with wait := .joinStack 0 n } }
theorem wit_JoinRetries_end : inService (joining 0) = true ∧ (joining 0).bring.stage ≠ 3 ∧ (joining 1).mbox.length = 8 ∧
    ((joining 1).mbox[0]?).map (fun b => (b.busy, b.wait)) = some (true, .joinStack 0 1) ∧
    (((joining 1).mbox.drop 1).all fun b => !b.busy) = true := by decide +kernel
theorem test_join_fails : ends (.stackTrainTimeout 0) (joining 1) (fun t => (stackAt t 0).state == 3) = true ∧
    ends (.stackTrainAttemptDone 0 true ⟨16, [1, 2, 3]⟩) (joining 0) (fun t => (stackAt t 0).state == 1 && (stackAt t 0).rate == 1) = true := by decide +kernel
theorem wit_LinksAreLost : carriesFlits linked 0 = true ∧ blockUp linked = true ∧ (linked.cw.ports.all fun e => e.2.txq.isEmpty) = true ∧
    (cport linked 0).faultN = true ∧ mayExhaust (cport (port0 fun x => { x with retries := 16 }) 0) = true := by decide +kernel
theorem test_fault_darkens : after (.cwOeFault 0 false) linked (fun t => (cport t 0).state == 1 && !(cport t 0).oeEn && !(cport t 0).laserEn) = true := by
  decide +kernel
theorem test_loss_of_signal : after (.lossOfSignal 0) linked (fun t => (cport t 0).state == 1 && !(cport t 0).laserEn) = true ∧
    after (.replayExhausted 0) (port0 fun x => { x with retries := 16 }) (fun t => (cport t 0).state == 1) = true := by decide +kernel
theorem wit_LinkTimersAndRetry : cwTakes linked 0 = true ∧ carriesFlits linked 0 = true ∧
    (cport (port0 fun x => { x with ackDue := true }) 0).ackDue = true ∧ (cport linked 0).ackDue = false ∧
    (let x := cport (port0 fun x => { x with wanted := some 0, retries := 15 }) 0
     x.wanted.isSome = true ∧ x.retries < 16) ∧
    (let x := cport (port0 fun x => { x with txSeq := 2, replay := [5, 6] }) 0
     (1 + 4096 - oldestSeq x) % 4096 = 1 ∧ 1 < x.replay.length ∧ x.replay.length ≤ (2 + 4096 - oldestSeq x) % 4096) := by decide +kernel
theorem test_ack : after (.ackTimer 0) (port0 fun x => { x with ackDue := true, rxSeq := 7 }) (fun t =>
    (cport t 0).out.map (fun f => (flitType f, flitField f 36 12)) == [(2, 7)]) = true := by decide +kernel
theorem test_retry_resend : after (.retryResendTimer 0) (port0 fun x => { x with wanted := some 4, retries := 15, rxSeq := 4 }) (fun t =>
    (cport t 0).retries == 16 && (cport t 0).out.length == 1) = true := by decide +kernel
theorem test_replay : after (.retry 0 1) (port0 fun x => { x with txSeq := 2, replay := [5, 6] }) (fun t => (cport t 0).out == [6]) = true := by
  decide +kernel

/-- A packet from device 3 to `dst` with `hops` left: tag 2, window 3, offset 64. -/
def packetTo (dst hops op : Nat) (data : List Byte) : Packet :=
  { src := 3, dst := dst, hops := hops, vc := 0, hdr := packetHdr 0 op 2 (max 1 data.length) 3 64, data := data, job := none }
/-- Its one flit, as the far end sends it. -/
def flitTo (dst hops op : Nat) : BitVec 2048 := dressFlit State.reset 0 ((packetFlits (packetTo dst hops op [])).headD 0)

theorem wit_FlitsArrive : linked.inject = [] ∧ (cport linked 0).txq = [] ∧ (cport linked 0).wanted = none ∧ (pentry linked 0).enc = false ∧
    (let f := flitTo 1 4 opWriteAck
     flitType f = 1 ∧ flitField f 32 1 = 0 ∧ checkOk f = true ∧ flitField f 48 12 = (cport linked 0).rxSeq.toNat ∧ ownId linked (flitDst f) = true ∧
      flitSop f = true ∧ flitEop f = true ∧ malformed [f] = false ∧ checkOk (f ^^^ 1) = false) ∧ ownId linked (flitDst (flitTo 2 4 0)) = false ∧
    (let f := controlFlit linked 0 0 0 0
     flitType f = 2 ∧ checkOk f = true ∧ controlKind f = 0 ∧ checkOk (f ^^^ 1) = false) := by decide +kernel
theorem test_flit_accepted : after (.flitReceive 0 (flitTo 1 4 opWriteAck) false) linked (fun t =>
    (cport t 0).rxSeq == 1 && (cport t 0).inq.map Packet.op == [0x81]) = true := by decide +kernel
theorem test_flit_damaged : after (.flitReceive 0 (flitTo 1 4 opWriteAck ^^^ 1) false) linked (fun t =>
    (cport t 0).rxSeq == 0 && (cport t 0).wanted == some 0) = true := by decide +kernel
theorem test_control : after (.controlFlit 0 (controlFlit linked 0 0 0 0) false) (port0 fun x => { x with txSeq := 0, replay := [9] }) (fun t =>
    (cport t 0).replay.length ≤ 1) = true := by decide +kernel
theorem wit_FlitsForward : let f := flitTo 2 4 opWriteAck
    let s := port0 fun x => { x with fwd := [f] }
    (cport s 0).fwd = [f] ∧ cwTakes s 0 = true ∧ flitSop f = true ∧ 2 ≤ flitField f 28 4 ∧
      routeFor s (flitDst f) [flitField f 8 10, flitDst f, flitVc f] = some 9 ∧ (cport s 9).txq = [] ∧
      (let u := setCport 9 (fun x => { x with credits := [0, 0, 0, 0] }) s
       (cport u 9).credits.getD (flitVc (forwardedFlit u 9 f)) 0 = 0) ∧
      flitField (flitTo 2 1 opWriteAck) 28 4 < 2 ∧ isRequest (packetOf [flitTo 2 1 opWriteAck]).op = false := by decide +kernel
theorem test_forward : after (.flitForward 0) (port0 fun x => { x with fwd := [flitTo 2 4 opWriteAck] }) (fun t =>
    (cport t 0).fwd == [] && (cport t 9).out.map (fun f => flitField f 28 4) == [3]) = true := by decide +kernel
theorem test_forward_no_hops : after (.flitForward 0) (port0 fun x => { x with fwd := [flitTo 2 1 opWriteAck] }) (fun t =>
    (cport t 0).fwd == [] && (cport t 9).out == [] && counterOf t 6 0 1 == 1) = true := by decide +kernel
theorem wit_DeviceRoutesAndQueries : takes specDeviceIdSet (ask full 0x701 0 [(0, 1023)]) (fun s _ => !s.cw.idValid) = true ∧
    linked.cw.idValid = true ∧ takes specRouteDevice (ask full 0x702 0 [(16, 1), (0, 1023), (127, 1)]) any = true ∧
    takes specRoutePort (ask full 0x702 0 [(32, 1), (16, 1), (0, 31), (112, 0xFF), (104, 2)]) any = true ∧
    takes specLinkQuery (ask linked 0x720 1 [(0, 31)]) (fun _ c => c.fld 16 1 = 0) = true ∧
    takes specLinkQuery (ask linked 0x720 1 [(16, 1), (32, 2)])
      (fun s c => c.fld 16 1 = 1 ∧ (routeFor s (c.fld 32 10) [s.cw.deviceId, c.fld 32 10]).isSome = true) = true ∧
    takes specLinkQuery (ask linked 0x720 1 [(16, 1), (32, 7)])
      (fun s c => routeFor s (c.fld 32 10) [s.cw.deviceId, c.fld 32 10] == none) = true := by decide +kernel
theorem test_device_id : ends (.deviceIdSet 0) (ask full 0x701 0 [(0, 1023)]) (fun t => t.cw.idValid && t.cw.deviceId == 1023) = true := by
  decide +kernel
theorem test_routes : ends (.routeSetDevice 0) (ask full 0x702 0 [(16, 1), (0, 1023), (127, 1), (120, 3), (64, 5)])
      (fun t => Tbl.get? t.cw.routes 1023 == some ⟨true, 3, 1, 5⟩) = true ∧
    ends (.routeSetPort 0) (ask full 0x702 0 [(32, 1), (16, 1), (0, 31), (126, 1), (112, 0xFF), (104, 2)])
      (fun t => pentry t 31 == ⟨false, true, false, 0xFF, 2⟩) = true := by decide +kernel
/-- A LINK_QUERY that waits for its probe. -/
def probing : State := let s := ask linked 0x720 1 [(16, 1), (32, 2)]
  { s with mbox := updAt s.mbox 0 fun b => { b with wait := .probe 0 2 } }
theorem wit_probe : ((probing.mbox[0]?).map fun b => (b.busy, b.wait)) = some (true, .probe 0 2) ∧ mgmtRuns probing = true ∧
    (40 : Word32).toNat ≠ 0xFFFFFFFF := by decide +kernel
theorem test_probe : after (.linkQuery 0) (ask linked 0x720 1 [(16, 1), (32, 2)]) (fun t => (cport t 9).out.length == 1) = true ∧
    ends (.linkProbeAnswer 0 40) probing (fun t => t.cw.paths == [(2, 40)]) = true ∧
    ends (.probeTimeout 0) probing (fun t => t.cw.paths == []) = true := by decide +kernel

/-! Mailbox commands: of each, a command that its row accepts with the case of the statement, and what it does. -/

/-- A command of job 1, or of the system, on `full`. -/
def j1 (op : Nat) (l : List (Nat × Nat)) : State := ask full op 1 l
def j0 (op : Nat) (l : List (Nat × Nat)) : State := ask full op 0 l

theorem wit_QueriesOnlyAnswer : takes specNop (j1 0x100 []) any = true ∧ takes specIdentify (j1 0x101 []) any = true ∧
    takes specRingQuery (j1 0x203 []) any = true ∧ takes specStreamQuery (j1 0x215 [(0, 5)]) any = true ∧
    takes specTableQuery (j1 0x404 [(0, 7)]) any = true ∧ takes specQueueQuery (j1 0x614 [(0, 1)]) any = true ∧
    takes specWindowQuery (j1 0x712 [(0, 4095)]) any = true ∧ takes specMirrorQuery (j1 0x804 []) any = true ∧
    takes specPowerQuery (j1 0x902 []) any = true ∧ takes specMarginQuery (j1 0x903 [(0, 224)]) any = true ∧
    takes specPeatStatus (j1 0xA11 []) any = true ∧ takes specCounterRead (j1 0xA10 [(24, 28)]) (fun _ c => c.fld 24 8 ≤ 28) = true ∧
    takes specInjectQuery (j1 0xA03 []) (fun s _ => s.inject.length ≤ 16) = true ∧ takes specJobQuery (j1 0x104 [(0, 1)]) any = true ∧
    takes (specXlateQuery .quiet) (j1 0x305 [(72, 2)]) (fun _ c => c.fld 72 2 = 2) = true ∧
    takes (specXlateQuery .quiet) (j1 0x305 [(0, 0x1000)]) (fun _ c => c.fld 72 2 ≠ 2) = true := by decide +kernel
theorem test_queries : ([(.nop 0, j1 0x100 []), (.identify 0, j1 0x101 []), (.ringQuery 0, j1 0x203 []), (.streamQuery 0, j1 0x215 [(0, 5)]),
    (.tableQuery 0, j1 0x404 []), (.queueQuery 0, j1 0x614 []), (.windowQuery 0, j1 0x712 [(0, 3)]), (.mirrorQuery 0, j1 0x804 []),
    (.powerQuery 0, j1 0x902 []), (.marginQuery 0, j1 0x903 []), (.peatStatus 0, j1 0xA11 []), (.counterRead 0, j1 0xA10 [(24, 1)]),
    (.injectQuery 0, j1 0xA03 []), (.xlateQuery 0 .quiet, j1 0x305 [(72, 2)]), (.jobQuery 0, j1 0x104 [(0, 1)])] : List (Instr × State)).all
      (fun e => ends e.1 e.2 fun t => t.rings == e.2.rings && t.streams == e.2.streams && t.mem == e.2.mem) = true := by decide +kernel
theorem test_query_of_another_job : names specStreamQuery (ask { full with jobs := (2, { res := [], releasing := false }) :: full.jobs } 0x215 2 [(0, 5)]) 2
    = true := by decide +kernel

theorem wit_PathObjectsAreCreated :
    takes specRingCreate (j1 0x201 [(112, 0xFFFF), (104, 4), (96, 1), (80, 2), (74, 8), (0, 0x5000)]) (fun s c => mayCreate s c.job resRings 1) = true ∧
    takes specRingCreate (ask { full with jobs := [(1, { res := [0, 0, 0, 0, 0, 0, 0, 0, 0], releasing := false })] } 0x201 1
      [(112, 4095), (104, 4), (96, 1), (80, 2), (74, 8), (0, 0x5000)]) (fun s c => !mayCreate s c.job resRings 1) = true ∧
    takes specStreamAlloc (j1 0x210 [(96, 0xFFFFFFFF), (48, 8), (24, 1)]) (fun s c => mayCreate s c.job resStreams 1) = true ∧
    takes specTableNew (j1 0x403 [(0, 7)]) (fun s c => mayCreate s c.job resTables 1) = true ∧
    takes specBaseRegister (j1 0x401 [(96, 16)]) (fun s _ => (Tbl.firstFree s.bases 1 255).isSome) = true := by decide +kernel
theorem test_ring_create : ends (.ringCreate 0) (j1 0x201 [(112, 0xFFFF), (104, 4), (96, 1), (80, 2), (74, 8), (0, 0x5000)])
      (fun t => (Tbl.get? t.rings 1).map (fun r => (r.state, r.base, r.sizeLog2)) == some (1, 0x5000, 4)) = true ∧
    names specRingCreate (j1 0x201 [(112, 4096)]) 1 = true := by decide +kernel
theorem test_stream_alloc : ends (.streamAlloc 0) (j1 0x210 [(96, 0xFFFFFFFF), (48, 8), (24, 3)])
      (fun t => (Tbl.get? t.streams 0).map (fun x => (x.state, x.weight, x.high)) == some (stIdle, 3, 8)) = true ∧
    ends (.streamAlloc 0) (j1 0x210 [(96, 9), (24, 99)]) (fun t => (Tbl.get? t.streams 9).map Stream.weight == some 16) = true := by decide +kernel
theorem test_table_new : ends (.tableLoadNew 0) (j1 0x403 [(0, 0xFF), (64, 5)]) (fun t => (Tbl.get? t.tables 1).map TblSlot.table == some 5) = true := by
  decide +kernel
theorem test_base_register : ends (.baseRegister 0) (j1 0x401 [(96, 16)]) (fun t => (Tbl.get? t.bases 2).map Base.blocks == some 16) = true := by decide +kernel

theorem wit_SharedObjectsAreCreated :
    takes specMereAlloc (j1 0x601 [(100, 0xFFFFFFF), (80, 1), (72, 12), (41, 1)]) (fun s c => mayCreate s c.job resMere 1) = true ∧
    takes specMereAlloc (j1 0x601 [(100, 0xFFFFFFF), (80, 65536), (72, 12), (41, 1)]) (fun s c => lowestRun s (c.fld 80 17) 1 == none) = true ∧
    takes specQueueCreate (j1 0x610 [(100, 0x5000), (84, 4), (68, 16), (32, 1)]) (fun s c => mayCreate s c.job resQueues 1) = true ∧
    takes specCombineCreate (j1 0x613 [(164, 0x5000), (147, 64), (128, 2), (112, 16), (48, 16383), (96, 10)])
      (fun s c => mayCreate s c.job resQueues 1) = true ∧
    takes specWindowOpen (j1 0x710 [(240, 4095), (232, 1), (230, 3), (197, 4), (164, 1), (0, 0x6000)]) (fun s c => mayCreate s c.job resWindows 1) = true ∧
    takes specQntBind (j1 0x501 [(224, 0x3F800000), (192, 0x3F800000), (160, 8192), (144, 1), (96, 1), (64, 5)])
      (fun s c => c.fld 160 16 ≤ chanFree s 0 ∧ c.fld 144 16 * c.fld 96 4 ≤ historyFree s 0) = true := by decide +kernel
theorem test_mere_alloc : ends (.mereAlloc 0) (j1 0x601 [(100, 0xFFFFFFF), (80, 2), (72, 13), (41, 1)])
      (fun t => (Tbl.get? t.allocs 16).map MereAlloc.pages == some 2) = true ∧
    names specMereAlloc (j1 0x601 [(100, 0xFFFFFFF), (80, 1), (41, 3)]) 9 = true := by decide +kernel
theorem test_queue_create : ends (.queueCreate 0) (j1 0x610 [(100, 0x5000), (84, 4), (32, 1)])
    (fun t => (Tbl.get? t.queues 2).map (fun q => (q.state, q.depth, q.storm)) == some (qOpen, 4, 16)) = true := by decide +kernel
theorem test_combine_create : ends (.combineCreate 0) (j1 0x613 [(164, 0x5000), (147, 65), (128, 2), (32, 1), (96, 1)])
    (fun t => (Tbl.get? t.queues 2).map (fun q => (q.state, q.size)) == some (qArmed, 128)) = true := by decide +kernel
theorem test_window_open : ends (.windowOpen 0) (j1 0x710 [(240, 0xFFFF), (232, 1), (230, 3), (197, 4), (164, 1), (0, 0x6000)])
      (fun t => (Tbl.get? t.cw.windows 0).map (fun x => (x.state, x.srcCount)) == some (wdOpen, 4)) = true ∧
    names specWindowOpen (j1 0x710 [(240, 0xFFFF), (232, 1), (197, 4), (164, 1)]) 4 = true := by decide +kernel
theorem test_bind : ends (.qntConfigBind 0) (j1 0x501 [(224, 0x3F800000), (192, 0x3F800000), (144, 1), (96, 1), (64, 5), (10, 2)])
    (fun t => (Tbl.get? t.bindings 2).map Binding.stream == some 5) = true := by decide +kernel

/-- `full` with sixteen armings, or one of an arming at point 1 of bank 0. -/
def armed (n : Nat) : State :=
  { full with inject := (List.range n).map fun u => { point := 1, unit := u, arg := 0, skip := 0, times := 1, forever := false, fired := 0, cmdSeq := 0 } }
theorem wit_JobsKeysAndArmings :
    takes specJobAdmit (j0 0x102 [(248, 15), (208, 4)]) (fun s c => jobFor s (c.fld 248 8) == some 15) = true ∧
    takes specJobAdmit (j0 0x102 [(208, 16384)]) (fun s _ => decide (resFree s 0 < 16384)) = true ∧
    takes specJobAdmit (j0 0x102 [(248, 1)]) (fun s c => jobFor s (c.fld 248 8) == none) = true ∧
    takes specKeyLoad (j1 0x410 [(0, 0xFF), (64, 1), (320, 2)]) (fun s c => mayCreate s c.job resKeys 1) = true ∧
    takes specKeyLoad (j1 0x410 [(0, 0xFF), (10, 1)]) any = true ∧
    takes specKeyLoad (ask { full with jobs := [(1, { res := [], releasing := false })] } 0x410 1 [(0, 15), (64, 1), (320, 2)])
      (fun s c => !mayCreate s c.job resKeys 1) = true ∧
    takes specInjectArm (ask (armed 16) 0xA01 0 [(0, 2)]) (fun s _ => decide (16 ≤ s.inject.length)) = true ∧
    takes specInjectArm (ask (armed 15) 0xA01 0 [(0, 2)]) (fun s _ => s.inject.all fun x => x.point != 0x37) = true ∧
    takes specInjectDisarm (ask (armed 1) 0xA02 0 [(0, 1)]) (fun s _ => s.inject.all fun x => x.point != 0x37) = true := by decide +kernel
theorem test_job_admit : ends (.jobAdmit 0) (j0 0x102 [(208, 4)]) (fun t => (Tbl.get? t.jobs 2).map (fun j => j.res.getD 0 0) == some 4) = true ∧
    ends (.jobAdmit 0) (j0 0x102 [(208, 16384)]) (fun t => t.jobs == full.jobs) = true := by decide +kernel
theorem test_key_load : ends (.keyLoad 0) (j1 0x410 [(0, 0xFF), (64, 1), (320, 2)])
      (fun t => (Tbl.get? t.keys 1).map (fun k => (k.state, k.job, k.lo, k.hi)) == some (1, 1, 1, 2) &&
        ((t.mbox[0]?).map fun b => fld b.cmd.toNat 320 512) == some 0) = true ∧
    names specKeyLoad (j1 0x410 [(0, 0xFF), (64, 2), (320, 2)]) 1 = true := by decide +kernel
theorem test_arm : ends (.injectArm 0) (ask (armed 1) 0xA01 0 [(0, 1), (64, 3)]) (fun t => t.inject.map Arming.times == [3]) = true ∧
    ends (.injectArm 0) (ask (armed 16) 0xA01 0 [(0, 2)]) (fun t => t.inject == (armed 16).inject) = true := by decide +kernel
theorem test_disarm : ends (.injectDisarm 0) (ask (armed 2) 0xA02 0 [(0, 1), (32, 1)]) (fun t => t.inject.map Arming.unit == [0]) = true := by decide +kernel

/-- `full` with stream 5 as `f` makes it. -/
def stream5 (f : Stream → Stream) : State := { full with streams := full.streams.mapV fun _ x => f x }
/-- Stream 5 halted at the entry at position 0 of ring 0. -/
def halted : State :=
  { stream5 fun x => { x with state := stHalted, haltStatus := stUnmapped, faultAddr := 0x40, mover := 3, ring := 0, entryPos := 0 } with
    rings := full.rings.mapV fun _ r => { r with head := 1, tail := 1, entries := [
      { pos := 0, granules := 1, w0 := BitVec.ofNat 64 (bits [(0, 1), (8, 1), (16, 5)]), body := [], st := .started, tableRef := none,
        baseRef := none, shared := false }] } }
/-- Table slot 0 with `refs` references and, where `old`, a generation that retires. -/
def table0 (refs : Nat) (old : Bool) : State :=
  { full with tables := [(0, { job := 1, gen := 15, table := 0, refs := refs, retiring := if old then some ⟨14, 1, 1, 9⟩ else none })] }
theorem wit_PathObjectsChange :
    takes specRingDestroy (j1 0x202 []) any = true ∧ takes specStreamFree (j1 0x211 [(0, 5)]) any = true ∧
    takes specStreamResume (ask halted 0x212 1 [(0, 5)]) (fun s _ => (Tbl.get? s.streams 5).map Stream.state = some stHalted) = true ∧
    takes specStreamAbort (ask halted 0x213 1 [(0, 5)]) (fun s _ => (Tbl.get? s.streams 5).map Stream.state = some stHalted) = true ∧
    takes specStreamResume (j1 0x212 [(0, 5)]) (fun s _ => (Tbl.get? s.streams 5).map Stream.state ≠ some stHalted) = true ∧
    takes specStreamDisableSet (j1 0x214 [(0, 5), (32, 1)]) any = true ∧ takes specStreamDisableClear (j1 0x214 [(0, 5)]) any = true ∧
    takes specTableReplace (ask (table0 1 false) 0x403 1 [(8, 1)]) any = true ∧
    takes specTableReplace (ask (table0 1 true) 0x403 1 [(8, 1)]) (fun s _ => ((Tbl.get? s.tables 0).bind TblSlot.retiring).isSome) = true ∧
    takes specTableFree (ask (table0 0 false) 0x403 1 [(8, 2)]) any = true ∧
    takes specTableFree (ask (table0 0 true) 0x403 1 [(8, 2)]) (fun s _ => ((Tbl.get? s.tables 0).bind TblSlot.retiring).isSome) = true ∧
    takes specBaseRelease (j1 0x402 [(0, 1)]) any = true ∧ takes specKeyClear (j1 0x411 [(0, 3)]) any = true := by decide +kernel
theorem wit_stream_entries : (Tbl.get? halted.streams 5).map (fun x => (x.state, x.ring, x.entryPos)) = some (stHalted, 0, 0) ∧
    (entryOf halted 0 0).map RingEntry.st = some .started ∧ (∀ x ∈ (Tbl.get? full.streams 5).toList, ¬ (2 ≤ x.state ∧ x.state ≤ 4)) ∧
    ((Tbl.get? (stream5 fun x => { x with waiting := [(0, 0)] }).streams 5).map Stream.waiting) = some [(0, 0)] := by decide +kernel
theorem test_ring_destroy : ends (.ringDestroy 0) (j1 0x202 []) (fun t => t.rings == []) = true := by decide +kernel
theorem test_stream_free : ends (.streamFree 0) (j1 0x211 [(0, 5)]) (fun t => t.streams == [] && Tbl.get? t.streamGen 5 == some 1) = true ∧
    names specStreamFree (j1 0x211 [(0, 5), (20, 1)]) 2 = true := by decide +kernel
theorem test_resume : ends (.streamResume 0) (ask halted 0x212 1 [(0, 5)])
    (fun t => (Tbl.get? t.streams 5).map Stream.state == some stQueued && Tbl.getD t.admission 0 [] == [5]) = true := by decide +kernel
theorem test_abort : ends (.streamAbort 0) (ask halted 0x213 1 [(0, 5)]) (fun t => (Tbl.get? t.streams 5).map Stream.state == some stIdle &&
    (match (entryOf t 0 0).map RingEntry.st with | some (.held c) => c.status == stUnmapped && c.faultAddr == 0x40 | _ => false)) = true := by decide +kernel
theorem test_disable : ends (.streamDisableSet 0) (j1 0x214 [(0, 5), (32, 1)]) (fun t => (Tbl.get? t.streams 5).map Stream.disable == some true) = true ∧
    ends (.streamDisableClear 0) (ask (stream5 fun x => { x with disable := true }) 0x214 1 [(0, 5)])
      (fun t => (Tbl.get? t.streams 5).map Stream.disable == some false) = true := by decide +kernel
theorem test_table_replace : ends (.tableLoadReplace 0) (ask (table0 1 false) 0x403 1 [(8, 1), (64, 8)]) (fun t =>
    (Tbl.get? t.tables 0).map (fun x => (x.gen, x.table, x.refs, x.retiring.map Retiring.gen)) == some (0, 8, 0, some 15)) = true := by decide +kernel
theorem test_table_free : ends (.tableLoadFree 0) (ask (table0 0 false) 0x403 1 [(8, 2)]) (fun t => t.tables == []) = true ∧
    ends (.tableLoadFree 0) (ask (table0 1 false) 0x403 1 [(8, 2)]) (fun t => t.tables == (table0 1 false).tables) = true := by decide +kernel
theorem test_base_release : ends (.baseRelease 0) (j1 0x402 [(0, 1)]) (fun t => t.bases == []) = true := by decide +kernel
theorem test_key_clear : ends (.keyClear 0) (j1 0x411 [(0, 3)]) (fun t => t.keys.map Prod.fst == [0, 2]) = true := by decide +kernel

/-- `full` with a binding of stream 5 to engine 0 of core 0. -/
def bound : State := { full with bindings := [(0, newBinding full (bits [(224, 0x3F800000), (144, 1), (96, 1), (64, 5)]))] }
/-- `full` as a member of a pair: its role and state of synchronisation. -/
def paired (role sync : Nat) : State :=
  { linked with mirror := { Mirror.reset with
    paired := true, role := role, syncState := sync, partner := 2, service := 9, hbPeriod := 10, missCount := 3, lagMib := 1, portA := 0
    portB := 9, withy := true, fabric := true } }
/-- Ports 0 and 9 as MIRROR_PAIR asks for them: UP, encrypted, the partner's. -/
def pairable : State :=
  { linked with
    cw := { linked.cw with
      ports := linked.cw.ports.mapV fun _ x => { x with farId := some 2 }
      entries := [(0, { PEntry.reset with enc := true, slot0 := 2 }), (9, { PEntry.reset with enc := true, slot0 := 2 })] } }
def pairBody : List (Nat × Nat) := [(96, 1), (80, 9), (64, 2), (48, 10), (40, 3), (32, 1), (21, 9)]
theorem wit_SharedObjectsChange :
    takes specCorePortMap (j0 0x108 [(16, 1), (0, 1023), (63, 1), (53, 1), (44, 16), (39, 4)]) any = true ∧
    takes specQntUnbind (ask bound 0x501 1 [(16, 1)]) any = true ∧
    takes (specScaleLoad .quiet) (j1 0x502 [(72, 0x5000), (59, 2), (44, 4094)]) (fun s _ => (readMereSpan .quiet 0xC 300 0x5000 8 s).fail == false) = true ∧
    takes (specScaleLoad .quiet) (ask { full with mem := { full.mem with mereBad := [0x1400] } } 0x502 1 [(72, 0x5000), (59, 2)])
      (fun s _ => (readMereSpan .quiet 0xC 300 0x5000 8 s).fail) = true ∧
    takes specScaleRelease (j1 0x502 [(40, 1), (59, 256)]) any = true ∧ takes specQntStats (ask bound 0x503 1 []) any = true ∧
    takes specQntThreshold (ask bound 0x504 1 []) any = true ∧ takes specQueueClose (j1 0x611 [(24, 1)]) any = true ∧
    takes specQueueResetReader (j1 0x612 [(0, 1)]) any = true ∧ takes specWindowClose (j1 0x711 [(0, 3)]) (fun s _ =>
      (windowAt s 3).any fun x => x.state != wdClosed) = true ∧
    takes specWindowClose (ask { full with cw := { full.cw with windows := full.cw.windows.mapV fun _ x => { x with state := wdClosed } } } 0x711 1
      [(0, 3), (16, 1)]) (fun s _ => (windowAt s 3).any fun x => x.state == wdClosed) = true ∧
    takes specMirrorPair (ask pairable 0x801 0 pairBody) (fun s _ => !Tbl.has s.cw.windows 4095 && s.mirror.role == roleSolo) = true ∧
    takes specMirrorPair (ask { pairable with cw := { pairable.cw with windows := pairable.cw.windows ++ [(4095, newWindow (cmdFor 0 1) 4095)] } } 0x801 0
      pairBody) (fun s _ => Tbl.has s.cw.windows 4095) = true ∧
    takes specMirrorUnpair (ask (paired rolePrimary syncInSync) 0x802 0 []) (fun s _ => s.mirror.paired) = true := by decide +kernel
theorem wit_SharedObjectsChange_more :
    takes specMirrorPromote (ask (paired rolePrimary syncInSync) 0x803 0 [(0, 1)]) (fun s _ => !maxEpoch s && s.mirror.role == rolePrimary) = true ∧
    takes specMirrorPromote (ask (paired roleMirror syncInSync) 0x803 0 [(0, 1)]) (fun s _ => !maxEpoch s && s.mirror.role != rolePrimary) = true ∧
    takes specMirrorPromote (ask { paired roleMirror syncInSync with mirror := { (paired roleMirror syncInSync).mirror with epoch := 0xFFFFFFFF } } 0x803 0 [])
      (fun s _ => maxEpoch s) = true ∧
    takes specCoolConfirm (j0 0x901 []) any = true ∧ takes specMarginReplan (j0 0x904 []) (fun s _ => planDone (makePlan 3 s)) = true ∧
    takes specMarginReplan (ask { full with power := { full.power with plans := [(0, { IslandPlan.reset with target := 5 })] } } 0x904 0 []) (fun s _ => !planDone (makePlan 3 s)) = true ∧
    (∃ q ∈ (queueAt full 0).toList, q.freePending = false ∧ fillOfQueue q = 0) ∧ (paired roleMirror syncInSync).mirror.paired = true ∧
    Tbl.sorted full.queues = true ∧ Tbl.sorted Quantiser.reset.scales = true := by decide +kernel
theorem test_core_map : ends (.corePortMap 0) (j0 0x108 [(16, 1), (0, 1023), (63, 1), (53, 1), (44, 16), (39, 4)]) (fun t =>
    Tbl.get? t.cores 1023 == some ⟨true, 0, 1, 16, 4⟩ && Tbl.getD (portAt t 0).credit 7 0 == 16) = true := by decide +kernel
theorem test_unbind : ends (.qntConfigUnbind 0) (ask bound 0x501 1 [(16, 1)]) (fun t => t.bindings == []) = true := by decide +kernel
theorem test_scale_load : ends (.scaleLoadLoad 0 .quiet) (ask { full with mem := { full.mem with mere := [(0x5000, 7), (0x5005, 1)] } } 0x502 1
      [(72, 0x5000), (59, 2), (44, 4094)]) (fun t => regAt (quantAt t 0) 4094 == 7 && regAt (quantAt t 0) 4095 == 256) = true ∧
    ends (.scaleLoadRelease 0) (ask { full with quants := [(0, { Quantiser.reset with blocks := [(0, 1)], scales := [(3, 9)] })] } 0x502 1
      [(40, 1), (59, 256)]) (fun t => (quantAt t 0).blocks == [] && regAt (quantAt t 0) 3 == 0) = true := by decide +kernel
theorem test_quantiser_counts : ends (.qntStats 0) (ask { bound with bindings := bound.bindings.mapV fun _ b => { b with rows := 4 } } 0x503 1 [(64, 1)])
      (fun t => (Tbl.get? t.bindings 0).map Binding.rows == some 0) = true ∧
    ends (.qntThreshold 0) (ask bound 0x504 1 [(32, 50)]) (fun t => (Tbl.get? t.bindings 0).map Binding.threshold == some 50) = true := by decide +kernel
theorem test_queue_close : ends (.queueClose 0) (j1 0x611 [(25, 1)]) (fun t => !Tbl.has t.queues 0 && queueGenOf t 0 == 1) = true ∧
    ends (.queueResetReader 0) (j1 0x612 [(0, 1)]) (fun t => (queueAt t 1).map Queue.state == some qArmed && queueGenOf t 1 == 1) = true := by decide +kernel
theorem test_window_close : after (.windowClose 0) (j1 0x711 [(0, 3)]) (fun t => (windowAt t 3).map Window.state == some wdClosing &&
    ((t.mbox[0]?).map Mbox.wait) == some (.windowClose 3)) = true := by decide +kernel
theorem test_pair : ends (.mirrorPair 0) (ask pairable 0x801 0 pairBody)
      (fun t => t.mirror.paired && (cport t 0).state == 5 && (cport t 9).state == 5) = true ∧
    ends (.mirrorUnpair 0) (ask (paired rolePrimary syncInSync) 0x802 0 []) (fun t => t.mirror == .reset) = true := by decide +kernel
theorem test_promote : ends (.mirrorPromote 0) (ask (paired roleMirror syncInSync) 0x803 0 [(0, 1)])
    (fun t => t.mirror.role == rolePrimary && t.mirror.epoch == 1) = true := by decide +kernel
theorem test_cool : ends (.coolConfirm 0) (j0 0x901 []) (fun t => t.power.confirmed && t.power.capW == 170) = true ∧
    ends (.marginReplan 0) (j0 0x904 []) (fun t => t.power.plan == 1) = true := by decide +kernel

/-- `full` with 1 MiB more of allocations, and a mover that is translating a tile of page 0 when `t`. -/
def free1 : State := { full with allocs := full.allocs ++ [(100, { pages := 2, job := 1, firstCore := 0, coreCount := 0, perm := 0, withdrawing := false })] }
def mapBody (n va pa : Nat) : List (Nat × Nat) := [(240, n), (228, 1), (193, 1), (192, 1), (160, 1), (64, pa), (0, va)]
/-- A withdrawal of page 0 that waits for mover 24. -/
def wd24 : State :=
  let w := { baseWd { m := 0, op := 0x304, tag := 0, seq := 1, job := 0, body := 0 } .paged 0 1 none with id := 7, drained := [(768, 0)], acks := [24] }
  let s := ask full 0x304 0 [(64, 1)]
  { s with mbox := updAt s.mbox 0 fun b => { b with wait := .withdrawal 7 }, xlate := { full.xlate with wds := [w], nextWd := 8 } }
theorem wit_WithdrawalsDrain :
    takes specRangeMap (j1 0x301 (mapBody 1023 0x200000 0x200000)) (fun s c => vaClash s (bodyRange c.body) == none && paClash s (bodyRange c.body) == none &&
      mayCreate s 1 resRanges 1) = true ∧
    takes specRangeMap (j1 0x301 (mapBody 1 0 0x200000)) (fun s c => vaClash s (bodyRange c.body) == some 0) = true ∧
    takes specRangeMap (ask full 0x301 0 [(240, 1), (193, 1), (192, 1), (160, 1), (64, 0), (0, 0x200000)])
      (fun s c => vaClash s (bodyRange c.body) == none && paClash s (bodyRange c.body) == some 0) = true ∧
    takes specRangeMap (ask { full with jobs := [(1, { res := [], releasing := false })] } 0x301 1 (mapBody 1 0x200000 0x200000))
      (fun s c => vaClash s (bodyRange c.body) == none && paClash s (bodyRange c.body) == none && !mayCreate s 1 resRanges 1) = true ∧
    takes specRangeUnmap (ask { full with bases := [] } 0x302 1 []) (fun s _ => (Tbl.get? s.xlate.ranges 0).isSome) = true ∧
    takes specPageRootSet (j0 0x303 [(64, 1), (0, 0x300000)]) any = true ∧ takes specWithdraw (j1 0x304 [(64, 1)]) any = true ∧
    takes specMereFree (ask free1 0x602 1 [(0, 100 * 4096)]) (fun s c => (Tbl.get? s.allocs (c.fld 0 28 / 4096)).isSome) = true ∧
    (∀ x ∈ full.xlate.wds, x.id ≠ full.xlate.nextWd) := by decide +kernel
theorem wit_withdrawal_quiet : let w := baseWd { m := 0, op := 0x304, tag := 0, seq := 1, job := 0, body := 0 } .paged 0 1 none
    drainList full w = [] ∧ coreDrains full w = false := by decide +kernel
theorem wit_withdrawal_acks : wd24.xlate.wds.map Wd.acks = [[24]] ∧ mgmtRuns wd24 = true ∧ (24 : Fin 96).val = 24 ∧
    (wd24.xlate.wds.all fun w => !stillDrains wd24 24 w && !coreDrains wd24 w) = true := by decide +kernel
theorem test_range_map : ends (.rangeMap 0) (j1 0x301 (mapBody 1023 0x200000 0x200000)) (fun t => (Tbl.get? t.xlate.ranges 1023).map RangeEntry.va == some 0x200000) = true ∧
    ends (.rangeMap 0) (j1 0x301 (mapBody 1 0 0x200000)) (fun t => t.xlate.ranges == full.xlate.ranges) = true := by decide +kernel
theorem test_range_unmap : ends (.rangeUnmap 0) (ask { full with bases := [] } 0x302 1 []) (fun t => t.xlate.ranges == []) = true := by decide +kernel
theorem test_page_root : ends (.pageRootSet 0) (j0 0x303 [(64, 1), (0, 0x300000)]) (fun t => t.xlate.enable && t.xlate.root == 0x300000) = true := by decide +kernel
theorem test_withdraw : ends (.withdraw 0) (j1 0x304 [(64, 1)]) (fun t => t.xlate.wds == [] && t.xlate.ranges == full.xlate.ranges) = true ∧
    names specWithdraw (j1 0x304 []) 2 = true := by decide +kernel
theorem test_mere_free : ends (.mereFree 0) (ask free1 0x602 1 [(0, 100 * 4096)]) (fun t => t.allocs == full.allocs) = true := by decide +kernel
theorem test_last_drain : ends (.moverDrainAck 24) wd24 (fun t => t.xlate.wds == []) = true ∧
    after (.moverDrainAck 25) wd24 (fun t => t == wd24) = true := by decide +kernel

/-- Job 1 being released, its command waiting, with nothing of it left or all of `full`. -/
def releasing (s : State) : State :=
  let t := ask s 0x103 0 [(0, 1)]
  { t with mbox := updAt t.mbox 0 fun b => { b with wait := .release 1 }, jobs := [(1, { res := [64, 8], releasing := true })] }
def closing (n : Nat) : State :=
  let s := ask { full with cw := { full.cw with windows := full.cw.windows.mapV fun _ x => { x with state := wdClosing, inFlight := n } } } 0x711 1 [(0, 3)]
  { s with mbox := updAt s.mbox 0 fun b => { b with wait := .windowClose 3 } }
theorem wit_ReleasesAndCloses :
    takes specJobRelease (ask full 0x103 0 [(0, 1)]) (fun s _ => (Tbl.get? s.jobs 1).map Job.releasing = some false ∧
      releaseDrained (beginRelease 1 s) 1 = false) = true ∧
    takes specJobRelease (ask { full with jobs := [(1, { res := [64, 8], releasing := true })] } 0x103 0 [(0, 1)])
      (fun s _ => (Tbl.get? s.jobs 1).map Job.releasing = some true ∧ releaseDrained s 1 = false) = true ∧
    (let s := releasing { svc with tables := full.tables }
     ((s.mbox[0]?).map fun b => (b.busy, b.wait)) = some (true, .release 1) ∧ mgmtRuns s = true ∧ s.rings = [] ∧ s.xlate.wds = []) ∧
    ((closing 0).mbox[0]?).map (fun b => (b.busy, b.wait)) = some (true, .windowClose 3) ∧
    (windowAt (closing 0) 3).map (fun x => (x.state, x.inFlight)) = some (wdClosing, 0) ∧ (windowAt (closing 1) 3).map Window.inFlight = some 1 := by
  decide +kernel
theorem test_release : ends (.jobRelease 0) (releasing { svc with tables := full.tables }) (fun t => t.jobs == [] && t.tables == []) = true := by decide +kernel
theorem test_close_drained : ends (.windowCloseDrained 3) (closing 0) (fun t => (windowAt t 3).map Window.state == some wdClosed) = true ∧
    after (.windowCloseDrained 3) (closing 1) (fun t => t == closing 1) = true := by decide +kernel

/-- FUNCTION_RESET of `f` in quarter `q`. -/
def fnReset (f q : Nat) : State := ask full 0x120 0 [(0, f), (8, q)]
/-- The same with that reset already running, or at its end. -/
def inReset (f q : Nat) (fn : Fn) : State := { fnReset f q with resets := [{ fn := fn, mboxes := [1], rings := [(0, 0)] }] }
theorem wit_FunctionsReset : takes specResetMover (fnReset 0 3) (fun s c => c.fld 0 8 = 0 ∧ isResetting s (.mover 3) = false ∧ s.xlate.wds = []) = true ∧
    takes specResetExpander (fnReset 1 3) any = true ∧ takes specResetQuantiser (fnReset 2 3) any = true ∧ takes specResetSlice (fnReset 3 3) any = true ∧
    takes specResetCauseway (fnReset 4 3) any = true ∧ takes specResetTranslation (fnReset 8 0) any = true ∧
    takes specResetMere (fnReset 9 0) any = true ∧ takes specResetManagement (fnReset 10 0) any = true ∧
    takes specResetMover (inReset 0 0 (.mover 0)) (fun s _ => isResetting s (.mover 0)) = true ∧ inService full = true ∧ fnTakes full .mere = true := by
  decide +kernel
theorem wit_reset_ends : let s := { inReset 0 0 (.mover 0) with resets := [{ fn := .mover 0, mboxes := [0], rings := [] }] }
    (s.resets.find? fun x => x.fn == .mover 0).isSome = true ∧ blockUp s = true ∧ s.xlate.wds = [] ∧
      (Tbl.get? full.rings 0).map Ring.entries = some [] ∧ jobReleasing full 1 = false := by decide +kernel
theorem test_function_resets : ([(.functionResetMover 0, 0, .mover 1), (.functionResetExpander 0, 1, .expander 1), (.functionResetQuantiser 0, 2, .quantiser 1),
    (.functionResetQueueSlice 0, 3, .slice 1), (.functionResetCauseway 0, 4, .causeway 1), (.functionResetTranslation 0, 8, .translation),
    (.functionResetMere 0, 9, .mere), (.functionResetManagement 0, 10, .management)] : List (Instr × Nat × Fn)).all (fun e =>
      after e.1 (fnReset e.2.1 1) fun t => isResetting t e.2.2 && ((t.mbox[0]?).map Mbox.wait) == some (.reset e.2.2)) = true := by decide +kernel
theorem test_function_reserved : names specResetMover (fnReset 5 0) 3 = true := by decide +kernel
theorem test_reset_done : ends (.functionResetDone (.mover 0)) { inReset 0 0 (.mover 0) with
    mbox := updAt (fnReset 0 0).mbox 0 fun b => { b with wait := .reset (.mover 0) }, resets := [{ fn := .mover 0, mboxes := [0], rings := [(0, 0)] }] }
    (fun t => t.resets == [] && (Tbl.get? t.rings 0).map Ring.resetGen == some 1) = true := by decide +kernel
theorem test_unit_wedged : after (.unitWedged (.slice 2)) full (fun t => t.wedged == [.slice 2] && !fnTakes t (.slice 2)) = true := by decide +kernel

/-! A move of 64 bytes from VA 0 to Mere byte 0x8000 by stream 5, as it passes through the complex. -/

/-- Its header word; `f` are further fields. -/
def word0 (f : List (Nat × Nat)) : Nat := bits ([(0, 1), (1, 2), (8, 1), (16, 5)] ++ f)
/-- Its granules after the header: the descriptor and one dimension. `f` are further fields of the descriptor. -/
def moveBody (f : List (Nat × Nat)) : List (BitVec 256) :=
  [BitVec.ofNat 256 (bits ([(64, 0x8000), (128, 3), (132, 3), (136, 1), (146, 1)] ++ f)),
    BitVec.ofNat 256 (bits [(0, 64), (64, 1), (104, 1)])]
def moveDesc : Desc := readDesc 1 (moveBody [])
/-- The entry on its ring. -/
def moveEntry (st : EntState) : RingEntry :=
  { pos := 0, granules := 3, w0 := BitVec.ofNat 64 (word0 []), body := moveBody [], st := st, tableRef := none, baseRef := none, shared := false }
/-- `full` with ring 0 as `f` makes it. -/
def ring0 (f : Ring → Ring) : State := { full with rings := full.rings.mapV fun _ r => f r }
/-- The entry in ring memory, behind a doorbell; `own` is its OWN bit. -/
def rung (own tail : Nat) : State :=
  let u := ring0 fun r => { r with tail := tail, reread := true }
  let m := full.mem
  let g := (moveBody []).mapIdx fun i g => g.toNat <<< (256 * (i + 1))
  let y := zeroPutAll [] 0x1000 (natToBytes 96 (word0 [] - 1 + own + g.sum))
  { u with mem := { m with mere := y } }
/-- The entry fetched, or further on. -/
def held0 (st : EntState) : State := ring0 fun r => { r with head := 3, tail := 3, entries := [moveEntry st] }
/-- The entry at the head of the stream's queue, its context cached or not. -/
def admitted (ctx : Bool) : State :=
  { held0 .started with
    streams := full.streams.mapV fun _ x => { x with waiting := [(0, 0)] }
    ctxCache := if ctx then [(ctxSet 5, [5])] else [] }
/-- The stream queued for a slot. -/
def queued : State :=
  { held0 .started with
    streams := full.streams.mapV fun _ x => { x with state := stQueued, ring := 0, entryPos := 0, desc := some moveDesc }
    admission := [(0, [5])], ctxCache := [(ctxSet 5, [5])] }
/-- The one tile of the move, formed; `xl` says how page 0 was found. -/
def moveTile (xl : List PageXl) : Tile :=
  { newTile 0 ⟨0, 0⟩ with segs := [(0, 64)], next := ⟨64, 0⟩, xl := xl, translated := !xl.isEmpty }
def page0 : PageXl := { page := 0, src := rangeLab 0 ((Tbl.get? full.xlate.ranges 0).getD ⟨0, 0, false, false, 0, 0, 0, false, 0⟩), found := 0, entryPa := 0 }
/-- The stream's slot, with a tile or none. -/
def moveSlot (d : Desc) (cur nxt : Option Tile) : Slot :=
  { stream := 5, ring := 0, pos := 0, desc := d, cur := cur, nxt := nxt, cursor := ⟨0, 0⟩, nextNum := 0, grant := none, grantAsked := false
    creditHeld := none, creditAsked := false, pin := none, release := false, allFormed := cur.isSome || nxt.isSome, failing := none }
/-- The stream running in slot 0 of mover 0. -/
def running (x : Slot) : State :=
  { held0 .started with
    streams := full.streams.mapV fun _ y =>
      { y with state := stRunning, ring := 0, entryPos := 0, mover := 0, slot := some 0, desc := some x.desc, fed := true }
    slots := [(0, x)], ctxCache := [(ctxSet 5, [5])] }
def runningTile : State := running (moveSlot moveDesc (some (moveTile [page0])) none)

/-! Rings, streams, slots. -/

/-- The ring's entry, as a fetch of `moveEntry` makes it. -/
def atRing (s : State) (p : Ring → Bool) : Bool := ((Tbl.get? s.rings 0).map p) == some true
def atStream (s : State) (p : Stream → Bool) : Bool := ((Tbl.get? s.streams 5).map p) == some true
def atSlot (s : State) (p : Slot → Bool) : Bool := ((Tbl.get? s.slots 0).map p) == some true
theorem wit_EntriesFetchAndStart : atRing full (fun x => !mayFetch full x) = true ∧
    ([(0, 3), (1, 2), (1, 3)].all fun a => let s := rung a.1 a.2
      atRing s fun x => mayFetch s x &&
        (let h := readGranules .quiet x x.head none 1 s
         h.fail.isNone && fld (h.granules.headD 0).toNat 0 1 == a.1 && fld (h.granules.headD 0).toNat 1 4 == 2)) = true ∧
    (atRing (held0 .fetched) fun x => (nextEntry x).isSome && mayStart (held0 .fetched) x 0 && fenceMet x (moveEntry .fetched) &&
      entryFault (held0 .fetched) x.job (moveEntry .fetched) == none) = true ∧
    (let s := held0 (.held ⟨0, 0, false, false, 0, 0, 0⟩)
     atRing s fun x => (nextEntry x).isNone) = true := by decide +kernel
theorem test_fetch : after (.ringFetch 0 .quiet) (rung 1 3) (fun t => atRing t fun r => r.head == 3 && r.entries == [moveEntry .fetched]) = true ∧
    after (.ringFetch 0 .quiet) (rung 0 3) (fun t => atRing t fun r => r.head == 0 && r.ownWait && r.entries == []) = true := by decide +kernel
theorem test_entry_start : after (.entryStart 0) (held0 .fetched) (fun t => atStream t fun y => y.waiting == [(0, 0)]) = true := by decide +kernel
theorem wit_StreamsAreAdmitted : inService (admitted true) = true ∧ ringStopped (admitted true) 0 = false ∧ cached (admitted true) 5 = true ∧
    cached (admitted false) 5 = false ∧ (entryOf (admitted true) 0 0).isSome = true ∧ (admitted true).inject = [] ∧
    atStream (admitted true) (fun y => y.state == stIdle && !y.disable) = true ∧
    placeStream (installCtx 5 (admitted true)) 0 moveDesc = some 0 ∧ nextAdmitted queued 0 = some 5 ∧
    freeSlot queued (bestMover queued 0) = some 0 ∧ nextAdmitted full 1 = none := by decide +kernel
theorem test_admission : after (.streamAdmission 5) (admitted true) (fun t => Tbl.get? t.admission 0 == some [5] &&
      atStream t fun y => y.state == stQueued && y.desc == some moveDesc && y.waiting == []) = true ∧
    after (.streamAdmission 5) (admitted false) (fun t => t.ctxReads == [5]) = true := by decide +kernel
/-- The context of stream 5 on its way, kept by nothing or in the store of stack 0. -/
def ctxReading (store : Bool) : State :=
  { admitted false with ctxReads := [5], bring := { (admitted false).bring with ctxStack := if store then some 0 else none } }
theorem wit_context_read : ctxAddr (ctxReading false) 5 = none ∧ (ctxAddr (ctxReading true) 5).isSome = true ∧
    (let s := { ctxReading true with stackTbl := [] }
     (ctxAddr s 5).all fun pa => (readRowAt .quiet (.stack pa 0) 8 { s with ctxReads := [] }).status != stOk) = true := by decide +kernel
theorem test_context_read : after (.contextReadDone 5 .quiet) (ctxReading true) (fun t => t.ctxReads == [] && cached t 5) = true ∧
    after (.contextReadDone 5 .quiet) { ctxReading true with stackTbl := [] } (fun t => atStream t fun y => y.state == stLost) = true := by
  decide +kernel
theorem test_slot_grant : after (.slotGrant 0) queued (fun t => t.slots == [(0, moveSlot moveDesc none none)] && Tbl.get? t.admission 0 == some [] &&
    atStream t fun y => y.state == stRunning && y.slot == some 0) = true := by decide +kernel

theorem wit_BurstsIssueAndEntriesEnd : (chooseBurst runningTile 0).isSome = true ∧ runningTile.inject = [] ∧
    reqList (readReq moveDesc (moveTile [page0]) 0 0) 0 ((burstReads runningTile moveDesc (moveTile [page0]) (nextElems moveDesc (moveTile [page0]))
      (nextBlock moveDesc (moveTile [page0])) 0).map fun a => (a, false)) ≠ [] ∧
    chooseBurst full 0 = none ∧ windowSide moveDesc = none := by decide +kernel
theorem test_burst : after (.burstBoundary 0) runningTile (fun t => t.nextBurst == 1 &&
    (t.mem.reqs.map fun q => (q.target, q.addr, q.write)) == [(.stack 0, 0, false)]) = true := by decide +kernel
/-- The move decided, its slot released; with `fail` its ring lies on a stack out of service. -/
def ended (status : Nat) (fail : Bool) : State :=
  let s := held0 (.held { status := status, mover := 0, faultValid := false, faultDir := false, crc := 0, bytes := 64, faultAddr := 0 })
  { s with streams := full.streams.mapV fun _ y => { y with state := stRunning, ring := 0, entryPos := 0, slot := some 0, desc := some moveDesc }
           rings := if fail then s.rings.mapV fun _ r => { r with place := false, base := 0 } else s.rings
           stackTbl := if fail then [] else s.stackTbl }
theorem wit_completion : (entryOf (ended 0 false) 0 0).isSome = true ∧ (atRing (ended 0 false) fun x => ringMemTakes (ended 0 false) x) = true ∧
    mirrors (ended 0 false) = false ∧ syncCommit (ended 0 false) = false ∧
    (atRing (ended 0 true) fun x => ringMemTakes (ended 0 true) x &&
      (writeHeader .quiet x (moveEntry (.held ⟨0, 0, false, false, 0, 64, 0⟩)) ⟨0, 0, false, false, 0, 64, 0⟩ (ended 0 true)).2) = true := by decide +kernel
theorem test_completion : after (.entryComplete 0 0 .quiet) (ended 0 false) (fun t => (atRing t fun r => r.retire == 3 && r.entries == [] && r.lastError == 0) &&
    (atStream t fun y => y.state == stIdle && y.desc == none) && ((zeroGet t.mem.mere 0x1000).toNat % 2 == 0)) = true := by decide +kernel
theorem test_completion_unwritten : after (.entryComplete 0 0 .quiet) (ended 0 true) (fun t => atRing t fun r => r.state == 3 && r.retire == 0) = true := by
  decide +kernel
theorem test_fetch_fails : after (.ringFetch 0 .quiet) { (ring0 fun r => { r with place := false, base := 0, tail := 3, reread := true }) with stackTbl := [] }
    (fun t => atRing t fun r => r.state == 3 && !r.reread) = true := by decide +kernel

/-! Translation. -/

def labPage0 : LabEntry := page0.src
/-- The move's slot to be translated; the first level holds its page or not, and may write it or not. -/
def forming (held mayRead : Bool) : State :=
  let s := running (moveSlot moveDesc none none)
  { s with movers := if held then [(0, { Mover.reset with lab := [{ labPage0 with read := mayRead }] })] else [] }
theorem wit_TilesAreTranslated : (atSlot (forming true true) fun x =>
      inService (forming true true) && fnTakes (forming true true) (.mover 0) && xlateUp (forming true true) x.desc && mayTranslate x &&
        metFault (tileInWork x) == none) = true ∧
    ([(false, true, none), (true, true, none), (true, false, some stProtection)].all fun a => let s := forming a.1 a.2.1
      atSlot s fun x =>
        let f := forge .quiet x.desc 0 (ringMask s x.ring) tileFuel (tileInWork x) s
        let g := readEscapes .quiet x.desc 0 (ringMask s x.ring) (tileBlocks x.desc (f.tile.elems x.desc)) f.tile f.st
        let y := lookPages .quiet 0 ((tileAccesses x.desc g.tile).flatMap vaPages) g.tile g.st
        f.fault == none && f.more && g.fault == none && settled y.1 == a.1 &&
          ((tileAccesses x.desc y.1).findSome? (accessFault y.2 y.1 (ringMask s x.ring))).map TileFault.status == a.2.2) = true := by
  decide +kernel
theorem test_tile : after (.tileTranslate 0 .quiet) (forming true true) (fun t => atSlot t fun x =>
      x.nxt == none && x.allFormed && ((x.cur.map fun c => (c.translated, c.segs)) == some (true, [(0, 64)]))) = true ∧
    after (.tileTranslate 0 .quiet) (forming true false) (fun t => atStream t fun y => y.state == stHalted && y.haltStatus == stProtection) = true := by
  decide +kernel

/-- Paging on, its root table on stack 0. -/
def pagingOn : Xlate := { full.xlate with ranges := [], enable := true, root := 0x300000 }
def zeros (a n : Nat) : List Host.Cell := (List.range n).map fun i => (a + i, 0)
def tables (leaf : Bool) : MemSys :=
  { full.mem with stack := if leaf then [(0x301000, 0x07), (0x301001, 0), (0x301002, 0x40)] ++ zeros 0x301003 125
                           else [(0x300000, 0x01), (0x300001, 0x10), (0x300002, 0x30)] ++ zeros 0x300003 61 }
/-- The move's slot whose tile waits for page 0; quarter 0 of the translation is `q`; `leaf` says which of two tables memory lists. -/
def missing (leaf : Bool) (x : Xlate) (q : QXlate) (tl : Tile) : State :=
  { running (moveSlot moveDesc (some tl) none) with xlate := { x with q := [(0, q)] }, mem := tables leaf }
def missTile : Tile := { moveTile [] with misses := [0] }
theorem wit_second_level : (atSlot (missing false full.xlate .reset missTile) fun x => missOf x == some 0) = true ∧
    secondLevel (missing false full.xlate .reset missTile) 0 0 = .hit labPage0 ∧ secondLevel (missing false pagingOn .reset missTile) 0 0 = .miss ∧
    secondLevel (missing false { full.xlate with ranges := [] } .reset missTile) 0 0 = .noRoot ∧
    secondLevel (missing false { full.xlate with ranges := full.xlate.ranges.mapV fun _ r => { r with withdrawing := true } } .reset missTile) 0 0 = .waits := by
  decide +kernel
theorem test_second_level : after (.secondLevelLookup 0) (missing false full.xlate .reset missTile) (fun t => atSlot t fun x =>
      (x.cur.map fun c => (c.misses, c.xl.map PageXl.page)) == some ([], [0])) = true ∧
    after (.secondLevelLookup 0) (missing false pagingOn .reset missTile) (fun t => (quarterX t 0).missQ == [(0, 0)] &&
      atSlot t fun x => (x.cur.map Tile.walking) == some [0]) = true := by decide +kernel
/-- The walk of page 0 at level `n`. -/
def walk0 (n table : Nat) : Walk := { page := 0, slots := [(0, 0)], level := n, table := table, cost := 0, cause := 0 }
def walking (leaf : Bool) (q : QXlate) : State := missing leaf pagingOn q { missTile with misses := [], walking := [0] }
theorem wit_walk_start : walkFor [walk0 3 0x300000] 5 = some (walk0 3 0x300000) ∧ walkFor [walk0 3 0x300000] 16 = none ∧
    (quarterX (walking false { QXlate.reset with missQ := [(0, 0)] }) 0).missQ = [(0, 0)] ∧ (List.replicate 64 (walk0 3 0)).length = 64 := by decide +kernel
theorem test_walk_start : after (.pageWalkStart 0) (walking false { QXlate.reset with missQ := [(0, 0)] })
      (fun t => (quarterX t 0).walks == [walk0 3 0x300000] && (quarterX t 0).missQ == []) = true ∧
    after (.pageWalkStart 0) (walking false { QXlate.reset with missQ := [(0, 5)], walks := [walk0 3 0x300000] })
      (fun t => (quarterX t 0).walks.map Walk.slots == [[(0, 0), (0, 5)]]) = true := by decide +kernel
theorem wit_walk_read : let s := walking false { QXlate.reset with walks := [walk0 1 0x300000] }
    ((quarterX s 0).walks.find? fun v => !waitsWithdrawal s v.page) = some (walk0 1 0x300000) ∧
    (walkRead .quiet 0 1 0x300000 s).step = .table 0x301000 ∧
    (match (walkRead .quiet 1 0 0x301000 (walking true .reset)).step with | .fault x => x.status == stUnmapped | _ => false) = true := by decide +kernel
theorem test_walk_read : after (.walkTableRead 0 .quiet none) (walking false { QXlate.reset with walks := [walk0 1 0x300000] })
      (fun t => (quarterX t 0).walks == [{ walk0 0 0x301000 with cost := 118 }] && (quarterX t 0).ptrs.length == 1) = true ∧
    after (.walkTableRead 0 .quiet none) (walking true { QXlate.reset with walks := [walk0 0 0x301000] })
      (fun t => (quarterX t 0).walks == [] && (quarterX t 0).lab2.map LabEntry.pa == [0x400000] &&
        atSlot t fun x => (x.cur.map fun c => (c.walking, c.xl.map PageXl.page)) == some ([], [0])) = true := by decide +kernel

/-! Delivery. -/

def feedDesc : Desc := { moveDesc with dstSpace := spCore, dstAddr := 0, slack := 100 }
/-- The move to engine 0 of core 0, its tile translated; paced by that buffer where `paced` says. -/
def feeding (pace : Bool) : State :=
  let s := running (moveSlot feedDesc (some (moveTile [page0])) none)
  { s with streams := s.streams.mapV fun _ y => if pace then { y with paceKind := 1, high := 1, low := 0 } else y
           ports := [(0, { Port.reset with credit := [(0, 16)], inbox := [(0, 4)] })] }
def grantReq0 : GrantReq :=
  { slot := 0, unit := 0, stream := 5, gen := 1, buf := 0, lines := 1, slack := 100, cuts := [⟨64, 200, true⟩], feed := none }
def asking (fill lines : Nat) : State := setPort 0 (fun x => { x with greqs := [{ grantReq0 with lines := lines }], fill := [(0, fill)] }) (feeding true)
def onPort (s : State) (p : Port → Bool) : Bool := p (portAt s 0)
theorem wit_PortsGrantAndDeliver : (atSlot (feeding false) fun x => (x.cur.map fun t => mayAskGrant (feeding false) x t) == some true) = true ∧
    (atSlot runningTile fun x => (x.cur.map fun t => mayAskGrant runningTile x t) == some false) = true ∧
    (coreAt (feeding false) (coreOf feedDesc.dstAddr)).isSome = true ∧ inService (feeding false) = true ∧
    ([(0, 17), (15, 1), (16, 1)].all fun a => (nextGrant (asking a.1 a.2) 0).isSome == decide (a.1 < 16) && fillOf (portAt (asking a.1 a.2) 0) 0 == a.1 &&
      bufSize (asking a.1 a.2) 0 0 == 16) = true ∧
    (let s := setPort 0 (fun x => { x with greqs := [{ grantReq0 with feed := some [1, 2] }] }) (feeding true)
     (nextGrant s 0).map GrantReq.feed == some (some [1, 2])) = true ∧
    (atStream (asking 0 1) fun y => paceTarget (asking 0 1) y == some (some 0, 0)) = true := by decide +kernel
theorem test_grant_request : after (.grantRequest 0) (feeding false) (fun t => (atSlot t fun x => x.grantAsked) &&
    onPort t fun x => x.greqs.map (fun g => (g.buf, g.lines, g.slack)) == [(0, 1, 100)]) = true := by decide +kernel
theorem test_grant_answer : after (.grantAnswer 0 0) (asking 15 1) (fun t => (onPort t fun x => fillOf x 0 == 16 && x.greqs == [] && x.dlvs.length == 1) &&
      (atSlot t fun x => x.grant == some ⟨0, 0⟩) && atStream t fun y => y.paced) = true ∧
    after (.grantAnswer 0 0) (asking 16 1) (fun t => t == asking 16 1) = true := by decide +kernel
def noticed (fill : Nat) : State := { feeding true with notices := [{ mover := 0, port := some 0, target := 0, fill := fill }] }
theorem wit_fill_notice : ((noticed 1).notices.find? fun k => k.mover == 0).isSome = true ∧ fnTakes (noticed 1) (moverFn 0) = true ∧
    (atStream (noticed 1) fun y => highMark (noticed 1) y (some 0, 0) == 1 && y.state == stRunning && y.mover == 0) = true := by decide +kernel
theorem test_fill_notice : after (.fillNotice 0) (noticed 1) (fun t => t.notices == [] && atStream t fun y => y.paced) = true ∧
    after (.fillNotice 0) (noticed 0) (fun t => atStream t fun y => !y.paced) = true := by decide +kernel
/-- A delivery of 600 bytes with `sent` of them presented; due at cycle `start` + 200 + 100. -/
def delivering (sent : Nat) (ready : Bool) : State :=
  let d : Delivery := { id := 0, slot := 0, buf := 0, stream := 5, gen := 1, data := List.replicate (600 - sent) 7, ready := ready, cuts := [⟨600, 200, true⟩]
                        sent := sent, lines := 2, start := 0, slack := 100, timed := true, events := 0, cause := 0, throttle := 0, heldBack := false
                        overdue := false, hold := none }
  setPort 0 (fun x => { x with dlvs := [d], tseq := [(0, 65535)] }) (feeding false)
def lateClk (n : Nat) (s : State) : State := { s with clk := { acc := List.replicate 225 (n * 64000) } }
theorem wit_delivery : (currentDlv (portAt (delivering 0 true) 0) 0).isSome = true ∧ beatTurn (delivering 0 true) 0 = some 0 ∧
    beatTurn (delivering 512 true) 0 = some 0 ∧ beatTurn (delivering 0 false) 0 = none ∧ (delivering 0 true).inject = [] := by decide +kernel
theorem test_delivery : after (.portDelivery 0 0) (delivering 0 true) (fun t => onPort t fun x =>
      x.out.map (fun b => (b.len, b.token)) == [(512, false)] && Tbl.getD x.credit 0 0 == 15) = true ∧
    after (.portDelivery 0 0) (delivering 512 true) (fun t => onPort t fun x =>
      x.out.map (fun b => (b.len, b.token, b.tseq)) == [(88, true, 65535)] && Tbl.getD x.tseq 0 9 == 0) = true := by decide +kernel
theorem test_due_time : after (.dueTimeCheck 0) (lateClk 293 (delivering 0 false)) (fun t => onPort t fun x => x.nrdy == 0) = true ∧
    after (.dueTimeCheck 0) (lateClk 294 (delivering 0 false)) (fun t => onPort t fun x => x.nrdy == 1 && x.dlvs.all Delivery.overdue) = true := by
  decide +kernel
def owing : State := setPort 0 (fun x => { x with credit := [(0, 15)], inbox := [(0, 1)], fill := [(0, 3)] }) (feeding false)
theorem wit_credit_return : inService owing = true ∧ (0 : BitVec 3).toNat < 4 ∧ (3 : BitVec 3).toNat < 4 ∧ 4 < (7 : BitVec 3).toNat := by decide +kernel
theorem test_credit_return : after (.creditReturn 0 0 0 3) owing (fun t => (onPort t fun x => Tbl.getD x.credit 0 0 == 16 && fillOf x 0 == 2) &&
      counterOf t 1 0 0 == 1) = true ∧
    after (.creditReturn 0 0 4 0) owing (fun t => (onPort t fun x => Tbl.getD x.inbox 0 0 == 4) && counterOf t 1 0 0 == 1) = true := by decide +kernel
/-- A beat from core 0: a read of 64 bytes at Mere 0, or what its fields say. -/
def beat (kind : BitVec 3) (sel : BitVec 8) (len : BitVec 10) (data : BitVec 4096) : RtnBeat :=
  { kind := kind, core := 0, sel := sel, addr := 0, len := len, be := BitVec.allOnes 64, data := data }
theorem wit_return_beat : badBeat full 0 (beat 1 0 64 0) = false ∧ badBeat full 0 (beat 4 0 64 0) = true ∧ badBeat full 0 (beat 1 0 0 0) = true ∧
    badBeat full 0 (beat 1 0 512 0) = false ∧ badBeat full 0 (beat 1 0 513 0) = true ∧ badBeat full 0 (beat 0 0 64 0) = true ∧
    (laneOf (portAt full 0) 0).length < 16 ∧ 16 ≤ (List.replicate 16 (0, beat 1 0 64 0)).length := by decide +kernel
theorem test_return_beat : after (.returnBeatArrive 0 1 (beat 1 0 64 0)) full (fun t => onPort t fun x => x.lane1 == [(0, beat 1 0 64 0)] && x.arrivals == 1) = true ∧
    after (.returnBeatArrive 0 0 (beat 4 0 64 0)) full (fun t => counterOf t 1 0 1 == 1 && onPort t fun x => x.lane0 == []) = true := by decide +kernel
/-- Engine 1 of core 0 bound to stream 5, `n` bytes held, a beat of two bytes at the front of lane 0. -/
def activating (n : Nat) : State :=
  let b : Binding := { newBinding full (bits [(64, 5), (84, 1), (100, 256)]) with held := List.replicate n 0 }
  { full with bindings := [(1, b)], ports := [(0, { Port.reset with lane0 := [(0, beat 0 1 2 0x0201)] })] }
theorem wit_activation : (frontBeat (activating 0) 0 0 0).isSome = true ∧ boundKey (activating 0) 0 (beat 0 1 2 0) = some 1 ∧
    inOrder (activating 0) 0 0 [0] = true ∧ fnTakes (activating 0) (quantFn (quantOf 0)) = true ∧
    ((Tbl.get? (activating 4094).bindings 1).map fun b => b.held.length) = some 4094 ∧
    (Tbl.get? full.streams 5).map Stream.disable = some false := by decide +kernel
theorem test_activation : after (.activation 0 0) (activating 1) (fun t => (Tbl.get? t.bindings 1).map (fun b => (b.held, b.heldBeats)) == some ([0, 1, 2], [(0, 2)]) &&
      onPort t fun x => x.lane0 == []) = true ∧
    after (.activation 0 0) (activating 4095) (fun t => counterOf t 4 0 4 == 1 && onPort t fun x => x.lane0 != []) = true := by decide +kernel

/-! Memory and its answers. -/

def req0 : MemReq :=
  { id := 7, target := .stack 0, addr := 0x1000, latch := 0x1000, write := false, merge := false, merged := false, key := 0, oldKey := none
    data := 0, mask := 0, adds := [], addTyp := 0, addCast := 0, sums := [], who := .burst 0, unit := 0, segment := 0, res := none, charge := 0, cause := 0, needs := none }
def wr0 : MemReq := { req0 with write := true, data := 0x55, mask := 0xFF }
/-- `full` with these requests waiting; `up` is the state of stack 0. -/
def holding (up : Nat) (l : List MemReq) : State :=
  { full with stackTbl := [(0, { Stack.reset with state := up, capGiB := 32 })], mem := { full.mem with reqs := l } }
def answerAt (t : State) (i : Nat) : Option Nat := ((reqOf t i).bind MemReq.res).map Prod.fst
theorem wit_MemoriesServe : ([(1, req0), (2, req0), (1, wr0), (2, wr0)].all fun a => (nextAtStack (holding a.1 [a.2]) 0) == some a.2 &&
      blockUp (holding a.1 [a.2]) && (eccLook .quiet (stackSite 0 0x1000 1) [] (holding a.1 [a.2])).unc == []) = true ∧
    nextAtStack full 0 = none ∧ (stackAt full 0).state = 1 ∧ (stackAt full 0).cattrip = false ∧ (full.irq.groups[7]?).isSome = true := by decide +kernel
theorem test_stack_request : after (.stackRequest 0 .quiet) { holding 1 [] with mem := { full.mem with reqs := [wr0], stack := zeros 0x1000 64 } } (fun t => answerAt t 7 == some stOk && stackBytes t.mem (material t 0) 0x1000 2 == [0x55, 0]) = true ∧
    after (.stackRequest 0 .quiet) (holding 2 [wr0, { req0 with id := 8 }]) (fun t => t.mem.stack == [] && answerAt t 8 == some stBusRead) = true := by decide +kernel
theorem test_refresh : after (.stackRefresh 0) full (fun t => (stackAt t 0).refreshes == 1) = true := by decide +kernel
theorem test_phyupd : after (.dfiPhyupdReq ⟨0, true⟩) full (fun t => (stackAt t 0).updating && (stackAt t 0).refreshes == 0) = true ∧
    after (.dfiPhyupdReq ⟨0, false⟩) { full with stackTbl := [(0, { Stack.reset with state := 1, updating := true })] }
      (fun t => !(stackAt t 0).updating && (stackAt t 0).refreshes == 1) = true := by decide +kernel
theorem test_cattrip : after (.stkCattrip 0 true) (holding 1 [wr0]) (fun t => (stackAt t 0).state == 2 && answerAt t 7 == some stBusWrite) = true ∧
    after (.stkCattrip 0 false) (holding 1 [wr0]) (fun t => (stackAt t 0).state == 1 && answerAt t 7 == none) = true := by decide +kernel
def mereReq (write : Bool) (i seg : Nat) : MemReq :=
  { wr0 with id := i, target := .mere (bankOf 0x8000), addr := 0x8000, latch := 0x8000, write := write, segment := seg, mask := if write then 0xFFFFFFFF else 0 }
theorem wit_mere_bank : bankOf 0x8000 = 512 ∧ ([(false, 0), (true, 2)].all fun a => let q := mereReq a.1 1 a.2
      nextAtBank (holding 1 [q]) 512 == some q && (eccLook .quiet (mereSite q.addr 1 true) (badWords full.mem q.addr) (holding 1 [q])).unc == []) = true ∧
    partly (mereReq true 1 0).mask 32 = false ∧ partly (0xFF : BitVec 512) 32 = true ∧
    (let s := holding 1 [{ mereReq true 1 0 with mask := 0xFF }]
     (eccLook .quiet (mereSite 0x8000 1 true) (badWords { s.mem with mereBad := [0x2000] } 0x8000) s).unc != []) = true ∧
    nextAtBank full 0 = none := by decide +kernel
theorem test_mere_bank : after (.mereBankAccess 512 .quiet) (holding 1 [mereReq true 1 3, mereReq true 2 0]) (fun t => answerAt t 2 == some stOk && answerAt t 1 == none &&
      zeroGet t.mem.mere 0x8000 == 0x55 && Tbl.getD t.mem.bankRr 512 3 == 0) = true ∧
    after (.mereBankAccess 512 .quiet) { holding 1 [] with mem := { full.mem with reqs := [mereReq false 1 1], mereBad := [0x2000] } }
      (fun t => answerAt t 1 == some stMereUnc) = true := by decide +kernel
theorem test_scrub : after (.patrolScrub 5 .quiet) { full with mem := { full.mem with scrub := [(5, 2047)] } }
    (fun t => Tbl.getD t.mem.scrub 5 9 == 0 && counterOf t 7 0 2 == 1) = true := by decide +kernel

/-- Burst 0 of the move, reading and writing these requests. -/
def burst0 (reads writes : List Nat) : Burst :=
  { slot := 0, mover := 0, stream := 5, ring := 0, pos := 0, tile := 0, num := 0, segs := [(0, 64)], last := true, reads := reads, got := [], writes := writes
    packets := [], deliveries := 0, block := none, expander := 0, pin := none, charge := 0, cause := 0, grant := none, issuedWrites := writes != []
    vals := none, merging := false, todo := [], side := [], fail := none, bytes := [] }
/-- The move's tile with burst 0 issued, its requests `l`. -/
def burstOut (b : Burst) (l : List MemReq) : State :=
  let s := running (moveSlot moveDesc (some { moveTile [page0] with issued := 64, bursts := 1 }) none)
  { s with bursts := [(0, b)], nextBurst := 1, mem := { s.mem with reqs := l, nextReq := 20 } }
def answered (st : Nat) (q : MemReq) : MemReq := { q with res := some (st, 0x1122) }
theorem wit_RowsComeBack : (reqOf (burstOut (burst0 [7] []) [answered 0 req0]) 7).isSome = true ∧
    ([(stOk, [7, 8]), (stStackUnc, [7, 8]), (stOk, [7])].all fun a => let s := burstOut (burst0 a.2 []) [answered a.1 req0]
      ((answerOf .quiet (answered a.1 req0) s).map fun u => u.2.1) == some a.1 && ((burst0 a.2 []).reads.filter fun r => r != 7).isEmpty == (a.2 == [7])) = true ∧
    (burst0 [] [7, 8]).writes.any (fun r => r != 7) = true ∧ moveDesc.dstSpace ≠ spCore ∧ moveDesc.dstSpace ≠ spWindow ∧
    reqOf full 7 = none ∧ (atSlot (burstOut (burst0 [7] []) []) fun x => x.failing.isNone && x.cur.isSome) = true := by decide +kernel
theorem test_read_response : after (.readResponse 7 .quiet) (burstOut (burst0 [7, 8] []) [answered 0 req0])
      (fun t => t.mem.reqs == [] && (Tbl.get? t.bursts 0).map (fun b => (b.reads, b.got.map Prod.snd)) == some ([8], [0x1122])) = true ∧
    after (.readResponse 7 .quiet) (burstOut (burst0 [7] []) [answered 0 { req0 with addr := 0, latch := 0 }])
      (fun t => (t.mem.reqs.map fun q => (q.id, q.target, q.addr, q.write, q.mask)) == [(20, .mere 512, 0x8000, true, BitVec.allOnes 512)]) = true := by decide +kernel
theorem test_write_response : after (.writeResponse 7 .quiet) (burstOut (burst0 [] [7, 8]) [answered stBusWrite wr0])
      (fun t => atSlot t fun x => (x.failing.map fun f => (f.status, f.addr, f.write)) == some (stBusWrite, 0x1000, true)) = true := by decide +kernel
/-- The row of a block, its expander's input next. -/
def blockBurst : Burst := { burst0 [7] [] with block := some 0, expander := 3 }
theorem test_block_goes_to_expander : after (.readResponse 7 .quiet) (burstOut blockBurst [answered 0 req0])
    (fun t => (Tbl.getD t.expanders 3 .reset).input == [0]) = true := by decide +kernel
def hostReq (write : Bool) : MemReq := { req0 with target := .host, addr := 0x8000000000, write := write, mask := if write then 0xFF else 0, data := 9 }
theorem wit_host_answers : ([false, true].all fun w => (reqOf (burstOut (burst0 [7, 8] [7, 8]) [hostReq w]) 7) == some (hostReq w)) = true ∧
    hostErrs { Env.quiet with hostErr := [0x8000000000] } 0x8000000000 = true ∧ hostErrs .quiet 0x8000000000 = false := by decide +kernel
theorem test_host_write : after (.writeResponse 7 .quiet) (burstOut (burst0 [] [7, 8]) [hostReq true]) (fun t => t.mem.hostOut != []) = true ∧
    after (.writeResponse 7 { Env.quiet with hostErr := [0x8000000000] }) (burstOut (burst0 [] [7, 8]) [hostReq true]) (fun t => t.mem.hostOut == []) = true := by
  decide +kernel
/-- A read or a write of core 0 at Mere 0x8000. -/
def coreReq0 (write : Bool) (left : List Nat) (rows : List (Nat × BitVec 512)) (failed : Bool) : CoreReq :=
  { id := 2, slot := 0, tag := 0x31, addr := 0x8002, len := 3, write := write, reqs := left, rows := rows, failed := failed }
def coreOut (c : CoreReq) (l : List MemReq) : State :=
  setPort 0 (fun x => { x with reads := [c], nextRead := 3 }) { full with mem := { full.mem with reqs := l } }
def coreMemReq (write : Bool) : MemReq := { mereReq write 7 0 with who := .core 0 2, res := some (stOk, 0x0504030201) }
theorem wit_core_rows : ([false, true].all fun w => (reqOf (coreOut (coreReq0 w [7] [] false) [coreMemReq w]) 7) == some (coreMemReq w)) = true ∧
    full.xlate.wds = [] := by decide +kernel
theorem test_core_row : after (.readResponse 7 .quiet) (coreOut (coreReq0 false [7] [] false) [coreMemReq false])
      (fun t => onPort t fun x => x.reads == [coreReq0 false [] [(0x8000, 0x0504030201)] false]) = true ∧
    after (.writeResponse 7 .quiet) (coreOut (coreReq0 true [7] [] false) [coreMemReq true]) (fun t => onPort t fun x => x.reads == []) = true := by decide +kernel

theorem wit_mere_read_data : (((portAt (coreOut (coreReq0 false [] [] false) []) 0).reads.find? fun x => x.id == 2)).isSome = true ∧
    answersFirst (portAt (coreOut (coreReq0 false [] [] true) []) 0) (coreReq0 false [] [] true) = true := by decide +kernel
theorem test_mere_read_data : after (.mereReadData 0 2) (coreOut (coreReq0 false [] [(0x8000, 0x0504030201)] false) [])
      (fun t => onPort t fun x => x.out.map (fun b => (b.kind, b.sel, b.data)) == [(dkMereData, 0x31, [3, 4, 5])] && x.reads == []) = true ∧
    after (.mereReadData 0 2) (coreOut (coreReq0 true [] [] true) []) (fun t => onPort t fun x => x.out.map DlvBeat.kind == [dkNack]) = true := by decide +kernel
/-- Core 0's beat at the front of lane 0, its address in words; `perm` is the allocation's permission. -/
def coreBeat (kind : BitVec 3) (addr : BitVec 26) (perm : Nat) : State :=
  setPort 0 (fun x => { x with lane0 := [(0, { beat kind 0x31 64 0x7 with addr := addr })] })
    { full with allocs := full.allocs.mapV fun _ a => { a with perm := perm } }
theorem wit_CoresReachTheMere : ([(1, rkRead, 2), (2, rkWrite, 2), (2, rkWrite, 1)].all fun a => let s := coreBeat (BitVec.ofNat 3 a.1) 0x2000 a.2.2
      (frontBeat s 0 0 a.2.1).isSome && inOrder s 0 0 [rkRead, rkWrite] && coreNumber s 0 0 == some 0) = true ∧
    coreCheck full (some 0) false 0x8000 64 = none ∧ coreCheck full (some 0) false 0x10000 64 = some stUnmapped ∧
    coreCheck (coreBeat 2 0x2000 1) (some 0) true 0x8000 64 = some stProtection ∧ coreCheck full (some 4) true 0x8000 64 = some stProtection ∧
    frontBeat full 0 0 rkRead = none := by decide +kernel
theorem test_mere_read : after (.mereRead 0 0) (coreBeat 1 0x2000 2) (fun t => (t.mem.reqs.map fun q => (q.addr, q.write)) == [(0x8000, false)] &&
      onPort t fun x => x.reads.map CoreReq.tag == [0x31]) = true ∧
    after (.mereRead 0 0) (coreBeat 1 0x4000 2) (fun t => t.mem.reqs == [] && onPort t fun x => x.out.map DlvBeat.kind == [dkNack]) = true := by decide +kernel
theorem test_mere_write : after (.mereWrite 0 0) (coreBeat 2 0x2000 2) (fun t => (t.mem.reqs.map fun q => (q.addr, q.write)) == [(0x8000, true)]) = true ∧
    after (.mereWrite 0 0) (coreBeat 2 0x2000 1) (fun t => counterOf t 5 0 5 == 1) = true := by decide +kernel

/-! Expanders and quantisers. -/

/-- The move as MOVE_EXPAND of payloads of 512 bytes; `base` is its base model, `esc` how many blocks its escape map names. -/
def expandDesc (base esc : Nat) : Desc := { moveDesc with op := 2, ext := BitVec.ofNat 256 (bits [(64, base), (80, 1), (96, esc)]) }
def expandTile (esc : Bool) : Tile := { moveTile [page0] with esc := if esc then [(0, true)] else [] }
def expanding (base : Nat) (used : Nat) : State :=
  let s := running (moveSlot (expandDesc base 0) (some (expandTile false)) none)
  { s with expanders := [(0, { Expander.reset with used := used })]
           bases := [(1, { job := 1, va := 0x2000, blocks := 16, typ := 3, refs := 0, released := false })] }
theorem wit_ExpandersAndQuantisersWork : ([(0, 0), (1, 31), (1, 32)].all fun a => let s := expanding a.1 a.2
      atSlot s fun x => (x.cur.bind fun t => creditBlock s x t) == some 0 && expanderOf s 0 x.desc == 0 && fnTakes s (expanderFn 0) &&
        needsBase x.desc (expandTile false) 0 == decide (a.1 = 1) && creditFree (expanderAt s 0) (if a.1 = 1 then some (1, 0) else none) == decide (a.2 < 32)) = true ∧
    baseNumber (expanding 1 0) (expandDesc 1 0) 0 ≥ 16 ∧
    (atSlot runningTile fun x => (x.cur.bind fun t => creditBlock runningTile x t) == none) = true := by decide +kernel
/-- A base whose block is the one at the descriptor's BASE_ADDR. -/
def basedAt0 (s : State) : State := { s with bases := s.bases.mapV fun _ b => { b with va := 0 } }
theorem wit_base_block : baseNumber (basedAt0 (expanding 1 0)) (expandDesc 1 0) 0 = 0 ∧
    baseHit (expanderAt (expanding 1 0) 0) 1 0 = false ∧ creditFree (expanderAt (expanding 1 0) 0) (some (1, 0)) = true := by decide +kernel
theorem test_credit : after (.expanderCreditRequest 0) (basedAt0 (expanding 1 31)) (fun t => (expanderAt t 0).used == 32 &&
      (expanderAt t 0).cache.map (fun l => (l.base, l.block, l.pins)) == [(1, 0, 1)] && atSlot t fun x => x.creditHeld == some 0) = true ∧
    after (.expanderCreditRequest 0) (expanding 0 32) (fun t => (expanderAt t 0).waiting == [0] && atSlot t fun x => x.creditAsked) = true := by decide +kernel
/-- A payload of 512 bytes without patches, all scales and codes zero, under its CRC, or under another. -/
def payloadRow (good : Bool) : BitVec 512 := BitVec.ofNat 512 ((if good then 4105092746 else 1) + (0x13 <<< 56))
def blockGot (good : Bool) : List (Nat × BitVec 512) :=
  (rowKey false 0, payloadRow good) :: (List.range 7).map fun i => (rowKey false (64 * (i + 1)), 0)
/-- The block of the first burst at the front of expander 0's input. -/
def entering (esc good : Bool) : State :=
  let d := expandDesc 0 (if esc then 1 else 0)
  let s := running { moveSlot d (some { expandTile esc with issued := 64, bursts := 1 }) none with allFormed := false }
  let b := { burst0 [] [] with got := blockGot good, block := some 0 }
  { s with bursts := [(0, b), (1, burst0 [] [7])], expanders := [(0, { Expander.reset with used := 1, input := [0], lag := 5 })] }
theorem wit_blocks : isEscape (expandDesc 0 1) (expandTile true) 0 = true ∧ isEscape (expandDesc 0 0) (expandTile false) 0 = false ∧
    (expanderAt (entering false true) 0).input = [0] ∧ (entering false true).inject = [] ∧
    ((entering false false).bursts.any fun c => c.2.slot == 0 && c.2.writes != []) = true := by decide +kernel
/-- CRC-32C of the payload after its first word, over the first 12 bytes and eight runs of 62 zeros. -/
theorem crc_head : List.foldl crcByte 0xFFFFFFFF [0, 0, 0, 0x13, 0, 0, 0, 0, 0, 0, 0, 0] = 3090928980 := by decide +kernel
theorem crc_run0 : List.foldl crcByte 3090928980 (List.replicate 62 0) = 548413022 := by decide +kernel
theorem crc_run1 : List.foldl crcByte 548413022 (List.replicate 62 0) = 2924091714 := by decide +kernel
theorem crc_run2 : List.foldl crcByte 2924091714 (List.replicate 62 0) = 2582628476 := by decide +kernel
theorem crc_run3 : List.foldl crcByte 2582628476 (List.replicate 62 0) = 4037730213 := by decide +kernel
theorem crc_run4 : List.foldl crcByte 4037730213 (List.replicate 62 0) = 1192671033 := by decide +kernel
theorem crc_run5 : List.foldl crcByte 1192671033 (List.replicate 62 0) = 4136619788 := by decide +kernel
theorem crc_run6 : List.foldl crcByte 4136619788 (List.replicate 62 0) = 4260080260 := by decide +kernel
theorem crc_run7 : List.foldl crcByte 4260080260 (List.replicate 62 0) = 189874549 := by decide +kernel
theorem crc_payload (good : Bool) : crc32c (((rowsBytes (blockGot good) 0 512).take 512).drop 4) = 4105092746 := by
  have h : ((rowsBytes (blockGot good) 0 512).take 512).drop 4 = [0, 0, 0, 0x13, 0, 0, 0, 0, 0, 0, 0, 0] ++ (List.replicate 62 0 ++ (List.replicate 62 0 ++
      (List.replicate 62 0 ++ (List.replicate 62 0 ++ (List.replicate 62 0 ++ (List.replicate 62 0 ++ (List.replicate 62 0 ++
        List.replicate 62 0))))))) := by cases good <;> decide +kernel
  have e : crcStart.toNat = 0xFFFFFFFF := by decide
  rw [h, crc32c, crcRun, e]
  simp only [List.foldl_append, crc_head, crc_run0, crc_run1, crc_run2, crc_run3, crc_run4, crc_run5, crc_run6, crc_run7]
  decide
/-- The one payload passes every check of R336; the other fails the first. -/
theorem wit_block_decodes : blockFault (entering false true) (expandDesc 0 0) 0 (rowsBytes (blockGot true) 0 512) = none := by
  have e : payloadLen (expandDesc 0 0) = 512 := by decide +kernel
  unfold blockFault
  simp only [e, crc_payload]
  decide +kernel
theorem wit_block_fails : blockFault (entering false false) (expandDesc 0 0) 0 (rowsBytes (blockGot false) 0 512) = some (.check 0 4105092746) := by
  have e : payloadLen (expandDesc 0 0) = 512 := by decide +kernel
  unfold blockFault
  simp only [e, crc_payload]
  decide +kernel
theorem test_escape_block : after (.expanderBlock 0 .quiet) (entering true false) (fun t => counterOf t 3 0 0 == 1 && counterOf t 3 0 1 == 1 && counterOf t 3 0 6 == 5 &&
    (expanderAt t 0).lag == 9 && (expanderAt t 0).used == 0 && (expanderAt t 0).input == []) = true := by decide +kernel

/-- 64 BF16 elements of engine 1 of core 0 quantised to the Mere under the scale registers from 256, `held` bytes of them there, `used` replay
buffers taken. -/
def quantDesc : Desc := { moveDesc with op := 3, srcSpace := spCore, srcAddr := 1024, srcType := 1, dstType := 8 }
def quantising (held used : Nat) (scale : Word32) : State :=
  let s := running (moveSlot quantDesc (some (moveTile [])) none)
  let b : Binding := { newBinding full (bits [(64, 5), (84, 1), (94, 1), (100, 256)]) with held := List.replicate held 1 }
  { s with bindings := [(1, b)], quants := [(0, { Quantiser.reset with scales := (List.range 64).map fun i => (256 + i, scale), replay := List.replicate used ⟨9, 9, 0, [], [], []⟩ })]
           slots := s.slots.mapV fun _ x => { x with cur := x.cur.map fun t => { t with translated := true } } }
theorem wit_quant : (atSlot (quantising 128 0 0x3F800000) fun x => (x.cur.map fun t => quantReady (quantising 128 0 0x3F800000) x t) == some true) = true ∧
    ((tileElems quantDesc (moveTile [])).filter fun e => isInner quantDesc (coords quantDesc e.n)).length * elemBytes (srcBits quantDesc) = 128 ∧ replayOf (quantising 128 8 0) 0 5 0 = none ∧
    (quantAt (quantising 128 8 0) 0).replay.length = 8 ∧ (envFlips .quiet 0x0A 0 0) = [] ∧
    ([(0x3F800000, true), (0x7F800000, false), (0x007FFFFF, false)].all fun a => let s := quantising 128 0 (BitVec.ofNat 32 a.1)
      ((Tbl.get? s.bindings 1).map fun b => (tileRegs quantDesc b (moveTile [])).all fun r => regValid (regAt (quantAt s 0) r)) == some a.2) = true := by
  decide +kernel
theorem test_quant_tile : after (.qntTile 0 .quiet) (quantising 130 0 0x3F800000) (fun t => (Tbl.get? t.bindings 1).map (fun b => b.held.length) == some 2) = true ∧
    after (.qntTile 0 .quiet) (quantising 128 8 0) (fun t => counterOf t 4 0 5 == 1) = true := by decide +kernel
theorem test_quant_scale : after (.qntTile 0 .quiet) (quantising 128 0 0x7F800000) (fun t => atStream t fun y => y.haltStatus == stScaleInvalid) = true ∧
    after (.qntTile 0 .quiet) (quantising 1 0 0x3F800000) (fun t => t == quantising 1 0 0x3F800000) = true := by decide +kernel

/-! Queues. -/

/-- A message's header: kind, queue, bytes of payload, and further fields. -/
def mhdr (kind queue len : Nat) (f : List (Nat × Nat)) : BitVec 256 := BitVec.ofNat 256 (bits ([(12, kind), (36, queue), (84, len)] ++ f))
def withCredit (n : Nat) (s : State) : State := setPort 0 (fun x => { x with inbox := [(0, n)] }) s
/-- A message of core 0 at the front of lane 0; core 0 has `credit` inbox entries free. -/
def sending (s : State) (credit : Nat) (h : BitVec 256) (len : Nat) : State :=
  setPort 0 (fun x => { x with lane0 := [(0, beat 3 0 (BitVec.ofNat 10 (32 + len)) (h.setWidth 4096 ||| (0x04030201 <<< 256)))] }) (withCredit credit s)
def decided (s : State) (p : Msg → Queue → Bool) : Bool :=
  match frontBeat s 0 0 rkMessage with
  | some b => ((queueAt s (hdrQueue (beatMsg s 0 b).hdr)).map fun q => p (beatMsg s 0 b) q) == some true
  | none => false
def outKinds (t : State) : List Nat := (portAt t 0).out.map DlvBeat.kind
/-- Status byte of the NACK presented. -/
def nackStatus (t : State) : Option Nat := ((portAt t 0).out.head?).map fun x => bytesToNat (x.data.drop 31)
def updQ (n : Nat) (f : Queue → Queue) (s : State) : State := updQueue n f s
theorem wit_SlicesDecideMessages : (let s := sending full 1 (mhdr 0 0 4 []) 4
      inService s && inOrder s 0 0 [rkMessage, rkWrite] && !writePending s 0 0 && fnTakes s (sliceFn 0) && s.inject.isEmpty &&
        isHere s 0 && s.mirror.role != roleFenced) = true ∧
    ([(1, mhdr 0 0 4 [], none), (0, mhdr 0 0 4 [], none), (1, mhdr 0 0 4 [(52, 1)], some stNackStale), (1, mhdr 1 1 4 [(128, 60)], none),
        (1, mhdr 1 1 4 [(128, 64)], some stMalformed), (1, mhdr 2 1 0 [], none)].all fun a => let s := sending full a.1 a.2.1 (hdrLength a.2.1)
      decided s fun m q => refusal s q m.hdr == a.2.2 && !mustWait s q m.hdr && !waitsZeroing s (hdrQueue m.hdr) q m.hdr && !msgMalformed m.hdr (32 + hdrLength a.2.1) &&
        !noSuchQueue s (.core 0 0) m.hdr && inboxCredit s q == decide (0 < a.1) && q.base % 64 == 0) = true ∧
    msgMalformed (mhdr 3 0 0 []) 32 = true ∧ msgMalformed (mhdr 0 0 256 []) 288 = false ∧ msgMalformed (mhdr 0 0 257 []) 289 = true ∧
    noSuchQueue full (.core 0 0) (mhdr 0 9 0 []) = true ∧ noSuchQueue full (.core 0 0) (mhdr 1 0 0 []) = true ∧ zeroForm full.mem.mere = true := by decide +kernel
theorem wit_message_limits : (let s := sending (updQ 0 (fun q => { q with slots := [0, 1, 2, 3] }) full) 1 (mhdr 0 0 4 []) 4
      decided s fun m q => refusal s q m.hdr == some stNackFull) = true ∧
    (let s := sending (updQ 0 (fun q => { q with consec := 15 }) full) 1 (mhdr 0 0 4 [(52, 1)]) 4
     decided s fun _ q => decide (q.storm ≤ q.consec + 1)) = true ∧
    (let s := sending (updQ 1 (fun q => { q with state := qZeroing }) full) 1 (mhdr 1 1 4 []) 4
     decided s fun m q => waitsZeroing s 1 q m.hdr) = true ∧
    (let s := sending (updQ 1 (fun q => { q with count := 2 }) full) 1 (mhdr 1 1 4 []) 4
     decided s fun m q => !waitsZeroing s 1 q m.hdr && mustWait s q m.hdr) = true ∧
    (let s := sending { full with mirror := { full.mirror with role := roleFenced } } 1 (mhdr 0 0 4 []) 4
     (frontBeat s 0 0 rkMessage).isSome && s.mirror.role == roleFenced) = true := by decide +kernel
/-- `full` on a link: device 2 behind port 9, device 7 behind none. -/
theorem wit_message_to_device : (let s := sending linked 1 (mhdr 0 0 4 [(26, 2)]) 4
      decided s fun m _ => !isHere s (hdrDevice m.hdr) && routeFor s (hdrDevice m.hdr) [hdrSource m.hdr % 1024, handle 0 0] == some 9 &&
        cwTakes s 9 && (freeTag (cport s 9)).isSome) = true ∧
    (let s := sending linked 1 (mhdr 0 0 4 [(26, 7)]) 4
     decided s fun m _ => !isHere s (hdrDevice m.hdr) && (routeFor s (hdrDevice m.hdr) [hdrSource m.hdr % 1024, handle 0 0]).isNone) = true := by decide +kernel
theorem test_message : after (.message 0 0 .quiet) (sending full 1 (mhdr 0 0 4 [(93, 1)]) 4) (fun t => outKinds t == [dkNack, dkMessage] &&
      Tbl.getD (portAt t 0).inbox 0 9 == 0 && counterOf t 5 0 0 == 1) = true ∧
    after (.message 0 0 .quiet) (sending full 0 (mhdr 0 0 4 []) 4) (fun t => outKinds t == [] && (t.mem.reqs.map fun r => (r.addr, r.who, r.data.toNat >>> 256)) == [(0x2000, .slot 0 0, 0x04030201)] &&
      (queueAt t 0).map (fun q => (q.slots, q.tailSlot)) == some ([0], 1)) = true := by decide +kernel
theorem test_message_nack : after (.message 0 0 .quiet) (sending full 1 (mhdr 0 0 4 [(52, 1)]) 4) (fun t => nackStatus t == some stNackStale &&
      (queueAt t 0).map Queue.consec == some 1) = true ∧
    after (.message 0 0 .quiet) (sending full 1 (mhdr 0 9 4 []) 4) (fun t => nackStatus t == some stNackNoQueue && counterOf t 5 0 2 == 1) = true := by decide +kernel
theorem test_message_remote : after (.message 0 0 .quiet) (sending linked 1 (mhdr 0 0 4 [(26, 2)]) 4) (fun t => counterOf t 5 0 1 == 1 &&
      (cport t 9).tags.length == 1) = true ∧
    after (.message 0 0 .quiet) (sending linked 1 (mhdr 0 0 4 [(26, 7)]) 4) (fun t => nackStatus t == some stUnreachable) = true := by decide +kernel
/-- The combining queue adds in INT32. -/
def int32Queue : State := updQ 1 (fun q => { q with typ := 10 }) full
theorem test_contribute : after (.contribute 0 0 .quiet) (sending int32Queue 1 (mhdr 1 1 4 [(128, 60)]) 4)
      (fun t => (t.mem.reqs.map fun r => (r.addr, r.adds)) == [(0x3000, [(480, 0x04030201)])] && (queueAt t 1).map Queue.count == some 1) = true ∧
    after (.contribute 0 0 .quiet) (sending int32Queue 1 (mhdr 1 1 4 [(128, 64)]) 4) (fun t => nackStatus t == some stMalformed) = true := by decide +kernel
theorem test_contribute_waits : after (.contribute 0 0 .quiet) (sending (updQ 1 (fun q => { q with state := qZeroing }) full) 1 (mhdr 1 1 4 []) 4)
    (fun t => (Tbl.getD t.slices 0 .reset).waiting.length == 1) = true := by decide +kernel
theorem test_rearm : after (.rearm 0 0) (sending (updQ 1 (fun q => { q with state := qComplete, count := 2 }) full) 1 (mhdr 2 1 0 []) 0)
      (fun t => (queueAt t 1).map (fun q => (q.state, q.round, q.count)) == some (qZeroing, 1, 0)) = true ∧
    after (.rearm 0 0) (sending (updQ 1 (fun q => { q with reader := 3 }) full) 1 (mhdr 2 1 0 [(16, 3)]) 0) (fun t => nackStatus t == some stMalformed) = true := by
  decide +kernel
/-- A message of device 3 at port 0. -/
def messagePacket (h : BitVec 256) : Packet :=
  { packetTo 1 4 opMessage (headerBytes h ++ [1, 2, 3, 4]) with hdr := packetHdr 0 opMessage 2 36 3 0 }
def fromDevice (h : BitVec 256) : State :=
  let s := updQ 0 (fun q => { q with remote := true }) linked
  withCredit 1 (setCport 0 (fun x => { x with inq := [messagePacket h] }) s)
theorem wit_remote_message : (let s := fromDevice (mhdr 0 0 4 [])
      let x := messagePacket (mhdr 0 0 4 [])
      inService s && cwTakes s 0 && x.op == opMessage && x.len == 36 && !answersFenced s x.dst && !msgMalformed (packetMsg x).hdr x.len &&
        !noSuchQueue s (.remote 0 x) (packetMsg x).hdr && hdrKind (packetMsg x).hdr == mkMessage) = true ∧
    noSuchQueue linked (.remote 0 (messagePacket (mhdr 0 0 4 []))) (mhdr 0 0 4 []) = true := by decide +kernel
theorem test_remote_message : after (.remoteMessage 0 .quiet) (fromDevice (mhdr 0 0 4 [])) (fun t => outKinds t == [dkMessage] && (cport t 0).inq == []) = true := by
  decide +kernel

/-- The combining queue's round complete, core 0 with `credit` free inbox entries. -/
def roundDone (credit : Nat) : State := withCredit credit (updQ 1 (fun q => { q with count := 2 }) full)
theorem wit_RoundsAndDeliveries : ([0, 1].all fun n => ((queueAt (roundDone n) 1).map fun q => inService (roundDone n) && fnTakes (roundDone n) (sliceFn 0) &&
      q.combining && q.state == qArmed && decide (q.depth ≤ q.count) && inboxCredit (roundDone n) q == (n == 1)) == some true) = true := by decide +kernel
theorem test_combine_complete : after (.combineComplete 1) (roundDone 1) (fun t => outKinds t == [dkMessage] && (queueAt t 1).map Queue.state == some qComplete) = true ∧
    after (.combineComplete 1) (roundDone 0) (fun t => outKinds t == [] && (queueAt t 1).map (fun q => q.combined.isSome) == some true) = true := by decide +kernel
/-- The area being zeroed, with `n` contributions waiting for it. -/
def zeroing (n : Nat) : State :=
  let m : Msg := { hdr := mhdr 1 1 4 [], payload := [1, 0, 0, 0] }
  { updQ 1 (fun q => { q with state := qZeroing, typ := 10 }) full with slices := [(0, { Slice.reset with waiting := List.replicate n (1, m, .core 0 0) })] }
theorem wit_zeroing : (waitingFor (zeroing 0) 1) = [] ∧ (waitingFor (zeroing 1) 1).length = 1 ∧ fnTakes (zeroing 1) .mere = true ∧
    ((queueAt (zeroing 1) 1).map fun q => refusal (zeroing 1) { q with state := qArmed } (mhdr 1 1 4 []) == none && decide (q.count < q.depth)) = some true := by decide +kernel
theorem test_zeroed : after (.areaZeroingDone 1) (zeroing 1) (fun t => (queueAt t 1).map (fun q => (q.state, q.count)) == some (qArmed, 1) &&
    waitingFor t 1 == [] && (t.mem.reqs.map MemReq.adds) == [[(0, 1)]]) = true := by decide +kernel
/-- Queue 0 holding one message in slot 3, core 0 with `credit`; the slot's first word is bad or not. -/
def heldMsg (credit : Nat) (bad : Bool) : State :=
  let s := withCredit credit (updQ 0 (fun q => { q with slots := [3], tailSlot := 0 }) full)
  { s with mem := { s.mem with mere := zeroPutAll [] (0x2000 + 960) (headerBytes (mhdr 0 0 1 []) ++ [0x77]), mereBad := if bad then [(0x2000 + 960) / 4] else [] } }
theorem wit_delivery_turn : ([(1, false), (0, false), (1, true)].all fun a => let s := heldMsg a.1 a.2
      (queueTurn s 0 16383).map Prod.fst == some 0 && ((queueAt s 0).map fun q => q.combined.isNone && !q.freePending && q.slots == [3] && slotReady s 0 q &&
        inboxCredit s q == (a.1 == 1) && (readSlot .quiet 0 (slotAddr q 3) s).2.isNone == a.2) == some true) = true ∧
    queueTurn full 0 16383 = none ∧ (let s := withCredit 1 (updQ 1 (fun q => { q with state := qComplete, combined := some ⟨mhdr 3 1 16 [], []⟩ }) full)
      (queueTurn s 0 16383).map Prod.fst == some 1) = true := by decide +kernel
theorem test_message_delivery : after (.messageDelivery 0 .quiet) (heldMsg 1 false) (fun t => (portAt t 0).out.map (fun x => x.data.drop 32) == [[0x77]] &&
      (queueAt t 0).map Queue.slots == some []) = true ∧
    after (.messageDelivery 0 .quiet) (heldMsg 1 true) (fun t => outKinds t == [] && (queueAt t 0).map Queue.slots == some []) = true := by decide +kernel

/-! Other devices. -/

/-- A request of device 3 at port 0, for window `w` at offset `off`. -/
def requestTo (op w off len : Nat) (data : List Byte) : Packet :=
  { src := 3, dst := 1, hops := 4, vc := 0, hdr := packetHdr 0 op 2 len w off, data := data, job := none }
def arrived (k : Packet) : State := port0 fun x => { x with inq := [k] }
/-- `linked` with window 3 as `f` makes it. -/
def windowIs (f : Window → Window) (s : State) : State := updWindow 3 f s
def judged (s : State) (k : Packet) : Nat :=
  match judgeRequest s k with
  | .refused st => st
  | .closed => 256
  | .accepted _ => 257
theorem wit_DevicesTransact : (let s := { full with straps := ⟨0, 1, 0, 0⟩ }
      inService s = true ∧ (ucieNeeded s.straps.split).contains 4 = true ∧ s.cw.ucieDown.contains 4 = false ∧ (s.irq.groups[5]?).isSome = true) ∧
    judged linked (requestTo opWrite 3 64 4 []) = 257 ∧ judged linked (requestTo opRead 3 4092 4 []) = 257 ∧
    judged linked (requestTo opWrite 3 4093 4 []) = stNoWindow ∧ judged linked (requestTo opWrite 4 0 4 []) = stNoWindow ∧
    judged linked { requestTo opWrite 3 64 4 [] with src := 4 } = stNoWindow ∧
    judged (windowIs (fun x => { x with state := wdClosed }) linked) (requestTo opWrite 3 64 4 []) = 256 ∧
    judged (windowIs (fun x => { x with state := wdClosing }) linked) (requestTo opWrite 3 64 4 []) = stWindowClosed ∧
    (windowAt linked 3).map (windowMem linked) = some true := by decide +kernel
theorem test_ucie_retrain : after (.ucieRetrain 4 false) { full with straps := ⟨0, 1, 0, 0⟩ } (fun t => t.cw.ucieDown == [4]) = true ∧
    after (.ucieRetrain 4 false) full (fun t => t.cw.ucieDown == []) = true := by decide +kernel
theorem test_remote_write : after (.remoteWrite 0) (arrived (requestTo opWrite 3 64 4 [1, 2, 3, 4])) (fun t => (cport t 0).inq == [] &&
      (cport t 0).inWrites.map InWrite.addr == [0x4040] && (windowAt t 3).map (fun x => (x.writesAccepted, x.inFlight)) == some (1, 1)) = true ∧
    after (.remoteWrite 0) (windowIs (fun x => { x with state := wdClosed }) (arrived (requestTo opWrite 3 64 4 [1, 2, 3, 4])))
      (fun t => (cport t 0).inWrites == [] && (windowAt t 3).map Window.nacksClosed == some 1) = true := by decide +kernel
def landing (state : Nat) : State :=
  windowIs (fun x => { x with inFlight := 1, state := state }) (port0 fun x => { x with inWrites := [⟨3, requestTo opWrite 3 64 4 [1, 2, 3, 4], 0x4040⟩] })
theorem wit_landing : (cport (landing wdOpen) 0).inWrites.length = 1 ∧ (landing wdOpen).mem.mereBad = [] ∧ zeroForm (landing wdOpen).mem.mere = true ∧
    (windowAt (landing wdClosing) 3).map Window.state = some wdClosing := by decide +kernel
theorem test_remote_write_lands : after (.remoteWriteLanded 0 .quiet) (landing wdClosing) (fun t => zeroBytes t.mem.mere 0x4040 4 == [1, 2, 3, 4] &&
    (windowAt t 3).map (fun x => (x.inFlight, x.bytesWritten, x.landedClosing)) == some (0, 4, 1)) = true := by decide +kernel
theorem test_remote_read : after (.remoteRead 0 .quiet) (arrived { requestTo opRead 3 64 4 [] with src := 2 }) (fun t => (cport t 0).inq == [] &&
      (windowAt t 3).map Window.readsAccepted == some 1 && (cport t 9).out.length == 1) = true ∧
    after (.remoteRead 0 .quiet) (arrived (requestTo opRead 4 64 4 [])) (fun t => (cport t 0).inq == [] && (windowAt t 3).map Window.readsAccepted == some 0) = true := by
  decide +kernel
/-- A request of this device under tag 5 of port 0, and its response. -/
def outstanding (owner : Owner) (op status tag : Nat) : State :=
  port0 fun x => { x with tags := [(5, ⟨owner, true, 0x80, 3⟩)], inq := [{ requestTo op 3 0 1 [] with hdr := packetHdr status op tag 1 3 0 }] }
def ackedMsg : Owner := .msg { hdr := mhdr 0 0 0 [(93, 1)], payload := [] } 0
theorem wit_responses : (tagUse (outstanding .heartbeat opWriteAck 0 5) 5).isSome = true ∧ tagUse (outstanding .heartbeat opWriteAck 0 6) 6 = none ∧
    isResponse opWriteAck = true ∧ isResponse opRead = false ∧ hdrAck (mhdr 0 0 0 [(93, 1)]) = true ∧ cwTakes (outstanding .heartbeat opWriteAck 0 5) 0 = true := by
  decide +kernel
theorem test_remote_response : after (.remoteResponse 0) (outstanding ackedMsg opMessageResp stOk 5) (fun t => (cport t 0).tags == [] && outKinds t == [dkNack] &&
      nackStatus t == some stOk) = true ∧
    after (.remoteResponse 0) (outstanding ackedMsg opMessageResp stOk 6) (fun t => (cport t 0).tags != [] && counterOf t 6 0 4 == 1) = true := by decide +kernel
theorem test_remote_timeout : after (.remoteTimeout 0 5) (outstanding ackedMsg opMessageResp stOk 5) (fun t => (cport t 0).tags == [] && counterOf t 6 0 3 == 1 &&
    nackStatus t == some stRemoteTimeout) = true := by decide +kernel
/-- A write burst of the move into a window, waiting for the packet under tag 5. -/
def windowBurst (status : Nat) : State :=
  let s := running (moveSlot moveDesc (some { moveTile [page0] with issued := 64, bursts := 1 }) none)
  { s with cw := (outstanding (.burst 0) opNack status 5).cw, bursts := [(0, { burst0 [] [] with packets := [5, 7], issuedWrites := true })], straps := linked.straps }
theorem wit_window_burst : ((windowBurst stWindowClosed).bursts.any fun b => b.2.packets.any fun v => v != 5) = true ∧
    (atStream (windowBurst stWindowClosed) fun y => y.state == stRunning && y.slot == some 0) = true ∧ cwTakes (windowBurst 0) 0 = true := by decide +kernel
theorem test_window_burst : after (.remoteResponse 0) (windowBurst stOk) (fun t => (Tbl.get? t.bursts 0).map Burst.packets == some [7]) = true := by decide +kernel

/-! The pair. -/

def hb (role sync : BitVec 2) (epoch : Word32) : Heartbeat :=
  { seq := 1, epoch := epoch, role := role, sync := sync, health := 0, device := 2, service := 9, lag := 0, paramsEqual := true }
/-- `paired` as `f` makes it. -/
def pairIs (role sync : Nat) (f : Mirror → Mirror) : State := { paired role sync with mirror := f (paired role sync).mirror }
theorem wit_PairsKeepInStep : inService (paired 1 2) = true ∧ (paired 1 2).mirror.paired = true ∧ (paired 1 2).inject = [] ∧
    counted (paired 1 2) true (hb 2 2 0) = true ∧ counted full true (hb 2 2 0) = false ∧ counted (paired 1 2) true { hb 2 2 0 with service := 8 } = false ∧
    epochLess 4 5 = true ∧ epochLess 5 5 = false ∧ (pairIs 1 3 fun m => { m with split := true, epoch := 5 }).mirror.split = true := by decide +kernel
theorem test_heartbeat_send : after .heartbeatSend (paired 1 2) (fun t => t.mirror.hbSeq == 1) = true ∧
    after .heartbeatSend full (fun t => t == full) = true := by decide +kernel
theorem test_heartbeat_joins : after (.heartbeatReceive true (hb 2 0 0)) (paired 1 0) (fun t => t.mirror.syncState == syncResync && t.mirror.queue != [] && lagOf t.mirror == 0) = true ∧
    after (.heartbeatReceive true (hb 1 0 0)) (paired 1 0) (fun t => !t.mirror.paired) = true := by decide +kernel
theorem test_heartbeat_fences : after (.heartbeatReceive true (hb 1 2 6)) (pairIs 1 3 fun m => { m with epoch := 5 }) (fun t => t.mirror.role == roleFenced &&
      t.mirror.partnerEpoch == 6) = true ∧
    after (.heartbeatReceive false (hb 1 2 5)) (pairIs 1 3 fun m => { m with epoch := 5 }) (fun t => t.mirror.role == rolePrimary) = true := by decide +kernel
theorem wit_paths : ([1, 2, 3].all fun w => (paired w 2).mirror.paired && (paired w 2).mirror.withy && (paired w 2).mirror.fabric && inService (paired w 2)) = true ∧
    (pairIs 2 2 fun m => { m with fabric := false }).mirror.withy = true := by decide +kernel
theorem test_path_loss : after (.pathLoss true) (paired 2 2) (fun t => t.mirror.role == roleMirror && t.mirror.syncState == syncDetached && !t.mirror.split) = true ∧
    after (.pathLoss true) (pairIs 2 2 fun m => { m with fabric := false }) (fun t => t.mirror.role == roleFenced && t.mirror.split) = true := by decide +kernel
theorem test_pair_end : after .pairEnd (paired 1 2) (fun t => t.mirror == .reset) = true ∧
    after .pairEnd (paired 2 2) (fun t => t.mirror.role == roleFenced && t.mirror.paired) = true := by decide +kernel
theorem wit_mirror_items : appliesItems (paired 2 1) = true ∧ appliesItems (paired 3 1) = true ∧ appliesItems (paired 1 2) = false ∧
    appliesItems (paired 2 3) = false ∧ mirrors (pairIs 1 1 fun m => { m with queue := [(.mereFree 0, 64)], copyLeft := 1 }) = true ∧
    zeroForm (paired 2 1).mem.mere = true := by decide +kernel
theorem test_mirror_item : after (.mirrorItemApply (.mereWrite 0x8000 [5, 6])) (paired 2 1) (fun t => zeroBytes t.mem.mere 0x8000 2 == [5, 6]) = true ∧
    after (.mirrorItemApply (.job 9 (some [1]))) (paired 2 1) (fun t => (Tbl.get? t.jobs 9).map Job.res == some [1]) = true := by decide +kernel
theorem test_mirror_ack : after .mirrorAck (pairIs 1 1 fun m => { m with queue := [(.mereFree 0, 64)], copyLeft := 1 }) (fun t => t.mirror.queue == [] &&
      t.mirror.syncState == syncInSync && t.mirror.resyncs == 1) = true ∧
    after .mirrorAck (pairIs 1 1 fun m => { m with queue := [(.mereFree 0, 64), (.mereFree 1, 64)], copyLeft := 2 }) (fun t => t.mirror.syncState == syncResync &&
      lagOf t.mirror == 64) = true := by decide +kernel

/-! Power, heat, age and Peat. -/

def reading (p1 : Nat) : PowerReading := { p1 := p1, avg10 := p1, classes := [] }
def demand (tP tT : Nat) : State := { svc with power := { svc.power with tP := tP, tT := tT, t := max tP tT } }
theorem wit_HeatPowerAgeAndPeat : blockUp svc = true ∧ svc.bring.hexob = true ∧ inService svc = true ∧ svc.power.capW = 170 ∧
    (hottest (sensorReads svc [⟨0, 124⟩, ⟨3, 125⟩])).2 = 125 ∧ (hottest (sensorReads svc [⟨0, 124⟩])).2 = 124 ∧ drifted svc = false ∧
    drifted { svc with power := { svc.power with driftInj := [0] } } = true ∧ (svc.irq.groups[7]?).isSome = true := by decide +kernel
theorem test_power_estimate : after (.powerEstimate (reading 181)) (demand 0 0) (fun t => t.power.tP == 2 && t.power.t == 2 && t.power.episodes == 1) = true ∧
    after (.powerEstimate (reading 156)) (demand 4 0) (fun t => t.power.tP == 3 && t.power.throttleUs == 100) = true := by decide +kernel
theorem test_thermal : after (.thermalSensorRead [⟨0, 90⟩]) (demand 0 0) (fun t => t.power.tT == 1 && t.power.t == 1) = true ∧
    after (.thermalSensorRead [⟨0, 125⟩]) (demand 0 0) (fun t => t.bring.shutdown && t.bring.stage == 0) = true := by decide +kernel
theorem test_monitor : after (.monitorRead [.monitor 0 1005]) { svc with fuses := { svc.fuses with d0 := [(0, 1000)] } } (fun t => t.power.plan == 0) = true ∧
    after (.monitorRead [.monitor 0 1006]) { svc with fuses := { svc.fuses with d0 := [(0, 1000)] } } (fun t => t.power.plan == 1) = true := by decide +kernel
theorem test_hours : after .operatingHours svc (fun t => t.power.hours == 1000 && t.power.plan == 1) = true := by decide +kernel
def planned (offset target : Nat) : State := { svc with power := { svc.power with plans := [(0, { IslandPlan.reset with offset := offset, target := target, binTarget := 1 })] } }
theorem wit_offset : (planOf (planned 1 2) 0).offset < (planOf (planned 1 2) 0).target ∧ (planned 1 2).bring.stage = 5 := by decide +kernel
theorem test_offset : after (.offsetStep 0) (planned 1 2) (fun t => (planOf t 0).offset == 2 && (planOf t 0).bin == 1) = true ∧
    after (.offsetStep 0) (planned 2 2) (fun t => (planOf t 0).offset == 2 && (planOf t 0).bin == 0) = true := by decide +kernel
def peatRec (words : Nat) : PeatRec := { typ := 1, level := 1, island := 4, body := List.replicate words 0, key := [], rep := 0, seq := 0, cycles := 0 }
/-- One record pending; `full` is PEAT_FULL's number. -/
def peatPending (full : Option Nat) (words : Nat) : State :=
  { svc with peat := { svc.peat with online := true, pend := [⟨0, none, peatRec words⟩], full := full, nextSeq := 7 } }
theorem peatRec_size (n : Nat) : (peatRec n).size = 8 * (2 + n) := by simp only [PeatRec.size, peatRec, List.length_replicate]
theorem wit_peat : (peatPending none 1).peat.pick.isSome = true ∧ (peatPending none 1).peat.fill + (peatRec 1).size ≤ 0x100000 - 8 ∧
    svc.peat.pick = none := by decide +kernel
theorem wit_peat_full : 0x100000 - 8 < (peatPending none 1).peat.fill + (peatRec 131070).size := by
  rw [peatRec_size]; decide +kernel
theorem test_peat_writer : after .peatWriterTake (peatPending none 1) (fun t => t.peat.records.map PeatRec.seq == [7] && t.peat.nextSeq == 8 && t.peat.pend == []) = true ∧
    after .peatWriterTake (peatPending (some 3) 1) (fun t => t.peat.records == [] && t.peat.refused == 1) = true := by decide +kernel

/-! A value of each further case that a statement tells apart. -/

theorem wit_held_requests : heldFront svc = none ∧ serves svc 31 = true ∧
    (let s := { svc with hrp := { rsp := [], waiting := [.registerWrite 3 9 0xFF 0] } }
     s.pending = [] ∧ s.hrp.waiting ≠ [] ∧ hrpTakes s (requestTag (.registerWrite 3 9 0xFF 0)) = true ∧ (heldFront s).isSome = true) ∧
    (let s := { svc with hrp := { rsp := List.replicate 32 ⟨1, 0, 0⟩, waiting := [.hrpNotPresent 3 false] } }
     hrpTakes s (requestTag (.hrpNotPresent 3 false)) = false) := by decide +kernel
theorem wit_go_resets : ((laid svc 0x120 0 [(0, 10)]).mbox[0]?).any (fun b => !b.busy && fld (cmdBody b) 0 8 == 10 && opAccepted svc (cmdOp b)) = true ∧
    ((laid svc 0x121 0 [(0, 0x5741)]).mbox[0]?).any (fun b => !b.busy && cmdOp b == 0x121) = true ∧
    held (laid svc 0x121 0 [(0, 0x5741)]) = false := by decide +kernel
theorem wit_tripped_training : (let s := { s3 1 1 with stackTbl := [(6, { Stack.reset with tripped := true })] }
      inStage s 3 = true ∧ (stackAt s 6).cattrip = false ∧ (stackAt s 6).tripped = true) ∧ (s3 0 0).ctxCache = [] ∧
    (stackAt (joining 0) 0).tripped = false ∧ (stackAt (joining 0) 0).cattrip = false ∧
    (stackAt { joining 1 with stackTbl := [(0, { Stack.reset with tripped := true })] } 0).tripped = true := by decide +kernel
/-- Port 0 in training for a JOIN_RETRY. -/
def retraining : State :=
  let s := ask (port0 fun x => { x with state := 2 }) 0x130 0 [(0, 1)]
  { s with mbox := updAt s.mbox 0 fun b => { b with wait := .joinPort 0 0 } }
theorem wit_port_retry : retryAttempts retraining false 0 = some 0 ∧ (cport retraining 0).state = 2 ∧ (cport retraining 0).faultN = true ∧
    takes specJoinRetryPort (ask (port0 fun x => { x with state := 2 }) 0x130 0 [(0, 1)])
      (fun s _ => hasEngine s 0 = true ∧ (cport s 0).faultN = true ∧ (cport s 0).state = 2) = true ∧
    (cport linked 0).state ≠ 2 ∧ carriesFlits linked 0 = true ∧ (cport (setCport 0 (fun x => { x with state := 5 }) linked) 0).state = 5 := by
  decide +kernel
theorem test_fault_ends_training : ends (.cwOeFault 0 false) retraining (fun t => (cport t 0).state == 1 && !(cport t 0).oeEn) = true := by
  decide +kernel
theorem wit_forward_open : (let f := flitTo 2 4 opWriteAck
      let s := port0 fun x => { x with fwd := [f] }
      forwardOpen s 0 f = true ∧ forwardOpen { s with straps := { s.straps with split := 1 }, cw := { s.cw with ucieRetraining := [0, 1, 2, 3, 4, 5] } } 0 f =
        decide (dieOf { s with straps := { s.straps with split := 1 } } 0 = dieOf { s with straps := { s.straps with split := 1 } } 1)) ∧
    (let f := flitTo 2 1 opWriteAck
     forwardOpen (port0 fun x => { x with fwd := [f] }) 0 f = true) := by decide +kernel
theorem wit_at_once_points : ([(0x33, 0), (0x40, 0), (0x41, 5), (0x42, 3)].all fun a =>
      takes specInjectArm (ask full 0xA01 0 [(0, a.1), (32, a.2), (64, 1)]) (fun s c => c.fld 0 16 == a.1 && c.fld 80 16 == 0 && s.inject.isEmpty)) = true ∧
    names specKeyLoad (j1 0x410 [(0, 0xFF), (64, 2), (320, 2)]) 1 = true ∧ (stackAt full 0).state = 1 ∧ blockUp full = true := by decide +kernel
theorem test_at_once : ends (.injectArm 0) (ask full 0xA01 0 [(0, 0x41), (32, 5), (64, 1)]) (fun t => t.power.driftInj == [5]) = true ∧
    ends (.injectArm 0) (ask full 0xA01 0 [(0, 0x40), (32, 0), (64, 1)]) (fun t => (stackAt t 0).state == 2) = true := by decide +kernel
theorem wit_unpair : (let s := ask { paired roleMirror syncInSync with mirror := { (paired roleMirror syncInSync).mirror with mirrored := [(kJob, 1)] } } 0x802 0 []
      takes specMirrorUnpair s (fun u _ => mirroredOf u kJob == [1] && u.mirror.role == roleMirror) = true ∧
      (let t := { s with mbox := updAt s.mbox 0 fun b => { b with wait := .unpair [3] } }
       ((t.mbox[0]?).map fun b => (b.busy, b.wait)) = some (true, .unpair [3]) ∧ mgmtRuns t = true ∧ Tbl.has t.jobs 3 = false)) ∧
    Tbl.sorted bound.bindings = true ∧ (Tbl.get? bound.bindings 0).isSome = true := by decide +kernel
/-- Every range entry in use. -/
def usedRange : RangeEntry :=
  { domain := 1, key := 0, read := true, write := true, length := 16, pa := 0, va := 0, withdrawing := false, mbody := 0 }
def noRange : State := { full with xlate := { full.xlate with ranges := (List.range 1024).map fun i => (i, usedRange) } }
theorem firstFree_none {α : Type} (t : Tbl α) (n : Nat) : ∀ fuel i, i + fuel ≤ n → (∀ k < n, Tbl.has t k = true) → Tbl.firstFree t i fuel = none
  | 0, _, _, _ => rfl
  | fuel + 1, i, hn, h => by
    simp only [Tbl.firstFree, h i (by omega), if_true]
    exact firstFree_none t n fuel (i + 1) (by omega) h
theorem has_of_mem {α : Type} (v : Nat → α) (k : Nat) : ∀ l : List Nat, k ∈ l → Tbl.has (l.map fun i => (i, v i)) k = true
  | a :: l, h => by
    by_cases ha : k = a
    · simp [Tbl.has, Tbl.get?, ha]
    · have := has_of_mem v k l ((List.mem_cons.mp h).resolve_left ha)
      simpa [Tbl.has, Tbl.get?, ha] using this
theorem noRange_ranges : noRange.xlate.ranges = (List.range 1024).map fun i => (i, usedRange) := by simp only [noRange]
theorem wit_no_range : Tbl.firstFree noRange.xlate.ranges 0 1024 = none := by
  rw [noRange_ranges]
  exact firstFree_none _ 1024 1024 0 (by decide) fun k hk => has_of_mem (fun _ => usedRange) k _ (List.mem_range.mpr hk)
theorem wit_no_range_asked : (let s := ask noRange 0x301 1 (mapBody 0xFFFF 0x200000 0x200000)
     cmdReady specRangeMap s 0 && (busyBox s 0).any fun b => opAccepted (seen specRangeMap s) (cmdOp b) && fld (cmdBody b) 240 16 == 0xFFFF &&
       (match checkHeader (seen specRangeMap s) b with | .ok _ => true | _ => false)) = true := by decide +kernel
theorem wit_withdrawal_drains : let w := baseWd { m := 0, op := 0x304, tag := 0, seq := 1, job := 0, body := 0 } .paged 0 16 none
    (drainList (running (moveSlot moveDesc (some { moveTile [{ page0 with src := { page0.src with range := none } }] with issued := 64 }) none)) w).isEmpty = false := by
  decide +kernel
theorem wit_release_quants : Tbl.sorted [(0, 1), (1, 2)] = true ∧ Tbl.get? ([(0, 1), (1, 2)] : Tbl Nat) 0 = some 1 ∧
    releaseDrained (releasing full) 1 = false := by decide +kernel
theorem wit_abandoned_ring : (atRing { held0 .fetched with rings := full.rings.mapV fun _ r => { r with broken := true } } fun x =>
    x.broken && Fn.expander 0 != .mover (Fin.ofNat 4 x.quarter) && x.entries.isEmpty) = true := by decide +kernel
theorem wit_entry_rules : (atRing (held0 .fetched) fun x => x.state == 1 && fld (moveEntry .fetched).w0.toNat 44 1 == 0 && fld (moveEntry .fetched).w0.toNat 8 8 != 0) = true ∧
    (let s := ring0 fun r => { r with head := 3, tail := 3, state := 4, entries := [moveEntry .fetched] }
     atRing s fun x => (nextEntry x).isSome && mayStart s x 0 && x.state == 4) = true ∧
    (let s := { held0 .fetched with mirror := { full.mirror with role := roleFenced } }
     (atRing s fun x => mayStart s x 0) && s.mirror.role == roleFenced) = true ∧
    (let f : RingEntry := { moveEntry .fetched with pos := 3, w0 := BitVec.ofNat 64 (word0 [(44, 1)]) }
     let s := ring0 fun r => { r with head := 6, tail := 6, entries := [moveEntry .started, f] }
     atRing s fun x => nextEntry x == some f && mayStart s x 0 && fld f.w0.toNat 44 1 == 1 && !fenceMet x f) = true ∧
    (let e : RingEntry := { moveEntry .fetched with w0 := BitVec.ofNat 64 (bits [(0, 1), (1, 2), (16, 5)]) }
     (entryFault full 1 e).isSome || fld e.w0.toNat 8 8 == 0) = true := by decide +kernel
theorem wit_admission_rules : (let s := admitted true
      atStream s fun y => !entryHeld s 5 y && (y.state == stIdle)) = true ∧
    (let s := { admitted true with streams := (admitted true).streams.mapV fun _ y => { y with state := stLost } }
     atStream s fun y => y.state == stLost && !entryHeld s 5 y) = true ∧
    (let s := { admitted true with streams := (admitted true).streams.mapV fun _ y => { y with disable := true } }
     (atStream s fun y => y.disable) && cached s 5) = true ∧
    (let s := { held0 (.held ⟨0, 0, false, false, 0, 0, 0⟩) with streams := full.streams.mapV fun _ x => { x with waiting := [(0, 3)] } }
     atStream s fun y => entryHeld s 5 y) = true ∧
    storeOpen (ctxReading true) 5 = true ∧ cached { queued with ctxCache := [] } 5 = false ∧ nextAdmitted { queued with ctxCache := [] } 0 = some 5 := by
  decide +kernel
theorem wit_completion_waits : (atRing (ended 0 false) fun x => ringOpen (ended 0 false) x 0 1) = true ∧
    (let e := moveEntry (.held ⟨0, 0, false, false, 0, 64, 0⟩)
     allLanded (ended 0 false) 0 e ⟨0, 0, false, false, 0, 64, 0⟩ = true ∧
     (let p : Port := { portAt (delivering 0 true) 0 with dlvs := (portAt (delivering 0 true) 0).dlvs.map fun d => { d with slot := orphanSlot 0 } }
      let s := { ended 0 false with streams := (ended 0 false).streams.mapV fun _ y => { y with ran := true }, ports := [(0, p)] }
      allLanded s 0 e ⟨stScaleInvalid, 0, false, false, 0, 64, 0⟩ = false)) := by decide +kernel
theorem wit_tile_faults : metFault (moveTile []) = none ∧
    metFault { newTile 0 ⟨0, 0⟩ with indexFail := some { status := stBusRead, addr := 0, detail := 0, needs := none } } ≠ none ∧
    lookTurn (missing false full.xlate .reset missTile) 0 = true ∧ ptrDeepest [{ level := 1, va := 0, pa := 0x300000 }] 0 ≠ none ∧
    tableOpen (walking false { QXlate.reset with walks := [walk0 1 0x300000] }) 0 (walk0 1 0x300000) = true := by decide +kernel
def busyLane : State := setPort 0 (fun x => { x with outAt := portCycle (delivering 512 true) 0, out := [plainBeat dkMereData 0 0 []] }) (delivering 512 true)
theorem wit_second_beat : (let s := busyLane
      (portAt s 0).outAt = portCycle s 0 ∧ (portAt s 0).out.length = 1 ∧ beatTurn s 0 = some 0) := by decide +kernel
theorem test_second_beat : after (.portDelivery 0 0) busyLane (fun t => onPort t fun x => x.out.map DlvBeat.lane == [0, 1]) = true := by decide +kernel
/-- A write of 4 bytes, one that adds 5 to an INT32 element, and one that changes part of a word. -/
def adding (t : Target) (a : Nat) : MemReq := { wr0 with target := t, addr := a, latch := a, adds := [(0, 5)], addTyp := 10, data := 0, mask := 0xFFFFFFFF }
theorem wit_memory_cases : (adding (.stack 0) 0x1000).adds ≠ [] ∧ partly wr0.mask 32 = true ∧ partly (0xFFFFFFFF : BitVec 512) 32 = false ∧
    (eccLook .quiet (stackSite 0 0x1000 1) [] (holding 1 [adding (.stack 0) 0x1000])).unc = [] ∧
    stackWorks (holding 1 []) 0 = true ∧ stackWorks (holding 2 []) 0 = false ∧
    (let s := { full with stackTbl := [(0, { Stack.reset with state := 1, updating := true })] }
     (stackAt s 0).updating = true ∧ true ≠ (stackAt full 0).updating) ∧
    (let q := adding (.mere 512) 0x8000
     let s := holding 1 [q]
     nextAtBank s 512 = some q ∧ (eccLook .quiet (mereSite q.addr (addReader q) true) (badWords s.mem q.addr) s).unc = [] ∧
     (eccLook .quiet (mereSite q.addr (addReader q) true) (badWords { s.mem with mereBad := [0x2000] } q.addr) s).unc ≠ []) := by decide +kernel
theorem test_added : after (.mereBankAccess 512 .quiet) (let s := holding 1 [adding (.mere 512) 0x8000]
      { s with mem := { s.mem with mere := [(0x8000, 7)] } }) (fun t => zeroGet t.mem.mere 0x8000 == 12 && (reqOf t 7).map MemReq.sums == some [12]) = true := by
  decide +kernel
theorem test_updating_is_idle : after (.stackRequest 0 .quiet) (let s := holding 1 [wr0]
      { s with stackTbl := [(0, { Stack.reset with state := 1, updating := true })] }) (fun t => answerAt t 7 == none) = true := by decide +kernel
/-- Two rows still to be written, in order. -/
def twoRows : List RowOut := [{ addr := 0x8000, data := 0, mask := 0, adds := [], codes := [] }, { addr := 0x8040, data := 5, mask := 0xFF, adds := [], codes := [] }]
theorem wit_rows_in_order : backOpen (burstOut (burst0 [7] []) [answered 0 req0]) (answered 0 req0) = true ∧
    Tbl.sorted (burstOut (burst0 [7] []) [answered 0 req0]).bursts = true ∧
    (burst0 [] [7]).vals = none ∧ (burst0 [7] []).packets = [] ∧ inOrderDesc moveDesc = false ∧
    mergeRows moveDesc (moveTile [page0]) (runElems moveDesc (ixOf (moveTile [page0]).idx) [(0, 64)]) = [] ∧
    ({ burst0 [] [7] with todo := twoRows } : Burst).todo.length = 2 ∧
    (writeReq moveDesc (moveTile [page0]) { burst0 [] [7] with todo := twoRows } 0 20 { addr := 0x8040, data := 5, mask := 0xFF, adds := [], codes := [] }).isSome = true := by
  decide +kernel
theorem wit_slot_and_area_rows : (let q := { mereReq true 7 0 with who := .slot 0 2, res := some (stOk, 0) }
      let s := { full with mem := { full.mem with reqs := [q] } }
      reqOf s 7 = some q ∧ inService s = true ∧ backOpen s q = true ∧ q.target ≠ .host) ∧
    (let q := { mereReq true 7 0 with who := .area 1 0, res := some (stMereUnc, 0) }
     let s := { full with mem := { full.mem with reqs := [q] } }
     backOpen s q = true ∧ queueGenOf s 1 = 0 ∧ (Tbl.get? s.queues 1).isSome = true) := by decide +kernel
theorem test_area_row : after (.writeResponse 7 .quiet) { full with mem := { full.mem with
      reqs := [{ mereReq true 7 0 with who := .area 1 0, res := some (stMereUnc, 0) }] } }
    (fun t => t.mem.reqs == [] && (queueAt t 1).map Queue.roundErr == some stMereUnc) = true := by decide +kernel
theorem wit_credit_turn : creditTurn (expanding 0 0) 0 0 = true ∧ creditTurn (expanding 0 32) 0 0 = false ∧
    (let s := { expanding 1 0 with bursts := [(0, burst0 [7] [])] }
     (s.bursts.any fun b => b.2.slot == 0 && b.2.reads != []) = true ∧ baseNumber s (expandDesc 1 0) 0 ≥ 16) ∧
    creditTurn (basedAt0 (expanding 1 31)) 0 0 = true := by decide +kernel
theorem wit_quant_cases : (atSlot (quantising 128 0 0x3F800000) fun x => x.cur.any fun t => (Tbl.get? (quantising 128 0 0x3F800000).bindings 1).any fun b =>
      quantWork (quantising 128 0 0x3F800000) 0 x t b && quantTurn (quantising 128 0 0x3F800000) 0 b) = true ∧
    (atSlot (quantising 1 0 0x3F800000) fun x => x.cur.any fun t => (Tbl.get? (quantising 1 0 0x3F800000).bindings 1).any fun b =>
      !quantWork (quantising 1 0 0x3F800000) 0 x t b) = true ∧
    (let s := quantising 128 0 0x3F800000
     let u := { s with quants := s.quants.mapV fun _ q => { q with replay := [⟨5, 0, 10, [], [], []⟩] } }
     (replayOf u 0 5 0).map Replay.done = some 10) ∧ (envFlips .quiet 0x0B 0 256) = [] := by decide +kernel
theorem wit_core_read_order : (∀ d ∈ (portAt (coreOut (coreReq0 false [] [] false) []) 0).reads, d.write = false → d.slot = 0 → 2 ≤ d.id) := by decide +kernel
theorem wit_held_messages : slotReady (heldMsg 1 false) 0 ((queueAt (heldMsg 1 false) 0).getD (blankQueue (cmdFor 0 1))) = true ∧
    (let q := { mereReq true 7 0 with who := .slot 0 3 }
     let s := { heldMsg 1 false with mem := { (heldMsg 1 false).mem with reqs := [q] } }
     (queueAt s 0).any (fun x => !slotReady s 0 x)) = true ∧
    areaLanding { roundDone 0 with mem := { full.mem with reqs := [{ mereReq true 7 0 with who := .area 1 0 }] } } 1 = true ∧
    areaLanding (roundDone 0) 1 = false := by decide +kernel
theorem wit_crossings : crossOpen linked 0 1 = true ∧ replyOpen (arrived (requestTo opWrite 3 64 4 [])) 0 (requestTo opWrite 3 64 4 []) = true ∧
    responseOpen (outstanding ackedMsg opMessageResp stOk 5) 0 (requestTo opRead 3 0 1 []) = true ∧
    ((windowAt linked 3).any fun x => windowMem linked x && windowOpen linked 0 x (x.base + 64) 4) = true ∧
    (let s := { full with straps := ⟨0, 1, 0, 0⟩, cw := { full.cw with ucieRetraining := [0, 1, 2, 3, 4, 5] } }
     ((List.range 4).any fun q => (List.range 4).any fun r => dieOf s q != dieOf s r && !crossOpen s q r)) = true := by decide +kernel
theorem wit_pair_more : counted (pairIs 2 2 id) true (hb 1 2 7) = true ∧ (pairIs 1 3 id).mirror.withy = true ∧ (hb 2 0 0).role.toNat ≠ rolePrimary ∧
    epochLess (pairIs 1 3 id).mirror.epoch (hb 2 0 0).epoch = false := by decide +kernel
theorem test_mirror_follows : after (.heartbeatReceive true (hb 1 2 7)) (pairIs 2 2 id) (fun t => t.mirror.epoch == 7 && t.mirror.role == roleMirror) = true ∧
    after (.heartbeatReceive true (hb 3 3 0)) (pairIs 1 3 id) (fun t => t.mirror.syncState == syncResync) = true := by decide +kernel
theorem wit_before_hexob : (inStg 1).bring.pwrOk = true ∧ (blockUp (inStg 1) && (inStg 1).bring.hexob) = false ∧ blockUp (inStg 1) = true := by decide +kernel
theorem test_before_hexob : after (.monitorRead [.monitor 0 1006]) (let s := inStg 1
      { s with fuses := { s.fuses with d0 := [(0, 1000)] } }) (fun t => t.power.plan == 0 && t.power.mons == [(0, 1006)]) = true ∧
    after (.thermalSensorRead [⟨0, 90⟩]) (inStg 1) (fun t => t.power.hotTemp == 90 && t.power.tT == 0) = true := by decide +kernel

end Sys2Proof.Tests
end

section
/-! PROOF. The host register port takes, holds or answers a request (02_ports.md, R61 to R64). -/

namespace Sys2Proof.Machine

open Sys2Proof

variable {s : State} {c : Instr} {tag : BitVec 5}

theorem hrpTakes_iff : hrpTakes s tag = true ↔ s.hrp.rsp.length < 32 ∧ ∀ r ∈ s.hrp.rsp, r.tag ≠ tag := by
  simp only [hrpTakes, Bool.and_eq_true, decide_eq_true_eq, Bool.not_eq_true', List.any_eq_false, beq_iff_eq, ne_eq]

theorem hrpTakes_eq_false_iff :
    hrpTakes s tag = false ↔ 32 ≤ s.hrp.rsp.length ∨ ∃ r ∈ s.hrp.rsp, r.tag = tag := by
  simp only [hrpTakes, Bool.and_eq_false_iff, decide_eq_false_iff_not, Nat.not_lt, Bool.not_eq_false', List.any_eq_true,
    beq_iff_eq]

theorem hrpRequest_of_held (f : State → State) (h : hrpTakes s tag = false ∨ s.hrp.waiting ≠ []) :
    hrpRequest c tag f s = holdRequest c s :=
  if_pos (by simpa only [Bool.or_eq_true, Bool.not_eq_true', List.isEmpty_eq_false_iff] using h)

theorem hrpRequest_of_closed (f : State → State) (ht : hrpTakes s tag = true) (hw : s.hrp.waiting = [])
    (ho : hrpOpen s = false) : hrpRequest c tag f s = answer tag hrpAbsent 0 s := by
  have pass : ¬ (!hrpTakes s tag || !s.hrp.waiting.isEmpty) = true := by rw [ht, hw]; decide
  rw [hrpRequest, if_neg pass, if_neg (ne_true_of_eq_false ho)]

/-- The rows that present a request of that tag at the port (R61); a CAUSE_CLEAR does so at a cause register (R477). -/
inductive PortRequest (tag : BitVec 5) : Instr → Prop where
  | shell (w : Bool) : PortRequest tag (.hrpNotPresent tag w)
  | register (a : BitVec 21) (be : BitVec 8) (d : Word64) : PortRequest tag (.registerWrite tag a be d)
  | commandArea (m : Fin 8) (w : Fin 32) (be : BitVec 8) (d : Word64) : PortRequest tag (.mboxCmdAreaWrite tag m w be d)
  | doneAck (m : Fin 8) (be : BitVec 8) (d : Word64) : PortRequest tag (.mboxDoneAck tag m be d)
  | cause (a : BitVec 21) (be : BitVec 8) (d : Word64) (h : isCause (hrpMap a) = true) :
      PortRequest tag (.causeClear tag a be d)
  | ringStatus (r : Fin 4096) (w : Bool) : PortRequest tag (.ringStatusRead tag r w)
  | peatWindow (w : Fin 131072) (env : Env) : PortRequest tag (.peatWindowRead tag w env)
  | bell (r : Fin 4096) (be : BitVec 8) (d : Word64) : PortRequest tag (.doorbell tag r be d)

namespace PortRequest

theorem requestTag_eq (h : PortRequest tag c) : requestTag c = tag := by
  cases h <;> rfl

/-- Every such row goes through the port, HRP_NOT_PRESENT while the page is closed (R64). -/
theorem exec_eq_hrpRequest (h : PortRequest tag c) (hs : hrpOpen s = false ∨ ∀ w, c ≠ .hrpNotPresent tag w) :
    ∃ serve, exec c s = .next (hrpRequest c tag serve s) := by
  cases h with
  | shell w =>
    have closed : hrpOpen s = false := hs.resolve_right fun h => h w rfl
    exact ⟨id, congrArg Host.Outcome.next (if_neg (ne_true_of_eq_false closed))⟩
  | cause a be d ha => exact ⟨_, congrArg Host.Outcome.next (if_pos ha)⟩
  | register | commandArea | doneAck | ringStatus | peatWindow | bell => exact ⟨_, rfl⟩

theorem exec_of_closed (h : PortRequest tag c) (ht : hrpTakes s tag = true) (hw : s.hrp.waiting = [])
    (ho : hrpOpen s = false) : exec c s = .next (answer tag hrpAbsent 0 s) := by
  obtain ⟨serve, he⟩ := h.exec_eq_hrpRequest (.inl ho)
  rw [he, hrpRequest_of_closed serve ht hw ho]

theorem exec_of_held (h : PortRequest tag c) (hh : hrpTakes s tag = false ∨ s.hrp.waiting ≠ [])
    (hs : hrpOpen s = false ∨ ∀ w, c ≠ .hrpNotPresent tag w) : exec c s = .next (holdRequest c s) := by
  obtain ⟨serve, he⟩ := h.exec_eq_hrpRequest hs
  rw [he, hrpRequest_of_held serve hh]

end PortRequest

theorem exec_hrpNotPresent_of_open (ho : hrpOpen s = true) (w : Bool) : exec (.hrpNotPresent tag w) s = .next s :=
  congrArg Host.Outcome.next (if_pos ho)

theorem runHeld_eq_exec (h : ∀ tag w, c ≠ .hrpNotPresent tag w) : runHeld c s = exec c s := by
  unfold runHeld
  split
  · next tag w => exact absurd rfl (h tag w)
  · rfl

theorem heldFront_of_takes {rest : List Instr} (hw : s.hrp.waiting = c :: rest)
    (ht : hrpTakes s (requestTag c) = true) : heldFront s = some (c, rest) := by
  simp only [heldFront, hw, ht, if_true]

/-- With no command in the queue the port accepts the first held request that it can take (R62, log entry 85). -/
theorem step_eq_acceptHeld {rest : List Instr} (hp : s.pending = []) (hf : heldFront s = some (c, rest)) :
    step s = acceptHeld c rest s := by
  simp only [step, popFront, hp, hf]

theorem acceptHeld_of_next {rest : List Instr} {t : State}
    (hr : runHeld c { s with hrp := { s.hrp with waiting := [] } } = .next t) :
    acceptHeld c rest s = .next { t with hrp := { t.hrp with waiting := rest } } := by
  rw [acceptHeld, hr]

/-- Settles O13: every row of the port goes through `hrpRequest`, whose three branches are the shell's answer (R64), the
hold (R62) and the service; an empty queue lets `step` accept the first held request. -/
theorem shellAnswersNotPresent : Obligations.ShellAnswersNotPresent := by
  intro tag s c rows
  have hc : PortRequest tag c := by
    obtain ⟨w, rfl⟩ | ⟨a, be, d, rfl⟩ | ⟨m, w, be, d, rfl⟩ | ⟨m, be, d, rfl⟩ | ⟨a, be, d, rfl, ha⟩ | ⟨r, w, rfl⟩ |
      ⟨w, env, rfl⟩ | ⟨r, be, d, rfl⟩ := rows
    · exact .shell w
    · exact .register a be d
    · exact .commandArea m w be d
    · exact .doneAck m be d
    · exact .cause a be d ha
    · exact .ringStatus r w
    · exact .peatWindow w env
    · exact .bell r be d
  refine ⟨fun few fresh hw ho => ?closed, fun busy => hc.exec_of_held ?held, fun ho => exec_hrpNotPresent_of_open ho,
    fun rest hp hw few fresh real t he => ?accepted⟩
  case closed => exact hw ▸ hc.exec_of_closed (hrpTakes_iff.2 ⟨few, fresh⟩) hw ho
  case held => rwa [hrpTakes_eq_false_iff, or_assoc]
  case accepted =>
    have takes : hrpTakes s (requestTag c) = true := hc.requestTag_eq ▸ hrpTakes_iff.2 ⟨few, fresh⟩
    have notShell : ∀ tag' w, c ≠ .hrpNotPresent tag' w := by
      rintro tag' w rfl
      obtain rfl : tag' = tag := hc.requestTag_eq
      exact real w rfl
    rw [step_eq_acceptHeld hp (heldFront_of_takes hw takes), acceptHeld_of_next ((runHeld_eq_exec notShell).trans he)]

end Sys2Proof.Machine
end

section
/-! PROOF. SVN_COMMIT: the stages that accept it and the fuses it leaves (03_bringup.md, R91). -/

namespace Sys2Proof.Machine

open Sys2Proof

/-- A system-only opcode that a member standing by takes too is accepted outside S1 once Boardwalk has opened (R104, R145). -/
theorem opAccepted_opSys_iff {s : State} {op : Nat} (sys : opFind op = some (opSys op))
    (own : mirroredOps.contains op = false) :
    opAccepted s op = true ↔ s.bring.stage ≠ 1 ∧ s.bring.blockReady = true := by
  simp only [opAccepted, sys, own, opSys, Bool.and_false, Bool.not_false, Bool.and_true, ite_self]
  by_cases loading : s.bring.stage = 1
  · simp [loading]
  · simp [loading]

/-- Settles O27: the row's action is `commitSvn` and an empty OK, whatever the fuses hold; 0x0113 is a system-only opcode of
no mirrored kind. -/
theorem svnCommits : Obligations.SvnCommits :=
  ⟨carriesOut_of (fun _ _ => rfl) (fun _ _ _ => rfl) (fun _ _ _ => rfl) (fun _ _ _ => Nat.zero_le _),
    fun _ => opAccepted_opSys_iff (by decide) (by decide)⟩

end Sys2Proof.Machine
end

section
/-! PROOF. What a table holds once an entry is put in it, and what it says of the table of stacks. -/

namespace Sys2Proof

variable {α : Type}

/-- A put entry reads back, and every other as before, sorted or not. -/
theorem Tbl.get?_put (t : Tbl α) (i j : Nat) (v : α) :
    Tbl.get? (Tbl.put t i v) j = if j = i then some v else Tbl.get? t j := by
  induction t with
  | nil => rfl
  | cons e rest ih =>
    obtain ⟨k, w⟩ := e
    simp only [Tbl.put]
    split
    case isTrue same =>
      subst same
      simp only [Tbl.get?]
      split <;> rfl
    case isFalse other =>
      split
      case isTrue => rfl
      case isFalse =>
        simp only [Tbl.get?, ih]
        by_cases hk : j = k
        · subst hk
          simp [Ne.symm other]
        · simp [hk]

theorem Tbl.getD_put (t : Tbl α) (i j : Nat) (v d : α) :
    Tbl.getD (Tbl.put t i v) j d = if j = i then v else Tbl.getD t j d := by
  rw [Tbl.getD, Tbl.get?_put]
  split <;> rfl

namespace Machine

theorem stackAt_setStack (k i : Nat) (f : Stack → Stack) (s : State) :
    stackAt (setStack k f s) i = if i = k then f (stackAt s k) else stackAt s i :=
  Tbl.getD_put ..

theorem stackAt_congr {s t : State} (h : t.stackTbl = s.stackTbl) (i : Nat) : stackAt t i = stackAt s i :=
  congrArg (Tbl.getD · i Stack.reset) h

end Machine

end Sys2Proof
end

section
/-! PROOF. What bring-up changes beside its unit: a note changes Peat and the cause groups, a store of contexts memory. -/

namespace Sys2Proof.Machine

open Sys2Proof

/-- `t` is `s` but for Peat and the cause groups: what a record of bring-up changes (R92). -/
def ButNotes (s t : State) : Prop := t = { s with peat := t.peat, irq := { s.irq with groups := t.irq.groups } }

theorem offer_notes (n : Option Nat) (r : PeatRec) (s : State) : ButNotes s (offer n r s) := by
  exact congrArg (fun q => { s with irq := q, peat := (s.peat.offer n r).peat }) (setGroupIf_fields ..)

theorem unitNoted_notes (reason kind unit rate attempts : Nat) (s : State) :
    ButNotes s (unitNoted reason kind unit rate attempts s) := offer_notes ..

theorem stackAt_unitNoted (reason kind unit rate attempts : Nat) (s : State) (i : Nat) :
    stackAt (unitNoted reason kind unit rate attempts s) i = stackAt s i := rfl

/-- `t` is `s` but for memory. -/
def ButMem (s t : State) : Prop := t = { s with mem := t.mem }

theorem ButMem.refl (s : State) : ButMem s s := rfl

theorem ButMem.trans {a b c : State} (h : ButMem a b) (g : ButMem b c) : ButMem a c := by
  unfold ButMem at *
  rw [g, h]

theorem storeCtx_butMem (i : Nat) (s : State) : ButMem s (storeCtx i s) := by
  unfold storeCtx
  split
  · split <;> rfl
  · rfl

theorem storeCached_butMem (s : State) : ButMem s (storeCached s) :=
  List.foldlRecOn _ _ (motive := ButMem s) (.refl s) fun _ outer _ _ =>
    List.foldlRecOn _ _ (motive := ButMem s) outer fun t inner i _ => inner.trans (storeCtx_butMem i t)

theorem storeCached_of_nil {s : State} (h : s.ctxCache = []) : storeCached s = s := by
  rw [storeCached, h, List.foldl_nil]

end Sys2Proof.Machine
end

section
/-! PROOF. S4 is entered with every stack in the state that training left it in (03_bringup.md, R99, R100). -/

namespace Sys2Proof.Machine

open Sys2Proof

/-- `t` is in the stage of `s`, with each stack in service, failed or untrained as in `s`. -/
def SameService (s t : State) : Prop :=
  t.bring.stage = s.bring.stage ∧ ∀ i, (stackAt t i).state = (stackAt s i).state

theorem SameService.refl (s : State) : SameService s s := ⟨rfl, fun _ => rfl⟩

theorem SameService.trans {a b c : State} (h : SameService a b) (g : SameService b c) : SameService a c :=
  ⟨g.1.trans h.1, fun i => (g.2 i).trans (h.2 i)⟩

theorem SameService.foldl {α : Type} {f : State → α → State} (h : ∀ t x, SameService t (f t x)) (l : List α) (s : State) :
    SameService s (l.foldl f s) :=
  List.foldlRecOn l f (motive := SameService s) (.refl s) fun t before x _ => before.trans (h t x)

theorem ButReply.sameService {m : Nat} {s t : State} (h : ButReply m s t) : SameService s t := by
  obtain ⟨frame, -, -⟩ := h
  exact ⟨congrArg (·.bring.stage) frame, fun i => congrArg Stack.state (stackAt_congr (congrArg State.stackTbl frame) i)⟩

theorem offer_sameService (needs : Option Nat) (r : PeatRec) (s : State) : SameService s (offer needs r s) :=
  ⟨rfl, fun _ => rfl⟩

theorem startPort_sameService (s : State) (p : Nat) : SameService s (startPort s p) := by
  unfold startPort
  dsimp only
  split
  · exact .refl s
  · split <;> exact ⟨rfl, fun _ => rfl⟩

theorem exitS4_sameService (s : State) : SameService s (exitS4 s) := by
  unfold exitS4
  split <;> exact ⟨rfl, fun _ => rfl⟩

theorem finishWait_sameService (w : CmdWait) (status len bits : Nat) (s : State) :
    SameService s (finishWait w status len bits s) := by
  refine SameService.foldl (fun t m => ?_) _ s
  split
  · split
    · exact (respond_reply ..).sameService
    · exact .refl t
  · exact .refl t

theorem clearTrip_sameService (k : Nat) (s : State) : SameService s (clearTrip k s) := by
  refine ⟨rfl, fun i => ?_⟩
  rw [clearTrip, stackAt_setStack]
  split
  · next at_k => rw [at_k]
  · rfl

theorem resolveJoin_sameService (s : State) (k : Nat) : SameService s (resolveJoin s k) := by
  unfold resolveJoin
  split
  case isTrue => exact finishWait_sameService ..
  case isFalse =>
    split
    case isTrue => exact SameService.trans (offer_sameService ..) (finishWait_sameService ..)
    case isFalse =>
      split
      case isTrue => exact clearTrip_sameService k s
      case isFalse => exact .refl s

theorem enterS4_sameService (s : State) :
    SameService { s with bring := { s.bring with stage := 4 } } (enterS4 s) :=
  have noted := offer_sameService none _ _
  have ports := (noted.trans (SameService.foldl startPort_sameService _ _)).trans (exitS4_sameService _)
  ports.trans (SameService.foldl resolveJoin_sameService _ _)

theorem enterS4_stage (s : State) : (enterS4 s).bring.stage = 4 := (enterS4_sameService s).1

theorem enterS4_stack_state (s : State) (i : Nat) : (stackAt (enterS4 s) i).state = (stackAt s i).state :=
  (enterS4_sameService s).2 i

end Sys2Proof.Machine
end

section
/-! PROOF. The training of stacks in S3 (03_bringup.md, R51, R96 to R99). -/

namespace Sys2Proof.Machine

open Sys2Proof

variable {s : State} {k n : Nat} {tr : StackTrain}

/-! A stack joins. -/

/-- A stack as training leaves it (R97). -/
def trained (s : State) (k : Nat) (tr : StackTrain) (x : Stack) : Stack :=
  { x with state := 1, rate := joinRate s k, capGiB := if x.capGiB = 0 then min tr.capGiB 64 else x.capGiB
           training := tr.results, switching := none }

/-- The stack has joined and the context region has its place, but no cached context is stored in it yet (R98, R271). -/
def seated (k n : Nat) (tr : StackTrain) (s : State) : State :=
  let u := unitNoted 2 1 k (joinRate s k) n (setStack k (trained s k tr) s)
  { u with bring := { u.bring with ctxStack := some (u.bring.ctxStack.getD k) } }

theorem joinStack_eq (k n : Nat) (tr : StackTrain) (s : State) : joinStack k tr n s =
    if s.bring.ctxStack.isNone then storeCached (seated k n tr s) else seated k n tr s := rfl

theorem seated_frame (k n : Nat) (tr : StackTrain) (s : State) : seated k n tr s = { s with
    bring := (seated k n tr s).bring, stackTbl := (seated k n tr s).stackTbl, peat := (seated k n tr s).peat
    irq := { s.irq with groups := (seated k n tr s).irq.groups } } :=
  congrArg (fun u : State => { u with bring := (seated k n tr s).bring })
    (unitNoted_notes 2 1 k (joinRate s k) n (setStack k (trained s k tr) s))

theorem joinStack_butMem (k n : Nat) (tr : StackTrain) (s : State) :
    ButMem (seated k n tr s) (joinStack k tr n s) := by
  rw [joinStack_eq]
  split
  · exact storeCached_butMem _
  · exact .refl _

theorem joinStack_bring (k n : Nat) (tr : StackTrain) (s : State) :
    (joinStack k tr n s).bring = { s.bring with ctxStack := some (s.bring.ctxStack.getD k) } :=
  congrArg State.bring (joinStack_butMem k n tr s)

theorem joinStack_stackTbl (k n : Nat) (tr : StackTrain) (s : State) :
    (joinStack k tr n s).stackTbl = Tbl.put s.stackTbl k (trained s k tr (stackAt s k)) :=
  congrArg State.stackTbl (joinStack_butMem k n tr s)

theorem joinStack_mem (h : s.bring.ctxStack.isSome = true ∨ s.ctxCache = []) : (joinStack k tr n s).mem = s.mem := by
  rw [joinStack_eq]
  split
  case isTrue unplaced =>
    have noneCached : s.ctxCache = [] := h.resolve_left (by simpa using unplaced)
    rw [storeCached_of_nil (s := seated k n tr s) noneCached]
    rfl
  case isFalse => rfl

theorem joinStack_frame (k n : Nat) (tr : StackTrain) (s : State) :
    let t := joinStack k tr n s
    t = { s with bring := t.bring, stackTbl := t.stackTbl, mem := t.mem, peat := t.peat
                 irq := { s.irq with groups := t.irq.groups } } := by
  intro t
  have stored : ButMem (seated k n tr s) t := joinStack_butMem k n tr s
  unfold ButMem at stored
  rw [seated_frame] at stored
  rw [stored]

/-! A stack fails. -/

theorem stackAt_clearTrip_failStack (k n i : Nat) (s : State) : stackAt (clearTrip k (failStack k n s)) i =
    if i = k then { stackAt s k with state := 3, tripped := false } else stackAt s i := by
  rw [clearTrip, stackAt_setStack, failStack, stackAt_unitNoted, stackAt_unitNoted, stackAt_setStack, stackAt_setStack,
    if_pos rfl]
  split <;> rfl

theorem clearTrip_failStack_frame (k n : Nat) (s : State) :
    let t := clearTrip k (failStack k n s)
    t = { s with stackTbl := t.stackTbl, peat := t.peat, irq := { s.irq with groups := t.irq.groups } } :=
  congrArg (clearTrip k) (unitNoted_notes 3 1 k 0 n (setStack k (fun x => { x with state := 3 }) s))

/-! The end of an attempt. -/

/-- The turn passes to the next stack (R96). -/
def turnPassed (b : Bringup) : Bringup := { b with trainIdx := b.trainIdx + 1, trainAttempts := 0 }

theorem nextStack_of_lt (h : s.bring.trainIdx < 23) : nextStack s = { s with bring := turnPassed s.bring } :=
  if_neg (by simp only; omega)

theorem nextStack_of_last (h : s.bring.trainIdx = 23) : nextStack s = enterS4 { s with bring := turnPassed s.bring } :=
  if_pos (by simp only; omega)

theorem trainedStack_iff : trainedStack s k tr = true ↔
    tr.ok = true ∧ 0 < tr.capGiB ∧ (stackAt s k).tripped = false ∧ (stackAt s k).cattrip = false := by
  simp only [trainedStack, Bool.and_eq_true, decide_eq_true_eq, Bool.not_eq_true', and_assoc]

section
variable (hs : inStage s 3 = true)
include hs

theorem stage_of_inStage : s.bring.stage = 3 := by
  simp only [inStage, Bool.and_eq_true, beq_iff_eq] at hs
  exact hs.1.2

theorem joinRate_of_inStage (k : Nat) : joinRate s k = 0 :=
  if_neg (by rw [stage_of_inStage hs]; decide)

theorem stackAttempt_of_not_turn (turn : trainOrder s.bring.trainIdx ≠ k) : stackAttempt k tr s = s := by
  rw [stackAttempt, if_pos hs, if_neg turn]

variable (turn : trainOrder s.bring.trainIdx = k)
include turn

theorem stackAttempt_of_turn : stackAttempt k tr s = attemptS3 k tr s := by
  rw [stackAttempt, if_pos hs, if_pos turn]

theorem stackAttempt_of_cattrip (high : (stackAt s k).cattrip = true) : stackAttempt k tr s =
    nextStack (unitNoted 4 1 k 0 0 (setStack k (fun x => { x with state := 3, tripped := false }) s)) := by
  rw [stackAttempt_of_turn hs turn, attemptS3, if_pos high]

theorem stackAttempt_of_trained (ok : trainedStack s k tr = true) : stackAttempt k tr s =
    nextStack (joinStack k tr (s.bring.trainAttempts + 1) s) := by
  have low : (stackAt s k).cattrip = false := (trainedStack_iff.1 ok).2.2.2
  rw [stackAttempt_of_turn hs turn, attemptS3, if_neg (ne_true_of_eq_false low), if_pos ok]

/-- A stack that trained joins at 3.2 Gb/s, and the turn passes (R97, R98). -/
theorem stackAttempt_joins (ok : trainedStack s k tr = true) (more : s.bring.trainIdx < 23) :
    let t := stackAttempt k tr s
    t.bring = { turnPassed s.bring with ctxStack := some (s.bring.ctxStack.getD k) } ∧
      t.stackTbl = Tbl.put s.stackTbl k { trained s k tr (stackAt s k) with rate := 0 } ∧
      (s.bring.ctxStack.isSome = true ∨ s.ctxCache = [] → t.mem = s.mem) ∧
      t = { s with bring := t.bring, stackTbl := t.stackTbl, mem := t.mem, peat := t.peat
                   irq := { s.irq with groups := t.irq.groups } } := by
  rw [stackAttempt_of_trained hs turn ok]
  generalize s.bring.trainAttempts + 1 = n
  rw [nextStack_of_lt (by rw [joinStack_bring]; exact more)]
  refine ⟨congrArg turnPassed (joinStack_bring ..), ?_, joinStack_mem,
    congrArg (fun u : State => { u with bring := turnPassed (joinStack k tr n s).bring }) (joinStack_frame ..)⟩
  rw [joinStack_stackTbl, trained, joinRate_of_inStage hs]

/-- After the last stack S4 is entered, with that stack in service (R99). -/
theorem stackAttempt_enters_S4 (ok : trainedStack s k tr = true) (last : s.bring.trainIdx = 23) :
    let t := stackAttempt k tr s
    t.bring.stage = 4 ∧ (stackAt t k).state = 1 := by
  rw [stackAttempt_of_trained hs turn ok]
  generalize s.bring.trainAttempts + 1 = n
  rw [nextStack_of_last (by rw [joinStack_bring]; exact last)]
  have inService : (stackAt (joinStack k tr n s) k).state = 1 := by
    rw [stackAt, joinStack_stackTbl, Tbl.getD_put, if_pos rfl]
    rfl
  exact ⟨enterS4_stage _, (enterS4_stack_state _ k).trans inService⟩

/-- A stack held by its STK_CATTRIP is failed with no attempt, and the turn passes (R51). -/
theorem stackAttempt_held (high : (stackAt s k).cattrip = true) (more : s.bring.trainIdx < 23) :
    let t := stackAttempt k tr s
    t.bring = turnPassed s.bring ∧ (stackAt t k).state = 3 ∧ ∀ i, i ≠ k → stackAt t i = stackAt s i := by
  have table (i : Nat) := stackAt_setStack k i (fun x => { x with state := 3, tripped := false }) s
  rw [stackAttempt_of_cattrip hs turn high, nextStack_of_lt (by exact more)]
  exact ⟨rfl, congrArg Stack.state ((table k).trans (if_pos rfl)), fun i hi => (table i).trans (if_neg hi)⟩

variable (low : (stackAt s k).cattrip = false) (no : trainedStack s k tr = false)
include low no

theorem stackAttempt_of_first_failure (first : s.bring.trainAttempts = 0) : stackAttempt k tr s =
    clearTrip k { s with bring := { s.bring with trainAttempts := 1 } } := by
  rw [stackAttempt_of_turn hs turn, attemptS3, if_neg (ne_true_of_eq_false low), if_neg (ne_true_of_eq_false no), first]
  rfl

theorem stackAttempt_of_second_failure (second : s.bring.trainAttempts = 1) : stackAttempt k tr s =
    nextStack (clearTrip k (failStack k 2 s)) := by
  rw [stackAttempt_of_turn hs turn, attemptS3, if_neg (ne_true_of_eq_false low), if_neg (ne_true_of_eq_false no), second]
  rfl

/-- A stack that failed twice is failed, and the turn passes (R97). -/
theorem stackAttempt_fails (second : s.bring.trainAttempts = 1) (more : s.bring.trainIdx < 23) :
    let t := stackAttempt k tr s
    t.bring = turnPassed s.bring ∧ stackAt t k = { stackAt s k with state := 3, tripped := false } ∧
      (∀ i, i ≠ k → stackAt t i = stackAt s i) ∧
      t = { s with bring := t.bring, stackTbl := t.stackTbl, peat := t.peat
                   irq := { s.irq with groups := t.irq.groups } } := by
  have table (i : Nat) := stackAt_clearTrip_failStack k 2 i s
  rw [stackAttempt_of_second_failure hs turn low no second, nextStack_of_lt (by exact more)]
  exact ⟨rfl, (table k).trans (if_pos rfl), fun i hi => (table i).trans (if_neg hi),
    congrArg (fun u : State => { u with bring := turnPassed s.bring }) (clearTrip_failStack_frame ..)⟩

end

/-! The commands that end an attempt. -/

theorem exec_stackTrainAttemptDone (k : Fin 24) (ok : Bool) (found : StackFound) (s : State) :
    exec (.stackTrainAttemptDone k ok found) s = .next (stackAttempt k ⟨ok, found.capGiB, found.results⟩ s) := rfl

theorem exec_stackTrainTimeout (k : Fin 24) (s : State) :
    exec (.stackTrainTimeout k) s = .next (stackAttempt k ⟨false, 0, []⟩ s) := rfl

/-- The commands that end an attempt of stack `k` without training it: it failed, its time ran out, its trip rose in it, or
no capacity was found (R51, R97). -/
def FailsAttempt (k : Fin 24) (cap : Nat) (results : List Word32) (s : State) (c : Instr) : Prop :=
  c = .stackTrainAttemptDone k false ⟨cap, results⟩ ∨ c = .stackTrainTimeout k ∨
    c = .stackTrainAttemptDone k true ⟨cap, results⟩ ∧ ((stackAt s k).tripped = true ∨ cap = 0)

theorem FailsAttempt.exec_eq {k : Fin 24} {cap : Nat} {results : List Word32} {c : Instr}
    (h : FailsAttempt k cap results s c) :
    ∃ tr, trainedStack s k tr = false ∧ exec c s = .next (stackAttempt k tr s) := by
  obtain rfl | rfl | ⟨rfl, why⟩ := h
  · exact ⟨_, rfl, exec_stackTrainAttemptDone ..⟩
  · exact ⟨_, rfl, exec_stackTrainTimeout ..⟩
  · refine ⟨_, Bool.eq_false_iff.2 fun ok => ?_, exec_stackTrainAttemptDone ..⟩
    obtain ⟨-, found, untripped, -⟩ := trainedStack_iff.1 ok
    obtain tripped | rfl := why
    · exact absurd tripped (ne_true_of_eq_false untripped)
    · exact absurd found (Nat.lt_irrefl 0)

/-- Settles O29: at its turn a stack joins (`stackAttempt_joins`), gets its second attempt, is failed (`stackAttempt_fails`)
or is held (`stackAttempt_held`); the last one enters S4, which leaves every stack as training did. -/
theorem stacksTrain : Obligations.StacksTrain := by
  intro k cap results s hs turn trains fails next
  have exec_fails {c : Instr} (h : fails c) :
      ∃ tr, trainedStack s k tr = false ∧ exec c s = .next (stackAttempt k tr s) :=
    FailsAttempt.exec_eq h
  have exec_any {c : Instr} (h : c = trains ∨ fails c) : ∃ tr, exec c s = .next (stackAttempt k tr s) := by
    obtain rfl | h := h
    · exact ⟨_, exec_stackTrainAttemptDone ..⟩
    · exact (exec_fails h).imp fun _ => And.right
  refine ⟨fun here low more => ⟨fun untripped found => ?joins, fun c hc => ⟨fun first => ?again, fun second => ?fails⟩⟩,
    fun here high more c hc => ?held, fun last atLast found low untripped => ?enters, fun away c hc => ?away⟩
  case joins =>
    have ok := (trainedStack_iff (tr := ⟨true, cap, results⟩)).2 ⟨rfl, found, untripped, low⟩
    exact ⟨_, exec_stackTrainAttemptDone .., stackAttempt_joins hs here ok more⟩
  case again =>
    obtain ⟨tr, no, run⟩ := exec_fails hc
    rw [run, stackAttempt_of_first_failure hs here low no first]
    rfl
  case fails =>
    obtain ⟨tr, no, run⟩ := exec_fails hc
    exact ⟨_, run, stackAttempt_fails hs here low no second more⟩
  case held =>
    obtain ⟨tr, run⟩ := exec_any hc
    exact ⟨_, run, stackAttempt_held hs here high more⟩
  case enters =>
    have here : trainOrder s.bring.trainIdx = k := by rw [last, atLast]; rfl
    have ok := (trainedStack_iff (tr := ⟨true, cap, results⟩)).2 ⟨rfl, found, untripped, low⟩
    exact ⟨_, exec_stackTrainAttemptDone .., atLast ▸ stackAttempt_enters_S4 hs here ok last⟩
  case away =>
    obtain ⟨tr, run⟩ := exec_any hc
    rw [run, stackAttempt_of_not_turn hs away]

end Sys2Proof.Machine
end

section
/-! PROOF. A request that the host register port serves, and the map's eight GO words (02_ports.md, R62 to R64;
04_mailboxes.md, R123). -/

namespace Sys2Proof.Machine

open Sys2Proof

variable {s : State} {tag : BitVec 5}

theorem serves_iff : serves s tag = true ↔ hrpTakes s tag = true ∧ s.hrp.waiting = [] ∧ hrpOpen s = true := by
  simp only [serves, Bool.and_eq_true, List.isEmpty_iff, and_assoc]

theorem hrpRequest_of_serves {c : Instr} (f : State → State) (h : serves s tag = true) : hrpRequest c tag f s = f s := by
  obtain ⟨takes, noneHeld, isOpen⟩ := serves_iff.1 h
  have pass : ¬ (!hrpTakes s tag || !s.hrp.waiting.isEmpty) = true := by rw [takes, noneHeld]; decide
  rw [hrpRequest, if_neg pass, if_pos isOpen]

/-- The port serves only while the block is powered and out of reset (R46, R64). -/
theorem blockUp_of_serves (h : serves s tag = true) : blockUp s = true := by
  obtain ⟨-, -, isOpen⟩ := serves_iff.1 h
  exact (Bool.and_eq_true_iff.1 isOpen).1

theorem hrpMap_go : ∀ m : Fin 8, hrpMap (BitVec.ofNat 21 (32 + m)) = .mboxGo m := by decide

/-- A full write of MBOX_DOORBELL[m] is answered OK and submits (R123). -/
theorem exec_registerWrite_go (m : Fin 8) (d : Word64) (h : serves s tag = true) :
    exec (.registerWrite tag (BitVec.ofNat 21 (32 + m)) 0xFF d) s =
      .next (submit m (d.getLsbD 0) (answer tag hrpOk 0 s)) := by
  have served : exec (.registerWrite tag (BitVec.ofNat 21 (32 + m)) 0xFF d) s =
      .next (writeWord tag (BitVec.ofNat 21 (32 + m)) 0xFF d s) :=
    congrArg Host.Outcome.next (hrpRequest_of_serves _ h)
  rw [served, writeWord, hrpMap_go]
  rfl

end Sys2Proof.Machine
end

section
/-! PROOF. GO accepts a command, and when the two rows of the mailbox hardware act on it (04_mailboxes.md, R123 to R126,
R142). -/

namespace Sys2Proof.Machine

open Sys2Proof

variable {s : State} {m : Nat} {b : Mbox}

/-! The mailbox that a command is in. -/

theorem updAt_eq_set {α : Type} {l : List α} {i : Nat} {v : α} (f : α → α) (h : l[i]? = some v) :
    updAt l i f = l.set i (f v) := by
  simp only [updAt, h]

theorem busyBox_of_get (hb : s.mbox[m]? = some b) : busyBox s m = if b.busy then some b else none := by
  simp only [busyBox, hb]

theorem get_set_mbox (x : Mbox) (hb : s.mbox[m]? = some b) : (s.mbox.set m x)[m]? = some x := by
  obtain ⟨lt, -⟩ := List.getElem?_eq_some_iff.1 hb
  exact List.getElem?_set_self lt

/-- TAG lies within the header (R128). -/
theorem cmdTag_eq (b : Mbox) : cmdTag b = fld b.cmd.toNat 16 16 :=
  fld_mod _ _ _ _ (by decide)

/-! When a row finds nothing to do in a mailbox. -/

/-- A command that row `k` does not carry out now: it is another row's, it waits, or commands are held (R95, R139). -/
def Passes (k : CmdSpec) (s : State) (b : Mbox) : Prop :=
  cmdOp b ≠ k.op ∨ k.sel (cmdBody b) = false ∨ b.wait ≠ .none ∨ held s = true

theorem runCmd_of_passes {k : CmdSpec} (h : ∀ b, busyBox s m = some b → Passes k s b) : runCmd k m s = s := by
  have idle : cmdReady k s m = false := by
    unfold cmdReady
    split
    · next b hb =>
      obtain h | h | h | h := h b hb <;> simp [h]
    · rfl
  rw [runCmd, if_neg (ne_true_of_eq_false idle)]

/-- A response leaves the mailbox free (R125). -/
theorem busyBox_respond (st f e len bits : Nat) (s : State) : busyBox (respond m st f e len bits s) m = none := by
  unfold respond
  split
  · next hb => simp only [busyBox, hb]
  · next b hb =>
    have kept : (reportClamps m b (if st = stOk then b.clamps else []) s).mbox[m]? = some b := by
      rw [(reportClamps_reports ..).mbox, hb]
    rw [busyBox_of_get (updAt_get_eq _ _ _ b kept)]
    rfl

/-- A command that was made to wait does so for that reason. -/
theorem wait_of_applyReply_wait {w : CmdWait} (h : busyBox (applyReply m (.wait w) s) m = some b) : b.wait = w := by
  obtain ⟨hb, -⟩ := busyBox_get h
  cases hx : s.mbox[m]? with
  | none =>
    have hb : (updAt s.mbox m fun x => { x with wait := w })[m]? = some b := hb
    simp only [updAt, hx, reduceCtorEq] at hb
  | some x =>
    have waits := updAt_get_eq s.mbox m (fun x => { x with wait := w }) x hx
    cases waits.symm.trans hb
    rfl

/-- After a management reset, carried out or refused, no WARM_RESET stands in its mailbox to be carried out. -/
theorem runCmd_warmReset_after_management (hb : s.mbox[m]? = some b) (op : cmdOp b = 0x0120) :
    runCmd specWarmReset m (runCmd specResetManagement m s) = runCmd specResetManagement m s := by
  refine runCmd_of_passes fun x hx => ?_
  obtain same | ⟨_, -, -, ⟨st, f, e, refused⟩ | ⟨body, cl, -, -, carried⟩⟩ := runCmd_cases specResetManagement m s
  · rw [same] at hx
    cases (busyBox_get hx).1.symm.trans hb
    exact .inl (by rw [op]; decide)
  · rw [refused, busyBox_respond] at hx
    cases hx
  · rw [carried] at hx
    exact .inr (.inr (.inl (wait_of_applyReply_wait hx ▸ nofun)))

/-! What a write of GO does before the mailbox hardware acts. -/

/-- The command of mailbox `m`, which holds `b`, taken: its number, its TAG, and the area locked (R123, R125, R126). -/
def takeCommand (m : Nat) (b : Mbox) (s : State) : State :=
  { s with mbox := s.mbox.set m (goBox b s.cmdSeq (cyclesOf s islMgmt)), cmdSeq := nextSeq s.cmdSeq }

theorem takeCommand_get (hb : s.mbox[m]? = some b) :
    (takeCommand m b s).mbox[m]? = some (goBox b s.cmdSeq (cyclesOf s islMgmt)) :=
  get_set_mbox _ hb

theorem busyBox_takeCommand (hb : s.mbox[m]? = some b) :
    busyBox (takeCommand m b s) m = some (goBox b s.cmdSeq (cyclesOf s islMgmt)) :=
  busyBox_of_get (takeCommand_get hb)

theorem goWrite_of_idle (hb : s.mbox[m]? = some b) (idle : b.busy = false)
    (listed : (mgmtRuns s && !held s && !opAccepted s (cmdOp b)) = false) : goWrite m true s = takeCommand m b s := by
  have taken : goWrite m true s = refuseUnlisted m (takeCommand m b s) := by
    simp only [goWrite, if_true, hb, idle, Bool.false_eq_true, if_false, updAt_eq_set _ hb, takeCommand]
  have stands : ¬ (mgmtRuns (takeCommand m b s) && !held (takeCommand m b s) &&
      !opAccepted (takeCommand m b s) (cmdOp (goBox b s.cmdSeq (cyclesOf s islMgmt)))) = true :=
    ne_true_of_eq_false listed
  rw [taken, refuseUnlisted, busyBox_takeCommand hb]
  exact if_neg stands

theorem goWrite_of_busy (hb : s.mbox[m]? = some b) (busy : b.busy = true) :
    goWrite m true s = { s with mbox := s.mbox.set m { b with ignored := satAdd 4 b.ignored 1 } } := by
  simp only [goWrite, if_true, hb, busy, updAt_eq_set _ hb]

theorem satAdd_four_one {n : Nat} (h : n ≤ 15) : satAdd 4 n 1 = min (n + 1) 15 := by
  unfold satAdd
  split <;> omega

/-! The two rows of the mailbox hardware, which act in the step of GO (R142). -/

/-- FUNCTION_RESET of management (R112). -/
def AsksManagementReset (b : Mbox) : Prop := cmdOp b = 0x0120 ∧ fld (cmdBody b) 0 8 = 10

theorem passes_management (h : ¬ AsksManagementReset b) : Passes specResetManagement s b := by
  by_cases op : cmdOp b = 0x0120
  · exact .inr (.inl (beq_eq_false_iff_ne.2 fun code => h ⟨op, code⟩))
  · exact .inl op

/-- A command in progress of which the mailbox hardware carries out nothing now. -/
def NoResetDue (s : State) (b : Mbox) : Prop :=
  AsksManagementReset b ∨ cmdOp b = 0x0121 → b.wait ≠ .none ∨ held s = true

/-- With neither reset to carry out, what GO's write itself does is all. -/
theorem submit_eq_goWrite {go : Bool} {t : State} (ht : goWrite m go s = t)
    (h : ∀ x, busyBox t m = some x → NoResetDue t x) : submit m go s = t := by
  have management : runCmd specResetManagement m t = t := runCmd_of_passes fun x hx => by
    by_cases asks : AsksManagementReset x
    · exact .inr (.inr (h x hx (.inl asks)))
    · exact passes_management asks
  have warm : runCmd specWarmReset m t = t := runCmd_of_passes fun x hx => by
    by_cases op : cmdOp x = 0x0121
    · exact .inr (.inr (h x hx (.inr op)))
    · exact .inl op
  rw [submit, ht, management, warm]

/-- GO = 0 has no effect (R123). -/
theorem submit_of_zero (hb : s.mbox[m]? = some b) (quiet : b.busy = true → NoResetDue s b) : submit m false s = s :=
  submit_eq_goWrite rfl fun x hx => by
    obtain ⟨hx, busy⟩ := busyBox_get hx
    cases hb.symm.trans hx
    exact quiet busy

/-- GO = 1 in a BUSY mailbox is counted in IGNORED_GO (R125). -/
theorem submit_of_busy (hb : s.mbox[m]? = some b) (busy : b.busy = true) (quiet : NoResetDue s b) :
    submit m true s = { s with mbox := s.mbox.set m { b with ignored := satAdd 4 b.ignored 1 } } :=
  submit_eq_goWrite (goWrite_of_busy hb busy) fun x hx => by
    cases (busyBox_get hx).1.symm.trans (get_set_mbox _ hb)
    exact quiet

section
variable (hb : s.mbox[m]? = some b) (idle : b.busy = false)
  (listed : (mgmtRuns s && !held s && !opAccepted s (cmdOp b)) = false)
include hb idle listed

theorem submit_takes (noManagement : ¬ AsksManagementReset b) (noWarm : cmdOp b ≠ 0x0121) :
    submit m true s = takeCommand m b s :=
  submit_eq_goWrite (goWrite_of_idle hb idle listed) fun x hx asks => by
    cases (busyBox_takeCommand hb).symm.trans hx
    exact absurd asks (not_or.2 ⟨noManagement, noWarm⟩)

theorem submit_takes_managementReset (asks : AsksManagementReset b) :
    submit m true s = runCmd specResetManagement m (takeCommand m b s) := by
  rw [submit, goWrite_of_idle hb idle listed]
  exact runCmd_warmReset_after_management (takeCommand_get hb) asks.1

theorem submit_takes_warmReset (op : cmdOp b = 0x0121) :
    submit m true s = runCmd specWarmReset m (takeCommand m b s) := by
  have passes : runCmd specResetManagement m (takeCommand m b s) = takeCommand m b s := runCmd_of_passes fun x hx => by
    cases (busyBox_takeCommand hb).symm.trans hx
    exact passes_management fun asks => absurd (asks.1.symm.trans op) (by decide)
  rw [submit, goWrite_of_idle hb idle listed, passes]

end

/-- Settles O15: GO = 1 takes the command of a free mailbox (`submit_takes` and the two resets beside it) or is counted in a
BUSY one (`submit_of_busy`), and GO = 0 does nothing (`submit_of_zero`); the port has answered OK (`exec_registerWrite_go`). -/
theorem goTakesCommand : Obligations.GoTakesCommand := by
  intro tag m d s b hs hb go taken resets
  have hgo : go = .next (submit m (d.getLsbD 0) (answer tag hrpOk 0 s)) := exec_registerWrite_go m d hs
  have answered : (answer tag hrpOk 0 s).mbox[m.val]? = some b := hb
  have htaken : taken = takeCommand m b (answer tag hrpOk 0 s) := by
    rw [takeCommand, goBox, cmdTag_eq]
    rfl
  refine ⟨fun one idle listed => ?accepted, fun waits => ?others⟩
  case accepted =>
    rw [hgo, one, htaken]
    exact ⟨fun noManagement noWarm => congrArg _ (submit_takes answered idle listed noManagement noWarm),
      fun asks => congrArg _ (submit_takes_managementReset answered idle listed asks),
      fun op => congrArg _ (submit_takes_warmReset answered idle listed op)⟩
  case others =>
    have quiet (busy : b.busy = true) : NoResetDue (answer tag hrpOk 0 s) b := fun asks =>
      (waits busy asks).imp_right fun h => h.resolve_right (ne_false_of_eq_true (blockUp_of_serves hs))
    refine ⟨fun one busy few => ?counted, fun zero => ?noEffect⟩
    case counted =>
      rw [hgo, one, submit_of_busy answered busy (quiet busy), satAdd_four_one few]
      rfl
    case noEffect =>
      rw [hgo, zero, submit_of_zero answered quiet]
      rfl

end Sys2Proof.Machine
end

section
/-! PROOF. A doorbell at a ring: what the pointers accept, what each state of the ring makes of it, and how the port answers
(05_rings.md, R161 to R164). -/

namespace Sys2Proof.Machine

open Sys2Proof

variable {s : State} {tag : BitVec 5} {n v : Nat} {r : Ring}

/-! The check against the pointers. -/

/-- The three conditions under which a ring accepts the value written (R162). -/
def BellFits (r : Ring) (v : Nat) : Prop :=
  fld v 0 16 < ringSize r ∧ extSub r (bellExt r v) r.retire ≤ ringSize r ∧
    extSub r (bellExt r v) r.tail ≤ extSub r (bellExt r v) r.retire

theorem bellFault_eq_none_iff : bellFault r v = none ↔ BellFits r v := by
  unfold bellFault BellFits
  split
  · next beyond => simp [Nat.not_lt.2 beyond]
  split
  · next full => simp [Nat.not_le.2 full]
  split
  · next behind => simp [Nat.not_le.2 behind]
  · next within fits follows => simp [Nat.not_le.1 within, Nat.not_lt.1 fits, Nat.not_lt.1 follows]

/-- The check reads TAIL and WRAP only, which lie in the 32 bits that a doorbell has. -/
theorem bellExt_fld_low (x : Nat) : bellExt r (fld x 0 32) = bellExt r x := by
  have low (lo w : Nat) (h : lo + w ≤ 32) : fld (fld x 0 32) lo w = fld x lo w := fld_mod x lo w 32 h
  rw [bellExt, bellExt, low 16 1 (by decide), low 0 16 (by decide)]

theorem bellFits_fld_low (x : Nat) : BellFits r (fld x 0 32) ↔ BellFits r x := by
  have tail : fld (fld x 0 32) 0 16 = fld x 0 16 := fld_mod x 0 16 32 (by decide)
  rw [BellFits, BellFits, tail, bellExt_fld_low]

/-- A bad doorbell is counted at its ring, recorded, and raises cause 4 (R163, R494). -/
def badBell (n : Nat) (r : Ring) (v reason : Nat) (s : State) : State :=
  setCause 8 4 (offer none (bellRec s n r v reason) { s with rings := Tbl.put s.rings n (countBad r) })

theorem ringBell_of_fits (hr : Tbl.get? s.rings n = some r) (fits : BellFits r v) :
    ringBell n v s = { s with rings := Tbl.put s.rings n (setTail v r) } := by
  simp only [ringBell, hr, bellFault_eq_none_iff.2 fits]

theorem ringBell_of_not_fits (hr : Tbl.get? s.rings n = some r) (bad : ¬ BellFits r v) :
    ∃ reason, ringBell n v s = badBell n r v reason s := by
  obtain ⟨reason, fault⟩ := Option.ne_none_iff_exists'.1 (mt bellFault_eq_none_iff.1 bad)
  exact ⟨reason, by simp only [ringBell, hr, fault, badBell]⟩

/-! What a ring's state makes of it. -/

theorem bellCase_of_orphan (hr : Tbl.get? s.rings n = none) : bellCase n v s = bump 0 0 0 1 s := by
  simp only [bellCase, hr]

theorem bellCase_of_resetting (hr : Tbl.get? s.rings n = some r) (resetting : r.state = 2) :
    bellCase n v s = { s with rings := Tbl.put s.rings n { r with bells := r.bells ++ [BitVec.ofNat 32 v] } } := by
  simp only [bellCase, hr, resetting, if_true]

theorem bellCase_of_releasing (hr : Tbl.get? s.rings n = some r) (notReset : r.state ≠ 2)
    (releasing : r.state = 4 ∨ jobReleasing s r.job = true) :
    bellCase n v s = { s with rings := Tbl.put s.rings n (countBad r) } := by
  have counted : (r.state = 4 || jobReleasing s r.job || (standsBy s && isMirrored s 1 n)) = true := by
    obtain atRing | ofJob := releasing
    · simp [atRing]
    · simp [ofJob]
  simp only [bellCase, hr, if_neg notReset, if_pos counted]

/-- A ring in RUN or ERROR of a job that stays, mirrored at no member that stands by, checks its doorbells. -/
theorem bellCase_eq_ringBell (hr : Tbl.get? s.rings n = some r) (state : r.state = 1 ∨ r.state = 3)
    (stays : jobReleasing s r.job = false) (own : (standsBy s && isMirrored s 1 n) = false) :
    bellCase n v s = ringBell n v s := by
  have notReset : r.state ≠ 2 := by omega
  have notReleased : r.state ≠ 4 := by omega
  have checked : ¬ (r.state = 4 || jobReleasing s r.job || (standsBy s && isMirrored s 1 n)) = true := by
    simp [notReleased, stays, own]
  simp only [bellCase, hr, if_neg notReset, if_neg checked]

/-! How the port answers it. -/

section
variable {ring : Fin 4096} {be : BitVec 8} {d : Word64} (h : serves s tag = true)
include h

theorem exec_doorbell_of_serves : exec (.doorbell tag ring be d) s = .next (doorbellWrite tag ring be d s) :=
  congrArg Host.Outcome.next (hrpRequest_of_serves _ h)

/-- Before Boardwalk opens no ring is there (R95). -/
theorem exec_doorbell_of_shut (shut : s.bring.blockReady = false) :
    exec (.doorbell tag ring be d) s = .next (answer tag hrpAbsent 0 s) := by
  rw [exec_doorbell_of_serves h, doorbellWrite, shut]
  rfl

section
variable (ready : s.bring.blockReady = true)
include ready

/-- A write that leaves one of bytes 3:0 out is ignored (R63, R161). -/
theorem exec_doorbell_of_partial (part : fld be.toNat 0 4 ≠ 15) :
    exec (.doorbell tag ring be d) s = .next (answerDecode tag s) := by
  rw [exec_doorbell_of_serves h, doorbellWrite, ready, if_neg part]
  rfl

theorem exec_doorbell_of_whole (whole : fld be.toNat 0 4 = 15) :
    exec (.doorbell tag ring be d) s = .next (answer tag hrpOk 0 (bellCase ring (fld d.toNat 0 32) s)) := by
  rw [exec_doorbell_of_serves h, doorbellWrite, ready, if_pos whole]
  rfl

end
end

theorem ofNat_fld_low (d : Word64) : BitVec.ofNat 32 (fld d.toNat 0 32) = d.setWidth 32 :=
  BitVec.eq_of_toNat_eq (by simp [fld])

/-- Settles O19: the port answers each write (`exec_doorbell_of_shut`, `exec_doorbell_of_partial`, `exec_doorbell_of_whole`),
`bellCase` tells the rings outside the normal case apart (R164), and the others check the pointers (`ringBell_of_fits`,
`ringBell_of_not_fits`: R162, R163). -/
theorem doorbells : Obligations.Doorbells := by
  intro tag n be d s hs did setRing
  have answersOk (ready : s.bring.blockReady = true) (whole : fld be.toNat 0 4 = 15) {t : State}
      (ht : bellCase n (fld d.toNat 0 32) s = t) : did (answer tag 0 0 t) :=
    ht ▸ exec_doorbell_of_whole hs ready whole
  refine ⟨exec_doorbell_of_shut hs, exec_doorbell_of_partial hs,
    fun ready whole orphan => answersOk ready whole (bellCase_of_orphan orphan), fun r hr ready whole => ?ring⟩
  have answered {t : State} := answersOk ready whole (t := t)
  refine ⟨fun resetting => answered (ofNat_fld_low d ▸ bellCase_of_resetting hr resetting),
    fun notReset releasing => answered (bellCase_of_releasing hr notReset releasing), fun state stays own => ?checked⟩
  have checks := bellCase_eq_ringBell (v := fld d.toNat 0 32) hr state stays own
  refine ⟨fun fits => ?accepted, fun bad => ?ignored⟩
  case accepted =>
    have accepted := checks.trans (ringBell_of_fits hr ((bellFits_fld_low _).2 fits))
    rw [setTail, bellExt_fld_low] at accepted
    exact answered accepted
  case ignored =>
    obtain ⟨reason, ignored⟩ := ringBell_of_not_fits hr (mt (bellFits_fld_low _).1 bad)
    exact ⟨reason, answered (checks.trans ignored)⟩

end Sys2Proof.Machine
end
